-- ==== Sys2Proof/Word.lean ====
section
/-!
DEFINITION. The plain value types every file uses: bytes, words, sparse maps, number-format names
and exact floating-point values. No operation with a corner of its own stands here.
-/
namespace Sys2Proof

/-- One byte of memory. -/
abbrev Byte := BitVec 8

/-- A 64-bit register or instruction word. -/
abbrev W64 := BitVec 64

/-- A sparse map in canonical form: keys strictly rising, no entry equal to the default. -/
abbrev SMap (α : Type) := List (Nat × α)

/-- Sparse memory: (address, byte) pairs, an unlisted address reads as zero (R464). -/
abbrev Mem := SMap Byte

/-- The number formats of Table 2.1 (R36). -/
inductive Fmt where
  | b1 | t2 | i2 | i3 | i4 | l4 | f4 | i8 | f8a | f8b | bf16 | fp16 | fp32 | i32 | c4
  deriving DecidableEq, Repr

/-- An exact floating-point value: a finite value is (-1)^neg * m * 2^e, with the sign of zero kept (R47). -/
inductive FVal where
  | nan
  | inf (neg : Bool)
  | fin (neg : Bool) (m : Nat) (e : Int)
  deriving DecidableEq, Repr

/-- An exact dyadic number m * 2^e. -/
structure Dyad where
  m : Int
  e : Int
  deriving DecidableEq, Repr

end Sys2Proof
end

