-- ==== Sys2Proof/Syntax.lean ====
section
/-!
DEFINITION. The commands of the module: one constructor of Instr per row of the table of operations and events.
-/
namespace Sys2Proof

/-- A master of the on-chip network (Table 8.4, Table 12.6); `fw` is device firmware, never frozen. -/
inductive Master where
  | cell (c k : Nat)
  | str (c e : Nat)
  | upd (c : Nat)
  | vec (c : Nat)
  | host (p : Nat)
  | netq (q : Nat)
  | io (d : Nat)
  | fw
  deriving DecidableEq, Repr

/-- Who sends an access to a bank (Table 8.6): a slot of a stream engine, the block loader, the LUT builder, a weight lane, the
sequencer for a context, the write-out and an atomic of a cell; the dense unit, the vector engine, the outlier adder and the
quantizer; the update engine and a gather-pool engine; the host window, and its observe reads. -/
inductive Requester where
  | stream (e i : Nat)
  | loader
  | builder
  | lane
  | seq (x : Nat)
  | writeOut
  | atomic (x : Nat)
  | dense
  | vector
  | outlier
  | quant
  | update
  | gpe (j : Nat)
  | window
  | observe
  deriving DecidableEq, Repr

/-- What an access does: reads `len` bytes, writes bytes, or is an atomic of R162: AADD of type f, or ASWP, with operand g. -/
inductive BankOp where
  | read (len : Nat)
  | write (data : List Byte)
  | atomic (swap : Bool) (f g : Nat)
  deriving DecidableEq, Repr

/-- What the host has set in a port's configuration space: VF Enable; ATS Enable and PRI Enable of VF i + 1 as bit i; and its
Outstanding Page Request Allocation (R366, R368 to R370). -/
structure HostCfg where
  vfen : Bool := false
  ats : Nat := 0
  pri : Nat := 0
  alloc : Nat := 0
  deriving DecidableEq, Repr

/-- What a fabric link's partner exchange gives (Table 13.6 step 5). -/
structure Partner where
  dom : Nat := 0
  dx : Nat := 1
  dy : Nat := 1
  index : Nat := 0
  link : Nat := 0
  deriving DecidableEq, Repr

/-- A unit that a test found failed: kind, cause, island and index as in Table 14.6. -/
structure Finding where
  kind : Nat
  cause : Nat
  island : Nat
  index : Nat := 0
  deriving DecidableEq, Repr

/-- The commands of the module, one per row of the table of operations and events.
Operands: `c` cluster, `k` cell of the cluster (for an instruction of a compute cell also `x`, the context whose next word it is), `f` the mailbox
of a function (partition number, 16 + port for a port's management function, 20 for the sideband), `p` partition, `l` link, `e` engine or port,
`i` context or entry, `v` a value written, `off` an offset. What only the module's surroundings decide (a test's findings, host memory's bytes, an answer
of the host) is an operand too. -/
inductive Instr where
  | registerWrite (f off n v : Nat)
  | expertRangeAccess (f off n : Nat) (write : Bool) (v : Nat)
  | opNop (c k x : Nat)
  | opEnd (c k x : Nat)
  | opBr (c k x : Nat)
  | opBc (c k x : Nat)
  | opBrl (c k x : Nat)
  | opJr (c k x : Nat)
  | opAdd (c k x : Nat)
  | opSub (c k x : Nat)
  | opAnd (c k x : Nat)
  | opOr (c k x : Nat)
  | opXor (c k x : Nat)
  | opShl (c k x : Nat)
  | opShr (c k x : Nat)
  | opSar (c k x : Nat)
  | opMul (c k x : Nat)
  | opMin (c k x : Nat)
  | opMax (c k x : Nat)
  | opSlt (c k x : Nat)
  | opSltu (c k x : Nat)
  | opInsh (c k x : Nat)
  | opShacc (c k x : Nat)
  | opReq (c k x : Nat)
  | opLd (c k x : Nat)
  | opSt (c k x : Nat)
  | opAadd (c k x : Nat)
  | opAswp (c k x : Nat)
  | opWaitm (c k x : Nat)
  | opWaitmReread (c k x : Nat)
  | opGive (c k x : Nat)
  | opBuild (c k x : Nat)
  | buildStart (c k : Nat)
  | opSweep (c k x : Nat)
  | sweepStart (c k : Nat)
  | opFence (c k x : Nat)
  | fenceComplete (c k : Nat)
  | opRqpush (c k x : Nat)
  | opCbload (c k x : Nat)
  | opAccrd (c k x : Nat)
  | opQpush (c k x : Nat)
  | opWait (c k x : Nat)
  | opSig (c k x : Nat)
  | opWaitf (c k x : Nat)
  | opBar (c k x : Nat)
  | opRdsys (c k x : Nat)
  | taskFaultStop
  | laneTakeRow (c k : Nat) (same : Bool)
  | rowRetire (c k l : Nat)
  | blockStaged (c k : Nat)
  | sweepComplete (c k : Nat)
  | tongueRequest (c k : Nat)
  | tongueAnswer (c k : Nat)
  | stolenBlockReceive (c k : Nat)
  | chorusSegment (c k flip : Nat)
  | chorusCrcReport (c k : Nat)
  | lutCtxHalt (p v : Nat)
  | lutCtxStep (p v : Nat)
  | lutGregWrite (p x i v : Nat)
  | lutPmWrite (p w v : Nat)
  | lutCtxPcWrite (p x v : Nat)
  | lutAccRead (p l n : Nat)
  | lutFaultClear (p v : Nat)
  | quantJobStart (c : Nat)
  | combinePost (c : Nat)
  | combineTimeout (p i : Nat)
  | quantJobEnd (c : Nat)
  | qntJobAddrWrite (p n v : Nat)
  | qntCstDataWrite (p n v : Nat)
  | qntStatClear (p n v : Nat)
  | qntCountClear (p n : Nat)
  | qntRmClear (p v : Nat)
  | qntHalt (p n v : Nat)
  | qntStatSumRead (p n i : Nat)
  | denseJob (c : Nat)
  | vecCopy (c : Nat)
  | vecAdd (c : Nat)
  | vecSub (c : Nat)
  | vecMul (c : Nat)
  | vecFma (c : Nat)
  | vecMax (c : Nat)
  | vecMin (c : Nat)
  | vecAbs (c : Nat)
  | vecNeg (c : Nat)
  | vecExp (c : Nat)
  | vecRecip (c : Nat)
  | vecRsqrt (c : Nat)
  | vecCmpgt (c : Nat)
  | vecCmpeq (c : Nat)
  | vecSelect (c : Nat)
  | vecRsum (c : Nat)
  | vecRmax (c : Nat)
  | vecRsumsq (c : Nat)
  | vecCompress (c : Nat)
  | vecExpand (c : Nat)
  | vecCvt (c : Nat)
  | vecQrow (c : Nat)
  | vecRcombine (c : Nat)
  | vecOadd (c : Nat)
  | vecGive (c : Nat)
  | jobDoneSignal (c e : Nat)
  | gatherSum (c j : Nat) (ov : List Nat)
  | gatherMean (c j : Nat) (ov : List Nat)
  | gatherWsum (c j : Nat) (ov : List Nat)
  | gatherGive (c j : Nat)
  | rowReadRetry (c j : Nat) (ov : List Nat)
  | cacheFill (c : Nat)
  | cacheInvalidate (c : Nat)
  | tblCacheInv (p t : Nat)
  | moltReplace (c : Nat)
  | moltAccumulate (c : Nat)
  | moltReplaceCond (c : Nat)
  | moltReplica (c : Nat)
  | moltCommit (c n : Nat)
  | batchIngest (c : Nat)
  | updateJob (c : Nat)
  | remoteWaitExpiry (tag : Nat) (ov : List Nat)
  | updHalt (p n v : Nat)
  | gpeHalt (p n j v : Nat)
  | bankAccess (m : Master) (who : Requester) (a : Nat) (op : BankOp) (rivals : List Requester) (commit : Bool)
  | ownerHandover (c b : Nat)
  | bnkOwnerWrite (p b v : Nat)
  | bnkWinBaseWrite (p v : Nat)
  | hostWindowAccess (p o : Nat) (write : Bool) (data : List Byte) (len : Nat) (commit : Bool)
  | backgroundScrub (k found struck : Nat)
  | clutchFetch (c e i : Nat) (hs : List (Nat × Byte))
  | streamXfer (c e i : Nat)
  | streamWait (c e i : Nat)
  | streamWaitPass (c e i : Nat)
  | streamBarrier (c e i : Nat)
  | streamLink (c e i : Nat)
  | streamEnd (c e i : Nat)
  | streamGrant (c e : Nat) (acks : List (Nat × Nat)) (hs : List (Nat × Byte))
  | deadlineMiss (c e i : Nat)
  | descriptorRetire (c e i : Nat)
  | strArm (p n e i : Nat)
  | mappingFault (c e i cause : Nat) (write : Bool)
  | streamHalt (c e i : Nat)
  | priResponse (port g code : Nat)
  | barrierRelease (p : Nat)
  | barrierTimeout (p : Nat)
  | strHalt (p n e : Nat) (halt : Bool)
  | strSlackClear (p n e : Nat)
  | strSaveBaseWrite (p v : Nat)
  | cmdNop (f : Nat)
  | cmdSubmitRequest (f : Nat)
  | lapseCheck (p : Nat)
  | requestDispatch (p : Nat)
  | taskSend (r : Nat)
  | taskStart (c : Nat)
  | taskEnd (c t : Nat)
  | budgetPeriod (pext phio : Nat)
  | dspHoldExpiry (c : Nat)
  | limiterStep
  | limiterRestore
  | brumationEntry (c : Nat)
  | offEntry (c : Nat)
  | wakeComplete (c : Nat)
  | dspHalt (p n : Nat) (halt : Bool)
  | pwrThermWrite (v : Nat)
  | doorbell (f : Nat) (wide : Bool) (tail expseq : Nat) (hs : List (Nat × Byte))
  | commandFetch (f : Nat) (hs : List (Nat × Byte))
  | entryReread (f : Nat) (hs : List (Nat × Byte))
  | completionRecordWrite (f : Nat)
  | mbxCplHeadWrite (f v : Nat)
  | mbxErrHeadWrite (f v : Nat)
  | mailboxEnable (f : Nat) (en : Bool)
  | atsInvalidate (port vf page n : Nat)
  | hostReadRefused (c e i : Nat)
  | cxlMemAccess (port seg o : Nat) (write : Bool) (data : List Byte) (len : Nat) (commit : Bool)
  | cmdLoadModel (f : Nat)
  | cmdBind (f : Nat)
  | cmdUnbind (f : Nat)
  | cmdUpdateRows (f : Nat)
  | cmdBarrier (f : Nat)
  | cmdQuery (f : Nat)
  | cmdResumeStream (f : Nat)
  | cmdSetBudget (f : Nat)
  | cmdReclaim (f : Nat)
  | cmdPathFlush (f : Nat)
  | cmdScrub (f : Nat)
  | cmdContinue (f : Nat)
  | cmdRepairReset (f : Nat)
  | cmdFreezeRelease (f : Nat)
  | cmdFwUpdate (f : Nat) (boots rest : Bool)
  | cmdCancel (f : Nat)
  | perst (port gen width : Nat)
  | flr (port fn : Nat)
  | tokenCommit (p : Nat)
  | devExpertWrite (v : Nat)
  | devPortCfgWrite (port v : Nat) (h : HostCfg)
  | msixSend (f v : Nat) (masked : Bool)
  | clusterDrainLimit (c : Nat)
  | cellReset (c k : Nat)
  | clusterReset (c : Nat)
  | partitionReset (p : Nat) (finish : Bool)
  | deviceReset (held : Bool)
  | rdmaWrite (q rkey va : Nat) (data : List Byte)
  | rdmaWriteImmediate (q rkey va imm : Nat) (data : List Byte)
  | rdmaRead (q rkey va len : Nat)
  | roceSend (q : Nat) (data : List Byte)
  | udpDatagram (q peer : Nat) (data : List Byte)
  | batchAcknowledgement (q : Nat)
  | cnpReceive (q : Nat)
  | ecnCeReceive (q : Nat)
  | flitReceive (l fec : Nat) (bytes : List Byte) (credits : List Nat)
  | nakReplay (l seq : Nat)
  | ackTimeoutReplay (l : Nat)
  | rowRead (ovr : Nat)
  | rowData (ov : List Nat)
  | molt
  | outcome
  | replica
  | refuse (ov : List Nat)
  | fabricForward
  | linkTrain (l good : Nat) (lock : Bool) (p : Partner)
  | linkSoakEnd (l ser : Nat) (uncorr : Bool)
  | linkLossOfLock (l : Nat)
  | retrain (l : Nat)
  | liveRetrainEnd (l good : Nat) (lock : Bool) (p : Partner) (ser : Nat) (uncorr : Bool)
  | linkDisable (l : Nat) (dis : Bool)
  | lnkDomainWrite (v : Nat)
  | ethernetLinkDown (e res : Nat)
  | netPortEnable (e : Nat) (en : Bool)
  | queueEnable (v : Nat)
  | stageMgmt (slots : Nat) (stby flashBad : Bool)
  | stageClocknet (fs : List Finding) (net : Option Nat) (flashBad : Bool)
  | stageMemory (fs : List Finding) (caps : List Nat) (trained : Nat) (flashBad : Bool)
  | stageLinks (host hostOk eth ethOk absent bulk bulkOk : Nat) (flashBad : Bool)
  | stageCompute (fs : List Finding) (flashBad : Bool)
  | errorRecordWrite
  | cellRetirement (c k : Nat) (seen : Bool)
  | clusterRetirement (c : Nat) (seen : Bool)
  | hbmChannelRetirement (ch : Nat)
  | hbmMoveStep (ch : Nat)
  | bankMove (c b : Nat)
  | unitReadmit (pass : Bool)
  | heartbeat
  | takeover (finish : Bool)
  | plannedTakeover (finish : Bool)
  | standbyBoot (ok : Bool)
  | coreRestart (d : Nat)
  | injectBankError (two : Bool)
  | injectHbmError (two : Bool)
  | injectCrcFailure (l : Nat)
  | injectHeartbeatStop
  | errRingEnable (en : Bool)
  | errRingHeadWrite (v : Nat)
  | standbyRailUp
  | pwrEnAssert
  | pwrEnDeassert
  | inputDip
  | undervoltage (gone : Bool)
  | overvoltage
  | railFault
  | devrst (held : Bool)
  | sensorRead (n : Nat) (v : Option Nat)
  | thermtrip (cause : Nat)
  | mctpControlMessage (cmd arg : Nat)
  | pldmMessage (ty op : Nat) (img : List Byte)
  | activateFirmware (boots rest : Bool)
  | sidebandCommand (ws : List Nat)
  | sidebandDeviceReset (held : Bool)
  | managementAccess (off : Nat) (write : Bool) (v : Nat)
  | sidebandSessionTimeout (close : Bool)
  | stagingDrain (c b : Nat)
  | bulkPortLinkDown (port : Nat) (trained : Bool)
  | pfcPauseReceive (e prio : Nat) (pause : Bool)
  | roceAckTimeout (q n : Nat)
  | reclaimLockoutExpiry (p : Nat)
  deriving DecidableEq, Repr

end Sys2Proof
end

