-- ==== Sys2Proof/WellFormed.lean ====
section
/-!
DEFINITION. Which commands name units that the module has: 96 clusters of 32 cells with 4 contexts and 576 banks each, 16
partitions, 16 fabric links, 4 host, Ethernet and bulk ports, 1,024 network queues, 512 HBM channels, and the registers
and lanes of each (R23, R24).
-/
namespace Sys2Proof

/-- Every unit the command names exists. -/
def Instr.wellFormed (i : Instr) : Bool :=
  match i with
  | .registerWrite f _ _ _ => decide (f < 20)
  | .expertRangeAccess f _ _ _ _ => decide (f < 20)
  | .opNop c k x => decide (c < 96 ∧ k < 32 ∧ x < 4)
  | .opEnd c k x => decide (c < 96 ∧ k < 32 ∧ x < 4)
  | .opBr c k x => decide (c < 96 ∧ k < 32 ∧ x < 4)
  | .opBc c k x => decide (c < 96 ∧ k < 32 ∧ x < 4)
  | .opBrl c k x => decide (c < 96 ∧ k < 32 ∧ x < 4)
  | .opJr c k x => decide (c < 96 ∧ k < 32 ∧ x < 4)
  | .opAdd c k x => decide (c < 96 ∧ k < 32 ∧ x < 4)
  | .opSub c k x => decide (c < 96 ∧ k < 32 ∧ x < 4)
  | .opAnd c k x => decide (c < 96 ∧ k < 32 ∧ x < 4)
  | .opOr c k x => decide (c < 96 ∧ k < 32 ∧ x < 4)
  | .opXor c k x => decide (c < 96 ∧ k < 32 ∧ x < 4)
  | .opShl c k x => decide (c < 96 ∧ k < 32 ∧ x < 4)
  | .opShr c k x => decide (c < 96 ∧ k < 32 ∧ x < 4)
  | .opSar c k x => decide (c < 96 ∧ k < 32 ∧ x < 4)
  | .opMul c k x => decide (c < 96 ∧ k < 32 ∧ x < 4)
  | .opMin c k x => decide (c < 96 ∧ k < 32 ∧ x < 4)
  | .opMax c k x => decide (c < 96 ∧ k < 32 ∧ x < 4)
  | .opSlt c k x => decide (c < 96 ∧ k < 32 ∧ x < 4)
  | .opSltu c k x => decide (c < 96 ∧ k < 32 ∧ x < 4)
  | .opInsh c k x => decide (c < 96 ∧ k < 32 ∧ x < 4)
  | .opShacc c k x => decide (c < 96 ∧ k < 32 ∧ x < 4)
  | .opReq c k x => decide (c < 96 ∧ k < 32 ∧ x < 4)
  | .opLd c k x => decide (c < 96 ∧ k < 32 ∧ x < 4)
  | .opSt c k x => decide (c < 96 ∧ k < 32 ∧ x < 4)
  | .opAadd c k x => decide (c < 96 ∧ k < 32 ∧ x < 4)
  | .opAswp c k x => decide (c < 96 ∧ k < 32 ∧ x < 4)
  | .opWaitm c k x => decide (c < 96 ∧ k < 32 ∧ x < 4)
  | .opWaitmReread c k x => decide (c < 96 ∧ k < 32 ∧ x < 4)
  | .opGive c k x => decide (c < 96 ∧ k < 32 ∧ x < 4)
  | .opBuild c k x => decide (c < 96 ∧ k < 32 ∧ x < 4)
  | .buildStart c k => decide (c < 96 ∧ k < 32)
  | .opSweep c k x => decide (c < 96 ∧ k < 32 ∧ x < 4)
  | .sweepStart c k => decide (c < 96 ∧ k < 32)
  | .opFence c k x => decide (c < 96 ∧ k < 32 ∧ x < 4)
  | .fenceComplete c k => decide (c < 96 ∧ k < 32)
  | .opRqpush c k x => decide (c < 96 ∧ k < 32 ∧ x < 4)
  | .opCbload c k x => decide (c < 96 ∧ k < 32 ∧ x < 4)
  | .opAccrd c k x => decide (c < 96 ∧ k < 32 ∧ x < 4)
  | .opQpush c k x => decide (c < 96 ∧ k < 32 ∧ x < 4)
  | .opWait c k x => decide (c < 96 ∧ k < 32 ∧ x < 4)
  | .opSig c k x => decide (c < 96 ∧ k < 32 ∧ x < 4)
  | .opWaitf c k x => decide (c < 96 ∧ k < 32 ∧ x < 4)
  | .opBar c k x => decide (c < 96 ∧ k < 32 ∧ x < 4)
  | .opRdsys c k x => decide (c < 96 ∧ k < 32 ∧ x < 4)
  | .taskFaultStop => true
  | .laneTakeRow c k _ => decide (c < 96 ∧ k < 32)
  | .rowRetire c k l => decide (c < 96 ∧ k < 32 ∧ l < 64)
  | .blockStaged c k => decide (c < 96 ∧ k < 32)
  | .sweepComplete c k => decide (c < 96 ∧ k < 32)
  | .tongueRequest c k => decide (c < 96 ∧ k < 32)
  | .tongueAnswer c k => decide (c < 96 ∧ k < 32)
  | .stolenBlockReceive c k => decide (c < 96 ∧ k < 32)
  | .chorusSegment c k _ => decide (c < 96 ∧ k < 32)
  | .chorusCrcReport c k => decide (c < 96 ∧ k < 32)
  | .lutCtxHalt p _ => decide (p < 16)
  | .lutCtxStep p _ => decide (p < 16)
  | .lutGregWrite p x i _ => decide (x < 4 ∧ i < 32 ∧ p < 16)
  | .lutPmWrite p w _ => decide (w < 2048 ∧ p < 16)
  | .lutCtxPcWrite p x _ => decide (x < 4 ∧ p < 16)
  | .lutAccRead p l n => decide (l < 64 ∧ n < 16 ∧ p < 16)
  | .lutFaultClear p _ => decide (p < 16)
  | .quantJobStart c => decide (c < 96)
  | .combinePost c => decide (c < 96)
  | .combineTimeout p i => decide (p < 16 ∧ i < 64)
  | .quantJobEnd c => decide (c < 96)
  | .qntJobAddrWrite p _ _ => decide (p < 16)
  | .qntCstDataWrite p _ _ => decide (p < 16)
  | .qntStatClear p _ _ => decide (p < 16)
  | .qntCountClear p _ => decide (p < 16)
  | .qntRmClear p _ => decide (p < 16)
  | .qntHalt p _ _ => decide (p < 16)
  | .qntStatSumRead p _ i => decide (i < 8 ∧ p < 16)
  | .denseJob c => decide (c < 96)
  | .vecCopy c => decide (c < 96)
  | .vecAdd c => decide (c < 96)
  | .vecSub c => decide (c < 96)
  | .vecMul c => decide (c < 96)
  | .vecFma c => decide (c < 96)
  | .vecMax c => decide (c < 96)
  | .vecMin c => decide (c < 96)
  | .vecAbs c => decide (c < 96)
  | .vecNeg c => decide (c < 96)
  | .vecExp c => decide (c < 96)
  | .vecRecip c => decide (c < 96)
  | .vecRsqrt c => decide (c < 96)
  | .vecCmpgt c => decide (c < 96)
  | .vecCmpeq c => decide (c < 96)
  | .vecSelect c => decide (c < 96)
  | .vecRsum c => decide (c < 96)
  | .vecRmax c => decide (c < 96)
  | .vecRsumsq c => decide (c < 96)
  | .vecCompress c => decide (c < 96)
  | .vecExpand c => decide (c < 96)
  | .vecCvt c => decide (c < 96)
  | .vecQrow c => decide (c < 96)
  | .vecRcombine c => decide (c < 96)
  | .vecOadd c => decide (c < 96)
  | .vecGive c => decide (c < 96)
  | .jobDoneSignal c e => decide (c < 96 ∧ e < 7)
  | .gatherSum c j _ => decide (c < 96 ∧ j < 4)
  | .gatherMean c j _ => decide (c < 96 ∧ j < 4)
  | .gatherWsum c j _ => decide (c < 96 ∧ j < 4)
  | .gatherGive c j => decide (c < 96 ∧ j < 4)
  | .rowReadRetry c j _ => decide (c < 96 ∧ j < 4)
  | .cacheFill c => decide (c < 96)
  | .cacheInvalidate c => decide (c < 96)
  | .tblCacheInv p _ => decide (p < 16)
  | .moltReplace c => decide (c < 96)
  | .moltAccumulate c => decide (c < 96)
  | .moltReplaceCond c => decide (c < 96)
  | .moltReplica c => decide (c < 96)
  | .moltCommit c _ => decide (c < 96)
  | .batchIngest c => decide (c < 96)
  | .updateJob c => decide (c < 96)
  | .remoteWaitExpiry _ _ => true
  | .updHalt p _ _ => decide (p < 16)
  | .gpeHalt p _ j _ => decide (j < 4 ∧ p < 16)
  | .bankAccess _ _ _ _ _ _ => true
  | .ownerHandover c b => decide (c < 96 ∧ b < 576)
  | .bnkOwnerWrite p b _ => decide (p < 16 ∧ b < 576)
  | .bnkWinBaseWrite p _ => decide (p < 16)
  | .hostWindowAccess p _ _ _ _ _ => decide (p < 16)
  | .backgroundScrub k _ _ => decide (k < 2 ^ 37 ∨ (2 ^ 50 ≤ k ∧ k < 2 ^ 52) ∨ 2 ^ 53 ≤ k)
  | .clutchFetch c e i _ => decide (c < 96 ∧ e < 2 ∧ i < 8)
  | .streamXfer c e i => decide (c < 96 ∧ e < 2 ∧ i < 8)
  | .streamWait c e i => decide (c < 96 ∧ e < 2 ∧ i < 8)
  | .streamWaitPass c e i => decide (c < 96 ∧ e < 2 ∧ i < 8)
  | .streamBarrier c e i => decide (c < 96 ∧ e < 2 ∧ i < 8)
  | .streamLink c e i => decide (c < 96 ∧ e < 2 ∧ i < 8)
  | .streamEnd c e i => decide (c < 96 ∧ e < 2 ∧ i < 8)
  | .streamGrant c e _ _ => decide ((c < 96 ∧ e < 2) ∨ (96 ≤ c ∧ c < 100 ∧ e < 4))
  | .deadlineMiss c e i => decide (c < 96 ∧ e < 2 ∧ i < 8)
  | .descriptorRetire c e i => decide (c < 96 ∧ e < 2 ∧ i < 8)
  | .strArm p _ e i => decide (p < 16 ∧ e < 2 ∧ i < 8)
  | .mappingFault c e i _ _ => decide (c < 96 ∧ e < 2 ∧ i ≤ 8)
  | .streamHalt c e i => decide (c < 96 ∧ e < 2 ∧ i < 8)
  | .priResponse port g code => decide (port < 4 ∧ g < 512 ∧ code < 16)
  | .barrierRelease p => decide (p < 16)
  | .barrierTimeout p => decide (p < 16)
  | .strHalt p _ e _ => decide (p < 16 ∧ e < 2)
  | .strSlackClear p _ e => decide (p < 16 ∧ e < 2)
  | .strSaveBaseWrite p _ => decide (p < 16)
  | .cmdNop f => decide (f ≤ 20)
  | .cmdSubmitRequest f => decide (f ≤ 20)
  | .lapseCheck p => decide (p < 16)
  | .requestDispatch p => decide (p < 16)
  | .taskSend _ => true
  | .taskStart c => decide (c < 96)
  | .taskEnd c _ => decide (c < 96)
  | .budgetPeriod _ _ => true
  | .dspHoldExpiry c => decide (c < 96)
  | .limiterStep => true
  | .limiterRestore => true
  | .brumationEntry c => decide (c < 96)
  | .offEntry c => decide (c < 96)
  | .wakeComplete c => decide (c < 96)
  | .dspHalt p _ _ => decide (p < 16)
  | .pwrThermWrite _ => true
  | .doorbell f _ _ _ _ => decide (f < 20)
  | .commandFetch f _ => decide (f < 20)
  | .entryReread f _ => decide (f < 20)
  | .completionRecordWrite f => decide (f ≤ 20)
  | .mbxCplHeadWrite f _ => decide (f < 20)
  | .mbxErrHeadWrite f _ => decide (f < 20)
  | .mailboxEnable f _ => decide (f < 20)
  | .atsInvalidate port vf _ _ => decide (port < 4 ∧ 1 ≤ vf ∧ vf ≤ 16)
  | .hostReadRefused c e i => decide (c < 96 ∧ e < 2 ∧ i ≤ 8)
  | .cxlMemAccess port seg _ _ _ _ _ => decide (port < 4 ∧ seg < 16)
  | .cmdLoadModel f => decide (f ≤ 20)
  | .cmdBind f => decide (f ≤ 20)
  | .cmdUnbind f => decide (f ≤ 20)
  | .cmdUpdateRows f => decide (f ≤ 20)
  | .cmdBarrier f => decide (f ≤ 20)
  | .cmdQuery f => decide (f ≤ 20)
  | .cmdResumeStream f => decide (f ≤ 20)
  | .cmdSetBudget f => decide (f ≤ 20)
  | .cmdReclaim f => decide (f ≤ 20)
  | .cmdPathFlush f => decide (f ≤ 20)
  | .cmdScrub f => decide (f ≤ 20)
  | .cmdContinue f => decide (f ≤ 20)
  | .cmdRepairReset f => decide (f ≤ 20)
  | .cmdFreezeRelease f => decide (f ≤ 20)
  | .cmdFwUpdate f _ _ => decide (f ≤ 20)
  | .cmdCancel f => decide (f ≤ 20)
  | .perst port gen width => decide (port < 4 ∧ 1 ≤ gen ∧ gen ≤ 6 ∧ [1, 2, 4, 8, 16].contains width = true)
  | .flr port fn => decide (port < 4 ∧ fn ≤ 16)
  | .tokenCommit p => decide (p < 16)
  | .devExpertWrite _ => true
  | .devPortCfgWrite port _ _ => decide (port < 4)
  | .msixSend f v _ => decide (f < 20 ∧ v < 3)
  | .clusterDrainLimit c => decide (c < 96)
  | .cellReset c k => decide (c < 96 ∧ k < 32)
  | .clusterReset c => decide (c < 96)
  | .partitionReset p _ => decide (p < 16)
  | .deviceReset _ => true
  | .rdmaWrite q _ _ _ => decide (q < 1024)
  | .rdmaWriteImmediate q _ _ _ _ => decide (q < 1024)
  | .rdmaRead q _ _ _ => decide (q < 1024)
  | .roceSend q _ => decide (q < 1024)
  | .udpDatagram q _ _ => decide (q < 1024)
  | .batchAcknowledgement q => decide (q < 1024)
  | .cnpReceive q => decide (q < 1024)
  | .ecnCeReceive q => decide (q < 1024)
  | .flitReceive l _ _ _ => decide (l < 16)
  | .nakReplay l _ => decide (l < 16)
  | .ackTimeoutReplay l => decide (l < 16)
  | .rowRead _ => true
  | .rowData _ => true
  | .molt => true
  | .outcome => true
  | .replica => true
  | .refuse _ => true
  | .fabricForward => true
  | .linkTrain l _ _ _ => decide (l < 16)
  | .linkSoakEnd l _ _ => decide (l < 16)
  | .linkLossOfLock l => decide (l < 16)
  | .retrain l => decide (l < 16)
  | .liveRetrainEnd l _ _ _ _ _ => decide (l < 16)
  | .linkDisable l _ => decide (l < 16)
  | .lnkDomainWrite _ => true
  | .ethernetLinkDown e _ => decide (e < 4)
  | .netPortEnable e _ => decide (e < 4)
  | .queueEnable _ => true
  | .stageMgmt _ _ _ => true
  | .stageClocknet _ _ _ => true
  | .stageMemory _ _ _ _ => true
  | .stageLinks _ _ _ _ _ _ _ _ => true
  | .stageCompute _ _ => true
  | .errorRecordWrite => true
  | .cellRetirement c k _ => decide (c < 96 ∧ k < 32)
  | .clusterRetirement c _ => decide (c < 96)
  | .hbmChannelRetirement ch => decide (ch < 512)
  | .hbmMoveStep ch => decide (ch < 512)
  | .bankMove c b => decide (c < 96 ∧ b < 576)
  | .unitReadmit _ => true
  | .heartbeat => true
  | .takeover _ => true
  | .plannedTakeover _ => true
  | .standbyBoot _ => true
  | .coreRestart d => decide (d < 4)
  | .injectBankError _ => true
  | .injectHbmError _ => true
  | .injectCrcFailure l => decide (l < 16)
  | .injectHeartbeatStop => true
  | .errRingEnable _ => true
  | .errRingHeadWrite _ => true
  | .standbyRailUp => true
  | .pwrEnAssert => true
  | .pwrEnDeassert => true
  | .inputDip => true
  | .undervoltage _ => true
  | .overvoltage => true
  | .railFault => true
  | .devrst _ => true
  | .sensorRead n _ => decide (n < 5 ∨ (16 ≤ n ∧ n < 116) ∨ (128 ≤ n ∧ n < 144))
  | .thermtrip cause => decide (4 ≤ cause ∧ cause ≤ 7)
  | .mctpControlMessage _ _ => true
  | .pldmMessage _ _ _ => true
  | .activateFirmware _ _ => true
  | .sidebandCommand _ => true
  | .sidebandDeviceReset _ => true
  | .managementAccess _ _ _ => true
  | .sidebandSessionTimeout _ => true
  | .stagingDrain c b => decide (c < 96 ∧ b < 576)
  | .bulkPortLinkDown port _ => decide (port < 4)
  | .pfcPauseReceive e prio _ => decide (e < 4 ∧ prio < 8)
  | .roceAckTimeout q _ => decide (q < 1024)
  | .reclaimLockoutExpiry p => decide (p < 16)

end Sys2Proof
end

