-- ==== Sys2Proof/Decode.lean ====
section
/-!
DEFINITION. The words of the table's rows. The module is a block: it takes commands and decodes no instruction, and no row of
spec/opcode_table.json gives a command bits. What the compute cells execute are words of their program memories, whose fields
Machine/Operands.lean reads.
-/
namespace Sys2Proof

/-- The command that a word spells by the table's bits: none, for no row has bits. -/
def decodeTableWord (_nbits _w : Nat) : Option Instr := none

end Sys2Proof
end

