-- ==== Sys2Proof/Config.lean ====
section
/-!
DEFINITION. What an implementation fixes and the spec leaves open. Each constant here is a free value:
it has no body, so no proof can use what it is, and a statement about it holds whatever it is.
-/
namespace Sys2Proof

/-- A free number, one for each value of the counter `State.fresh` (log 4). -/
opaque Config.freeNat : Nat → Nat

/-- A free byte, one for each value of the counter `State.fresh` (log 4). -/
opaque Config.freeByte : Nat → Byte

/-- The patch number of a firmware release, given as 256 * major + minor (Table 11.10). -/
opaque Config.fwPatch : Nat → Nat

/-- A firmware image passes the signature check of R462, and the release it holds, as 256 * major + minor. -/
opaque Config.imageGood : List Byte → Bool
opaque Config.imageRelease : List Byte → Nat

/-- The count of an island whose clock the memory interface or a link sets, by island number and ticks of 40 ns since its
start (R26, R27; log 66). -/
opaque Config.islandCount : Nat → Nat → Nat

/-- The text that a sideband or platform protocol of an outside standard answers with (log 47). -/
opaque Config.protocolReply : Nat → Nat → Nat

end Sys2Proof
end

