-- ==== Sys2Proof/Machine/Operands.lean ====
section
/-!
DEFINITION. Operand forms: bit fields, complements (R11), format tags (R36), the code values of every
low-bit format (R38 to R46), packing in memory (R49, R50) and the C4 codebook (R45).
-/
namespace Sys2Proof.Machine

/-- Bits [hi:lo] of a number (R4). -/
def bits (w hi lo : Nat) : Nat := (w >>> lo) % 2 ^ (hi + 1 - lo)

/-- Bit n of a number (R4). -/
def bitAt (w n : Nat) : Bool := (w >>> n) % 2 = 1

/-- A Bool as the number 0 or 1. -/
def b2n (b : Bool) : Nat := if b then 1 else 0

/-- The complement of a value at width n (R11). -/
def compl (n w : Nat) : Nat := 2 ^ n - 1 - w % 2 ^ n

/-- A value and its stored complement at width n agree (R11). -/
def complOk (n v c : Nat) : Bool := c % 2 ^ n = compl n v

/-- The low n bits of w read as two's complement. -/
def sext (n w : Nat) : Int :=
  if w % 2 ^ n < 2 ^ (n - 1) then Int.ofNat (w % 2 ^ n) else Int.ofNat (w % 2 ^ n) - 2 ^ n

/-- An integer as an n-bit two's complement number. -/
def toBits (n : Nat) (i : Int) : Nat := (i % 2 ^ n).toNat

/-- i brought into [lo, hi]. -/
def clampI (lo hi i : Int) : Int := if i < lo then lo else if hi < i then hi else i

/-- A natural number brought into [lo, hi] (R544). -/
def clampN (lo hi n : Nat) : Nat := if n < lo then lo else if hi < n then hi else n

/-- Addition that saturates at 2^w - 1 (the counters of R109, R297 and others). -/
def satAdd (w a b : Nat) : Nat := min (2 ^ w - 1) (a + b)

/-- ceil(a / b). -/
def cdiv (a b : Nat) : Nat := (a + b - 1) / b

/-- The numbers 0 .. n-1. -/
def upto (n : Nat) : List Nat := List.range n

/-- Little-endian bytes to a number (R5). -/
def leNat : List Byte → Nat
  | [] => 0
  | b :: r => b.toNat + 256 * leNat r

/-- n little-endian bytes of a number (R5). -/
def leBytes : Nat → Nat → List Byte
  | 0, _ => []
  | n + 1, w => BitVec.ofNat 8 w :: leBytes n (w / 256)

/-- The format a tag names; none for the invalid tag 0xF (R36). -/
def fmtOf : Nat → Option Fmt
  | 0 => some .b1 | 1 => some .t2 | 2 => some .i2 | 3 => some .i3 | 4 => some .i4
  | 5 => some .l4 | 6 => some .f4 | 7 => some .i8 | 8 => some .f8a | 9 => some .f8b
  | 10 => some .bf16 | 11 => some .fp16 | 12 => some .fp32 | 13 => some .i32 | 14 => some .c4
  | _ => none

/-- The 4-bit tag of a format (Table 2.1). -/
def fmtTag : Fmt → Nat
  | .b1 => 0 | .t2 => 1 | .i2 => 2 | .i3 => 3 | .i4 => 4 | .l4 => 5 | .f4 => 6 | .i8 => 7
  | .f8a => 8 | .f8b => 9 | .bf16 => 10 | .fp16 => 11 | .fp32 => 12 | .i32 => 13 | .c4 => 14

/-- Bits of one element (Table 2.1). -/
def fmtBits : Fmt → Nat
  | .b1 => 1 | .t2 => 2 | .i2 => 2 | .i3 => 3 | .i4 => 4 | .l4 => 4 | .f4 => 4 | .c4 => 4
  | .i8 => 8 | .f8a => 8 | .f8b => 8 | .bf16 => 16 | .fp16 => 16 | .fp32 => 32 | .i32 => 32

/-- The formats with a code and a scale: LUT weight codes and I8 (R37). -/
def isCode : Fmt → Bool
  | .b1 | .t2 | .i2 | .i3 | .i4 | .l4 | .f4 | .c4 | .i8 => true
  | _ => false

/-- Formats accepted as LUT weights (Table 2.2). -/
def isWeight : Fmt → Bool
  | .b1 | .t2 | .i2 | .i3 | .i4 | .l4 | .f4 | .c4 => true
  | _ => false

/-- The escape code of a format (Table 2.1). -/
def escCode : Fmt → Option Nat
  | .t2 => some 3 | .i2 => some 2 | .i3 => some 4 | .i4 => some 8 | .l4 => some 15
  | .f4 => some 8 | .i8 => some 0x80 | _ => none

/-- A code is the escape of its format. -/
def isEsc (f : Fmt) (c : Nat) : Bool := escCode f == some c

/-- The integer value of a code, F4 doubled as the tables hold it (R38 to R44); an escape and a
format without integer codes give 0. -/
def codeInt (f : Fmt) (c : Nat) : Int :=
  if isEsc f c then 0
  else match f with
    | .b1 => if c % 2 = 0 then 1 else -1
    | .t2 => Int.ofNat (c % 2) - Int.ofNat (c / 2 % 2)
    | .i2 => sext 2 c
    | .i3 => sext 3 c
    | .i4 => sext 4 c
    | .i8 => sext 8 c
    | .l4 =>
      let e := c % 8
      if e = 7 then 0 else if c / 8 % 2 = 1 then -(2 ^ e : Int) else (2 ^ e : Int)
    | .f4 =>
      let m := c % 2
      let x := c / 2 % 4
      let mag : Int := if x = 0 then m else (2 + m) * 2 ^ (x - 1)
      if c / 8 % 2 = 1 then -mag else mag
    | _ => 0

/-- The exponent the integer value of a code carries: -1 for F4, whose values are doubled (R43, Table 3.6). -/
def codeExp : Fmt → Int
  | .f4 => -1
  | _ => 0

/-- The code of largest magnitude with a sign (R52, R55). -/
def clampCode (f : Fmt) (neg : Bool) : Nat :=
  match f with
  | .b1 => b2n neg
  | .t2 => if neg then 2 else 1
  | .i2 => if neg then 3 else 1
  | .i3 => if neg then 5 else 3
  | .i4 => if neg then 9 else 7
  | .i8 => if neg then 0x81 else 0x7F
  | .l4 => if neg then 14 else 6
  | .f4 => if neg then 15 else 7
  | _ => 0

/-- The code that stands for zero (R38 to R43). -/
def zeroCode : Fmt → Nat
  | .l4 => 7
  | _ => 0

/-- The code of an integer value that a code of the format has (F4 doubled); used after rounding. -/
def intCode (f : Fmt) (v : Int) : Nat :=
  match f with
  | .b1 => if v < 0 then 1 else 0
  | .t2 => if v = 0 then 0 else if v < 0 then 2 else 1
  | .i2 => toBits 2 v
  | .i3 => toBits 3 v
  | .i4 => toBits 4 v
  | .i8 => toBits 8 v
  | .l4 => if v = 0 then 7 else (if v < 0 then 8 else 0) + Nat.log2 v.natAbs
  | .f4 =>
    let a := v.natAbs
    let mag := if a < 2 then a else if a < 4 then a else if a < 8 then 4 + (a / 2 - 2) else 6 + (a / 4 - 2)
    if a = 0 then 0 else (if v < 0 then 8 else 0) + mag
  | _ => 0

/-- Bytes of a packed vector of n elements (R50). -/
def packedBytes (f : Fmt) (n : Nat) : Nat :=
  match f with
  | .i3 => 3 * cdiv n 8
  | _ => cdiv (n * fmtBits f) 8

/-- Element k of a packed vector whose bytes a function gives (R49, R50). -/
def codeAt (f : Fmt) (rd : Nat → Byte) (k : Nat) : Nat :=
  match f with
  | .i3 =>
    let u := 3 * (k / 8)
    bits (leNat [rd u, rd (u + 1), rd (u + 2)]) (3 * (k % 8) + 2) (3 * (k % 8))
  | _ =>
    let w := fmtBits f
    if w < 8 then bits (rd (w * k / 8)).toNat (w * k % 8 + w - 1) (w * k % 8)
    else leNat ((upto (w / 8)).map fun i => rd (w / 8 * k + i))

/-- The 3-bit group offset k of a packed offset block (R49, R57). -/
def offAt (rd : Nat → Byte) (k : Nat) : Nat := codeAt .i3 rd k

/-- Byte i of a list of bytes; pad is 0. -/
def byteOf (l : List Byte) (i : Nat) : Byte := l.getD i 0

/-- Pack a list of w-bit codes into one number, element 0 lowest (R49). -/
def packNat (w : Nat) : List Nat → Nat
  | [] => 0
  | c :: r => c % 2 ^ w + 2 ^ w * packNat w r

/-- Split a list into runs of eight, for the 3-byte units of I3 (R49). -/
def chunks8 : Nat → List Nat → List (List Nat)
  | 0, _ => []
  | n + 1, l => l.take 8 :: chunks8 n (l.drop 8)

/-- The bytes of a packed vector, pad bits 0 (R49, R50). -/
def packCodes (f : Fmt) (cs : List Nat) : List Byte :=
  match f with
  | .i3 => (chunks8 (cdiv cs.length 8) cs).flatMap fun u => leBytes 3 (packNat 3 u)
  | _ => leBytes (packedBytes f cs.length) (packNat (fmtBits f) cs)

/-- Bytes of one row of a scale block with G group offsets (R57). -/
def scaleRowBytes (g : Nat) : Nat := 2 + 3 * cdiv g 8

/-- An exponent word and its complement: E in [7:0], NOT E in [15:8] (R57). -/
def expWord (e : Int) : Nat := toBits 8 e + 256 * compl 8 (toBits 8 e)

/-- The exponent of a word whose halves agree (R57). -/
def expOf (lo hi : Byte) : Option Int :=
  if complOk 8 lo.toNat hi.toNat then some (sext 8 lo.toNat) else none

end Sys2Proof.Machine
end

