-- ==== Sys2Proof/Machine/Flags.lean ====
section
/-!
DEFINITION. Rounding, range and status computations: the floating-point formats (R47, R48), round to nearest
ties to even (R59), the unbounded extensions of the code formats (R60, R61), stochastic rounding (R62),
the conversions of Table 2.6 (R63), and the FP32 operations the engines use.
-/
namespace Sys2Proof.Machine

/-- Shift right rounding to nearest, ties to even (R59). -/
def rneShr (m k : Nat) : Nat :=
  let q := m >>> k
  let r := m % 2 ^ k
  if 2 * r > 2 ^ k ∨ (2 * r = 2 ^ k ∧ q % 2 = 1) then q + 1 else q

/-- The same on integers; the rule is symmetric in sign (R59). -/
def rneShrI (a : Int) (k : Nat) : Int :=
  if a < 0 then -(Int.ofNat (rneShr a.natAbs k)) else Int.ofNat (rneShr a.natAbs k)

/-- Exponent bits, mantissa bits, bias and largest finite word of a floating-point format (Table 2.4). -/
structure FSpec where
  ebits : Nat
  mbits : Nat
  bias : Int
  maxFin : Nat
  hasInf : Bool
  nanWord : Nat
  deriving DecidableEq, Repr

/-- Table 2.4. -/
def fspec : Fmt → FSpec
  | .f4 => ⟨2, 1, 1, 0x7, false, 0⟩
  | .f8a => ⟨4, 3, 7, 0x7E, false, 0x7F⟩
  | .f8b => ⟨5, 2, 15, 0x7B, true, 0x7E⟩
  | .bf16 => ⟨8, 7, 127, 0x7F7F, true, 0x7FC0⟩
  | .fp16 => ⟨5, 10, 15, 0x7BFF, true, 0x7E00⟩
  | _ => ⟨8, 23, 127, 0x7F7F_FFFF, true, 0x7FC0_0000⟩

/-- A format is one of the floating-point formats of Table 2.4 with NaN. -/
def isFloat : Fmt → Bool
  | .f8a | .f8b | .bf16 | .fp16 | .fp32 => true
  | _ => false

/-- Exponent of the least quantum of a format: that of its subnormals. -/
def qmin (f : FSpec) : Int := 1 - f.bias - f.mbits

/-- A word's exact value (R47). -/
def fdec (fm : Fmt) (w : Nat) : FVal :=
  let f := fspec fm
  let neg := bitAt w (f.ebits + f.mbits)
  let mag := w % 2 ^ (f.ebits + f.mbits)
  if mag ≤ f.maxFin then
    let x := mag / 2 ^ f.mbits
    let m := mag % 2 ^ f.mbits
    if x = 0 then .fin neg m (qmin f) else .fin neg (2 ^ f.mbits + m) (qmin f + x - 1)
  else if f.hasInf ∧ mag = f.maxFin + 1 then .inf neg
  else .nan

/-- Quantum exponent at which a magnitude m * 2^e is rounded in a format. -/
def quantum (f : FSpec) (m : Nat) (e : Int) : Int :=
  max (e + Nat.log2 m + 1 - (f.mbits + 1)) (qmin f)

/-- A magnitude rounded to nearest even as though the format had no upper bound; the result is the
word the magnitude would have (R59, R60). -/
def magWord (f : FSpec) (m : Nat) (e : Int) : Nat :=
  if m = 0 then 0
  else
    let q := quantum f m e
    let r := if q ≤ e then m <<< (e - q).toNat else rneShr m (q - e).toNat
    (q - qmin f).toNat * 2 ^ f.mbits + r

/-- The sign bit of a format's words. -/
def signBit (f : FSpec) (neg : Bool) : Nat := if neg then 2 ^ (f.ebits + f.mbits) else 0

/-- An exact value in a format; `sat` saturates finite values, else they overflow to infinity (R59, R63).
FP8 zero results are encoded positive (R63). -/
def fenc (fm : Fmt) (v : FVal) : Nat :=
  let f := fspec fm
  let sat : Bool := fm = .f8a || fm = .f8b
  match v with
  | .nan => f.nanWord
  | .inf neg => if f.hasInf then signBit f neg + f.maxFin + 1 else signBit f neg + f.maxFin
  | .fin neg m e =>
    let w := magWord f m e
    if w = 0 ∧ sat then 0
    else if w ≤ f.maxFin then signBit f neg + w
    else if sat then signBit f neg + f.maxFin
    else signBit f neg + f.maxFin + 1

/-- A value rounded into a format and read back. -/
def fround (fm : Fmt) (v : FVal) : FVal := fdec fm (fenc fm v)

/-- An integer as an exact value; zero is positive. -/
def fofInt (i : Int) : FVal := .fin (i < 0) i.natAbs 0

/-- A dyadic number as an exact value. -/
def fofDyad (d : Dyad) : FVal := .fin (d.m < 0) d.m.natAbs d.e

/-- Multiply by an exact power of two (R58). -/
def fscale (v : FVal) (k : Int) : FVal :=
  match v with
  | .fin n m e => .fin n m (e + k)
  | x => x

/-- Signed mantissa. -/
def fmant (neg : Bool) (m : Nat) : Int := if neg then -(Int.ofNat m) else Int.ofNat m

/-- A dyadic number's mantissa at a lower exponent. -/
def dalign (d : Dyad) (e : Int) : Int := d.m * 2 ^ (d.e - e).toNat

/-- Exact dyadic sum. -/
def dadd (a b : Dyad) : Dyad :=
  let e := min a.e b.e
  ⟨dalign a e + dalign b e, e⟩

/-- Exact dyadic difference. -/
def dsub (a b : Dyad) : Dyad := dadd a ⟨-b.m, b.e⟩

/-- Exact dyadic product. -/
def dmul (a b : Dyad) : Dyad := ⟨a.m * b.m, a.e + b.e⟩

/-- a < b on dyadic numbers. -/
def dlt (a b : Dyad) : Bool := (dsub a b).m < 0

/-- a <= b on dyadic numbers. -/
def dle (a b : Dyad) : Bool := (dsub a b).m ≤ 0

/-- Magnitude. -/
def dabs (a : Dyad) : Dyad := ⟨a.m.natAbs, a.e⟩

/-- The dyadic number of a finite value; 0 for NaN and infinity. -/
def dyadOf : FVal → Dyad
  | .fin n m e => ⟨fmant n m, e⟩
  | _ => ⟨0, 0⟩

/-- Exact sum of two values before rounding, with IEEE signs of zero (R47, R48). -/
def faddX (a b : FVal) : FVal :=
  match a, b with
  | .nan, _ => .nan
  | _, .nan => .nan
  | .inf n, .inf n' => if n = n' then .inf n else .nan
  | .inf n, _ => .inf n
  | _, .inf n => .inf n
  | .fin n m e, .fin n' m' e' =>
    let d := dadd ⟨fmant n m, e⟩ ⟨fmant n' m', e'⟩
    if d.m = 0 then .fin (n && n' && m == 0 && m' == 0) 0 d.e else fofDyad d

/-- Exact product of two values before rounding. -/
def fmulX (a b : FVal) : FVal :=
  match a, b with
  | .nan, _ => .nan
  | _, .nan => .nan
  | .inf n, .inf n' => .inf (n != n')
  | .inf n, .fin n' m _ => if m = 0 then .nan else .inf (n != n')
  | .fin n m _, .inf n' => if m = 0 then .nan else .inf (n != n')
  | .fin n m e, .fin n' m' e' => .fin (n != n') (m * m') (e + e')

/-- Negation. -/
def fneg : FVal → FVal
  | .nan => .nan
  | .inf n => .inf (!n)
  | .fin n m e => .fin (!n) m e

/-- Magnitude. -/
def fabs : FVal → FVal
  | .nan => .nan
  | .inf _ => .inf false
  | .fin _ m e => .fin false m e

/-- FP32 sum of two words, rounded by R59. -/
def add32 (a b : Nat) : Nat := fenc .fp32 (faddX (fdec .fp32 a) (fdec .fp32 b))

/-- FP32 product of two words, rounded by R59. -/
def mul32 (a b : Nat) : Nat := fenc .fp32 (fmulX (fdec .fp32 a) (fdec .fp32 b))

/-- FP32 fused multiply-add, rounded once. -/
def fma32 (a b c : Nat) : Nat :=
  fenc .fp32 (faddX (fmulX (fdec .fp32 a) (fdec .fp32 b)) (fdec .fp32 c))

/-- a < b on values; false with a NaN; zeros of either sign are equal. -/
def fltX (a b : FVal) : Bool :=
  match a, b with
  | .nan, _ => false
  | _, .nan => false
  | .inf n, .inf n' => n && !n'
  | .inf n, _ => n
  | _, .inf n => !n
  | .fin n m e, .fin n' m' e' => dlt ⟨fmant n m, e⟩ ⟨fmant n' m', e'⟩

/-- a = b on values; false with a NaN. -/
def feqX (a b : FVal) : Bool :=
  match a, b with
  | .nan, _ => false
  | _, .nan => false
  | _, _ => !fltX a b && !fltX b a

/-- Value of a code as an exact value: integer value times 2^codeExp; escapes are 0 (R44, R63). -/
def codeVal (f : Fmt) (c : Nat) : FVal := fscale (fofInt (codeInt f c)) (codeExp f)

/-- The magnitude m * 2^e rounded into the unbounded extension of a code format, as an integer value
(F4 doubled) (R60). -/
def roundCodeMag (f : Fmt) (m : Nat) (e : Int) : Nat :=
  if m = 0 then 0
  else match f with
    | .l4 =>
      let x := e + Nat.log2 m
      if x < -1 then 0
      else if x = -1 then (if m = 2 ^ Nat.log2 m then 0 else 1)
      else
        let thr := 3 * 2 ^ Nat.log2 m
        let up := 2 * m > thr ∨ (2 * m = thr ∧ x.toNat % 2 = 1)
        2 ^ (if up then x.toNat + 1 else x.toNat)
    | .f4 =>
      let w := magWord (fspec .f4) m e
      let x := w / 2
      if x = 0 then w % 2 else (2 + w % 2) * 2 ^ (x - 1)
    | _ => if 0 ≤ e then m <<< e.toNat else rneShr m (-e).toNat

/-- Largest finite magnitude of a code format as an integer value (F4 doubled) (Table 2.1). -/
def codeMax : Fmt → Nat
  | .b1 => 1 | .t2 => 1 | .i2 => 1 | .i3 => 3 | .i4 => 7 | .i8 => 127 | .l4 => 64 | .f4 => 12 | _ => 0

/-- Round a finite scaled value to a code: none when out of range (R60). -/
def roundCode (f : Fmt) (neg : Bool) (m : Nat) (e : Int) : Option Nat :=
  let r := roundCodeMag f m e
  if r ≤ codeMax f then some (intCode f (fmant neg r)) else none

/-- One entry of a C4 codebook converted (R45): the integers k and the exponent e_cb; none when an
entry is NaN or infinite. -/
def convCodebook (ws : List Nat) : Option (List Int × Int) :=
  let vs := ws.map (fdec .bf16)
  if vs.any (fun v => match v with | .fin _ _ _ => false | _ => true) then none
  else
    let ds := vs.map dyadOf
    if ds.all (fun d => d.m = 0) then some (ds.map fun _ => 0, 0)
    else
      -- the least e with |c| <= 127 * 2^e for every entry
      let need (d : Dyad) : Int :=
        if d.m = 0 then -200
        else
          let l := Nat.log2 d.m.natAbs
          -- |c| = m 2^e with 2^l <= m < 2^(l+1); candidate e + l - 6
          let c := d.e + l - 6
          if dle (dabs d) ⟨127, c⟩ then c else c + 1
      let ecb := ds.foldl (fun a d => max a (need d)) (-200)
      let conv (d : Dyad) : Int :=
        let k := d.e - ecb
        if 0 ≤ k then d.m * 2 ^ k.toNat else rneShrI d.m (-k).toNat
      some (ds.map conv, ecb)

/-- The largest |c[j] - k[j] * 2^e_cb| of a converted codebook, as FP32 (R45, R123). -/
def codebookErr (ws : List Nat) (ks : List Int) (ecb : Int) : Nat :=
  let ds := (ws.zip ks).map fun p => dabs (dsub (dyadOf (fdec .bf16 p.1)) ⟨p.2, ecb⟩)
  fenc .fp32 (fofDyad (ds.foldl (fun a d => if dlt a d then d else a) ⟨0, 0⟩))

/-- The index of the codebook entry nearest to x at a scale; the lower index on a tie (R61). -/
def nearestC4 (ws : List Nat) (scale : Int) (x : Dyad) : Nat :=
  let ds := ws.map fun w => let d := dyadOf (fdec .bf16 w); dabs (dsub x ⟨d.m, d.e + scale⟩)
  (ds.foldl (fun (a : Nat × Nat × Option Dyad) d =>
    match a.2.2 with
    | none => (a.1 + 1, a.1, some d)
    | some b => if dlt d b then (a.1 + 1, a.1, some d) else (a.1 + 1, a.2.1, some b)) (0, 0, none)).2.1

/-- The codebook index nearest to an infinity: the entry of the extreme value, lower index on a tie (R61). -/
def extremeC4 (ws : List Nat) (neg : Bool) : Nat :=
  let ds := ws.map fun w => dyadOf (fdec .bf16 w)
  (ds.foldl (fun (a : Nat × Nat × Option Dyad) d =>
    match a.2.2 with
    | none => (a.1 + 1, a.1, some d)
    | some b =>
      if (if neg then dlt d b else dlt b d) then (a.1 + 1, a.1, some d) else (a.1 + 1, a.2.1, some b)) (0, 0, none)).2.1

/-- Stochastic rounding of a magnitude at quantum q: lo or lo + 1 quanta (R62). -/
def srQuanta (m : Nat) (e q : Int) (u : Nat) : Nat :=
  if q ≤ e then m <<< (e - q).toNat
  else
    let k := (q - e).toNat
    let f := (m % 2 ^ k) * 65536 / 2 ^ k
    if u < f then m / 2 ^ k + 1 else m / 2 ^ k

/-- Stochastic rounding into F8A or F8B (R62, Table 2.6). -/
def srFloat (fm : Fmt) (v : FVal) (u : Nat) : Nat :=
  let f := fspec fm
  match v with
  | .fin neg m e =>
    if m = 0 then 0
    else
      let q := quantum f m e
      let w := (q - qmin f).toNat * 2 ^ f.mbits + srQuanta m e q u
      if w = 0 then 0 else signBit f neg + min w f.maxFin
  | x => fenc fm x

/-- Stochastic rounding into I8: saturates to 127, NaN gives 0, an infinity 127 with its sign (R62, R63). -/
def srI8 (v : FVal) (u : Nat) : Nat :=
  match v with
  | .nan => 0
  | .inf neg => toBits 8 (if neg then -127 else 127)
  | .fin neg m e => toBits 8 (fmant neg (min 127 (srQuanta m e 0 u)))

/-- Stochastic rounding of a scaled finite value into a row code; out of range clamps (R62, R55). -/
def srCode (f : Fmt) (neg : Bool) (m : Nat) (e : Int) (u : Nat) : Nat :=
  let mx := codeMax f
  let r : Nat :=
    if m = 0 then 0
    else match f with
      | .l4 =>
        let x := e + Nat.log2 m
        if x < 0 then
          -- between 0 and 1
          let F := if -e ≤ 0 then 0 else m * 65536 / 2 ^ (-e).toNat
          if u < F then 1 else 0
        else
          let lo := 2 ^ x.toNat
          let l := Nat.log2 m
          let F := (m - 2 ^ l) * 65536 / 2 ^ l
          if u < F then 2 * lo else lo
      | .f4 =>
        let fs := fspec .f4
        let q := quantum fs m e
        let w := (q - qmin fs).toNat * 2 + srQuanta m e q u
        let x := w / 2
        if x = 0 then w % 2 else (2 + w % 2) * 2 ^ (x - 1)
      | _ => srQuanta m e 0 u
  if r ≤ mx then intCode f (fmant neg r) else clampCode f neg

/-- I32 to I8 or I4: arithmetic right shift by s rounded by R59, saturated to 127 or 7 (R63). -/
def requant (lim : Int) (v : Int) (s : Nat) : Int := clampI (-lim) lim (rneShrI v s)

/-- Saturation of a 48-bit sum to 32 bits at a read (R82). -/
def sat32 (a : Int) : Int := clampI (-(2 ^ 31)) (2 ^ 31 - 1) a

/-- A free offset in units in the last place, -2 to 2, for functions given only to within 2 ulp (R206). -/
def freeUlp (n : Nat) : Int := Int.ofNat (Config.freeNat n % 5) - 2

end Sys2Proof.Machine
end

