-- ==== Sys2Proof/Machine/Regs.lean ====
section
/-!
DEFINITION. Numbers of the registers that State holds in its register maps: for a partition register its offset in
partition BAR0, for an instance or selected register its offset in its block, for a management register its offset
in management BAR0. Each name is the register's name in the spec.
-/
namespace Sys2Proof.Machine.Reg

-- per partition (Table 8.11)
def BNK_SEL : Nat := 0x40000
def BNK_WIN_BASE : Nat := 0x40008
def BNK_WIN_CTRL : Nat := 0x40010
def BNK_WIN_STATUS : Nat := 0x40018
def BNK_WIN_BUSY_ADDR : Nat := 0x40020
def BNK_ERR : Nat := 0x40028
def BNK_HBM_ECC : Nat := 0x40030
def BNK_BULK_ERR : Nat := 0x40038
def BNK_LAST_UE : Nat := 0x40040
-- per cluster (Table 8.11)
def BNK_SRAM_ECC : Nat := 0x40100
def BNK_COLLIDE : Nat := 0x40108
def BNK_BUSY_RESP : Nat := 0x40110
def BNK_PROMOTE : Nat := 0x40118
-- per partition (Table 5.16)
def LUT_SEL : Nat := 0x60000
-- per cluster (Table 4.9): offsets of an instance from 0x7_0000
def QNT_CTRL : Nat := 0x70000
def QNT_JOB_ADDR : Nat := 0x70010
def QNT_LAST_RESULT : Nat := 0x70018
def QNT_CST_INDEX : Nat := 0x70020
def QNT_CB_MAXERR : Nat := 0x70030
def QNT_ROW_ESC : Nat := 0x70040
def QNT_SR_NAN : Nat := 0x70048
def QNT_OA_CLAMP : Nat := 0x70050
def QNT_ERR : Nat := 0x70058
-- per partition (Table 4.9)
def QNT_RM_COUNT : Nat := 0x7C000
def QNT_RM_WAIT : Nat := 0x7C208
-- management BAR0 (Table 13.11)
def LNK_DOMAIN : Nat := 0x18000
-- per cluster (Table 10.11)
def DSP_STEAL : Nat := 0xA0020
-- per partition (Table 7.17)
def TBL_DIR_BASE : Nat := 0x80000
def TBL_DIR_COUNT : Nat := 0x80008
def TBL_GRANT : Nat := 0x80010
def TBL_CACHE_INV : Nat := 0x80018
def TBL_REMOTE_WAIT : Nat := 0x80020
def TBL_ROW_FAILED : Nat := 0x80028
def TBL_LAST_FAILED : Nat := 0x80030
def TBL_ERR : Nat := 0x80038
-- per cluster: UPD (from 0x8_8000) and GPE (from 0x9_0000 + 0x80 j)
def UPD_CTRL : Nat := 0x88000
def UPD_STATUS : Nat := 0x88008
def UPD_CACHE_BANKS : Nat := 0x88010
def UPD_CACHE_CFG : Nat := 0x88018
def UPD_MOLTS : Nat := 0x88020
def UPD_REFUSED : Nat := 0x88028
def UPD_CLAMPED : Nat := 0x88030
def UPD_INVAL : Nat := 0x88038
def UPD_FILL : Nat := 0x88040
def UPD_ERR : Nat := 0x88048
def GPE_CTRL : Nat := 0x90000
def GPE_STATUS : Nat := 0x90008
def GPE_ROWS : Nat := 0x90010
def GPE_HITS : Nat := 0x90018
def GPE_TIER : Nat := 0x90020
def GPE_RETRY : Nat := 0x90028
def GPE_DROPPED : Nat := 0x90030
def GPE_ERR : Nat := 0x90038
-- management: LNK (Table 13.9), link l adds 0x100 l
def LNK_CTRL : Nat := 0x10000
def LNK_STATUS : Nat := 0x10008
def LNK_LANES : Nat := 0x10010
def LNK_SER : Nat := 0x10018
def LNK_FEC : Nat := 0x10020
def LNK_REPLAY : Nat := 0x10028
def LNK_TRAINS : Nat := 0x10030
def LNK_FLITS : Nat := 0x10038
def LNK_POLICY : Nat := 0x18008
def LNK_DIRS : Nat := 0x18010
def LNK_ERR : Nat := 0x18018
def LNK_UNREACH : Nat := 0x18020
def LNK_DPART : Nat := 0x18100
-- per cluster: STR engine k adds 0x200 k (Table 9.12)
def STR_CTRL : Nat := 0x10000
def STR_STATUS : Nat := 0x10008
def STR_ERR : Nat := 0x10010
def STR_FAULT : Nat := 0x10018
def STR_LEAD : Nat := 0x10020
def STR_BYTES : Nat := 0x10028
def STR_DESC : Nat := 0x10030
def STR_GRANTS : Nat := 0x10038
def STR_HALTS : Nat := 0x10040
def STR_MIN_SLACK : Nat := 0x10048
def STR_ARM_DESC : Nat := 0x10080
-- per partition (Table 9.12)
def STR_SAVE_BASE : Nat := 0x30000
def STR_HALT_LIMIT : Nat := 0x30008
def STR_BAR_EPOCH : Nat := 0x30010
def STR_BAR_WAIT : Nat := 0x30018
def STR_PERR : Nat := 0x30028
-- per cluster: DSP (Table 10.8)
def DSP_CTRL : Nat := 0xA0000
def DSP_TASKS : Nat := 0xA0018
def DSP_OVERSIZE : Nat := 0xA0028
def DSP_TOKEN_WAIT : Nat := 0xA0030
-- per partition: DSP and PWR
def DSP_PLAN_BASE : Nat := 0xA8000
def DSP_PLAN_COUNT : Nat := 0xA8008
def DSP_QMAX : Nat := 0xA8018
def DSP_HOLD : Nat := 0xA8020
def DSP_ADMIT : Nat := 0xA8028
def DSP_SHED : Nat := 0xA8030
def DSP_LATE : Nat := 0xA8038
def DSP_ERR : Nat := 0xA8040
def PWR_PT_CAP : Nat := 0xAC000
def PWR_RESV : Nat := 0xAC008
def PWR_STATE_CFG : Nat := 0xAC010
-- per cluster: PWR_CLK of an instance
def PWR_CLK : Nat := 0xAC100
-- management: PWR (Table 10.8)
def PWR_DEV_CAP : Nat := 0x30000
def PWR_INPUT : Nat := 0x30008
def PWR_MEASURED : Nat := 0x30010
def PWR_THERM : Nat := 0x30018
def PWR_CLK_MAX : Nat := 0x30020
def PWR_ERR : Nat := 0x30028
def PWR_PT_CAP_SET : Nat := 0x30100
def PWR_TEMP : Nat := 0x31000
-- management: PMAP (Table 12.8)
def PMAP_SEL : Nat := 0x2000
def PMAP_RESET : Nat := 0x2038
def PMAP_RESET_STATUS : Nat := 0x2040
def PMAP_ERR : Nat := 0x2048
def PMAP_MOVES : Nat := 0x2050
def PMAP_DRAIN : Nat := 0x2058
-- management: DEV (Table 11.15)
def DEV_PORT_CFG : Nat := 0x900
def DEV_EXPERT : Nat := 0x940
def DEV_CXL_UNMAPPED : Nat := 0x948
def DEV_ORPHAN_LOST : Nat := 0x950
-- partition: PT (Table 11.15)
def PT_RECLAIM_FAIL : Nat := 0x28
-- mailbox page offsets
def MBX_CTRL : Nat := 0x00
def MBX_CMD_BASE : Nat := 0x10
def MBX_CMD_CFG : Nat := 0x18
def MBX_CMD_HEAD : Nat := 0x28
def MBX_CPL_BASE : Nat := 0x30
def MBX_CPL_CFG : Nat := 0x38
def MBX_CPL_HEAD : Nat := 0x40
def MBX_CPL_TAIL : Nat := 0x48
def MBX_ERR_BASE : Nat := 0x50
def MBX_ERR_CFG : Nat := 0x58
def MBX_ERR_HEAD : Nat := 0x60
def MBX_ERR_TAIL : Nat := 0x68
def MBX_IRQ_MOD : Nat := 0x70
def MBX_ERR : Nat := 0x78
def MBX_COUNTS : Nat := 0x80
def MBX_ERR_LOST : Nat := 0x88
def MBX_CPL_WAIT : Nat := 0x90
-- partition: ERR page (Table 15.11)
def ERR_PCOUNT : Nat := 0x2000
def ERR_PCOUNT2 : Nat := 0x2008
def ERR_PFLAGS : Nat := 0x2010
def ERR_PLAST : Nat := 0x2040
-- management: ERR (Table 15.11)
def ERR_RING_BASE : Nat := 0x50000
def ERR_RING_CFG : Nat := 0x50008
def ERR_RING_HEAD : Nat := 0x50010
def ERR_RING_TAIL : Nat := 0x50018
def ERR_RING_CTRL : Nat := 0x50020
def ERR_RING_LOST : Nat := 0x50028
def ERR_POLICY : Nat := 0x50030
def ERR_MGMT : Nat := 0x50038
def ERR_RETIRE : Nat := 0x50040
def ERR_READMIT : Nat := 0x50048
def ERR_REPAIR_STATUS : Nat := 0x50050
def ERR_EVENTS : Nat := 0x50058
def ERR_INJECT : Nat := 0x50060
def ERR_INJECT_ADDR : Nat := 0x50068
def ERR_FW : Nat := 0x50070
def ERR_DFLAGS : Nat := 0x50078
def ERR_DLAST : Nat := 0x50080
-- management: NET (Table 13.11), port e adds 0x1000 e
def NET_CTRL : Nat := 0x20000
def NET_STATUS : Nat := 0x20008
def NET_MAC : Nat := 0x20010
def NET_CFG : Nat := 0x20018
def NET_CC : Nat := 0x20038
def NET_FRAMES : Nat := 0x20040
def NET_DROPS : Nat := 0x20048
def NET_FEC : Nat := 0x20050
def NET_PFC : Nat := 0x20058
def NET_CNP : Nat := 0x20060
def NET_ERR : Nat := 0x20068
def NET_QSEL : Nat := 0x28000
def NET_QSTATUS : Nat := 0x28008
def NET_QCTX : Nat := 0x28080
-- management: BRG and DFL (Table 14.8)
def BRG_STATUS : Nat := 0x1000
def BRG_CFG : Nat := 0x1008
def BRG_BOOTS : Nat := 0x1010
def BRG_ERR : Nat := 0x1018
def BRG_LOG_SEL : Nat := 0x1020
def BRG_RPT : Nat := 0x1100
def DFL_COUNT : Nat := 0x40000
def DFL_SEL : Nat := 0x40008
def DFL_LOST : Nat := 0x40020
-- management: PWR sensors (Table 16.11)
def PWR_VIN : Nat := 0x30030
def PWR_COOLANT : Nat := 0x30038
def PWR_MERR : Nat := 0x30040

end Sys2Proof.Machine.Reg
end

