-- ==== Sys2Proof/Machine/State.lean ====
section
/-!
DEFINITION. The state of the module, as plain data: every register, FIFO, buffer, counter, mode and pin the
spec gives it, block by block, each with its reset value as the field's default, and the queue of waiting
commands. Fields marked MODEL are the model's own bookkeeping.
-/
namespace Sys2Proof.Machine

/-- Why the machine stops. -/
inductive Fault where
  /-- A command names a unit number the module does not have (cluster, cell, port, link, queue out of range).
  Raised by the commands of the environment; safe: no such unit exists (R23, R24). -/
  | noSuchUnit
  deriving DecidableEq, Repr

/-- Why a command has no meaning here. -/
inductive Refusal where
  /-- A command whose meaning is not written. Safe: nothing can be proved of it. -/
  | notModelled (mnemonic : String)
  deriving DecidableEq, Repr

/-! ### Masters, errors and records -/

/-- A unit with an error latch (R489). -/
inductive UnitId where
  | cell (c k : Nat)
  | store (c : Nat)
  | dense (c : Nat)
  | vector (c : Nat)
  | gpe (c j : Nat)
  | update (c : Nat)
  | strEng (c e : Nat)
  | dispatcher (c : Nat)
  | quant (c : Nat)
  | ioStr (d e : Nat)
  | hostPort (n : Nat)
  | ethPort (n : Nat)
  | bulkPort (n : Nat)
  | link (n : Nat)
  | hbm (s : Nat)
  | core (d : Nat)
  | mgmt (d : Nat)
  deriving DecidableEq, Repr

/-- An error as a unit captures it (R485, R489): the fields of its record that are not the ring's. -/
structure ErrInfo where
  sev : Nat := 0
  cls : Nat := 0
  detail : Nat := 0
  part : Option Nat := none
  island : Nat := 0
  cycles : Nat := 0
  subject : Nat := 0
  aux : Nat := 0
  tag : Nat := 0
  iseq : Nat := 0
  /-- The command whose outcome the record reports came from this management mailbox (R487). -/
  mgmtMbx : Option Nat := none
  deriving DecidableEq, Repr

/-- A pending error latch with its merge count (R489). -/
structure Latch where
  unit : UnitId
  err : ErrInfo
  ovf : Nat := 0
  deriving DecidableEq, Repr

/-- What a stopped access or operation ends with: a violation freezes the master, a failure gives the
item a status and a detail (R273, R291). -/
inductive Stop where
  | viol (kind addr : Nat)
  /-- A fault with its status and detail, and the address of the value that caused it, where one did. -/
  | fail (status detail : Nat) (addr : Option Nat := none)
  /-- An uncorrectable word at an address of a memory (0 bank, 1 HBM, 2 bulk, 3 engine SRAM), met by a read or by a
  partial write or atomic (R291). -/
  | unc (addr mem : Nat) (partialWrite : Bool)
  deriving DecidableEq, Repr

/-! ### Cells (chapters 3 and 5) -/

/-- Context states (Table 5.2). -/
inductive CtxState where
  | free | ready | waitMem | waitEngine | waitSync | halted | faulted
  deriving DecidableEq, Repr

/-- One of a cell's four contexts (R142, R143, R145). -/
structure Ctx where
  st : CtxState := .free
  pc : Nat := 0
  g : SMap W64 := []
  /-- Results on their way, by the register they are for: the value that will stand in it (R143, R152, R158). -/
  late : SMap (Option W64) := []
  /-- The task the context holds. -/
  task : Option Nat := none
  /-- Address of the result record of the context's last QPUSH, and whether its VALID is awaited (R177). -/
  qrec : Option Nat := none
  /-- The context has arrived at the partition barrier and waits (R180). -/
  arrived : Bool := false
  /-- LUT_CTX_CTRL.HALT bit of the context; a held context is HALTED while it is 1 (Table 5.19). -/
  halt : Bool := false
  /-- One instruction may issue although HALT is 1 (Table 5.19 STEP). -/
  step : Bool := false
  /-- Entries the present RQPUSH has already pushed (R173). -/
  pushed : Nat := 0
  deriving DecidableEq, Repr

/-- One slot of a table set (R68). -/
structure TSlot where
  built : Bool := false
  mode : Nat := 0
  pfmt : Nat := 0
  adig : Nat := 0
  digit : Nat := 0
  z : Bool := false
  off : Nat := 0
  t : List Int := []
  /-- 0 good, 1 correctable, 2 uncorrectable (R108). -/
  ecc : Nat := 0
  deriving DecidableEq, Repr

/-- A build accepted and not yet started (R165). -/
structure BuildJob where
  /-- MODEL: issue order on the cell. -/
  ord : Nat := 0
  x : Nat := 0
  task : Nat := 0
  /-- Word of the BUILD (Table 5.21). -/
  pc : Nat := 0
  src : Nat := 0
  base : Nat := 0
  set : Nat := 0
  count : Nat := 1
  first : Nat := 0
  offs : Nat := 0
  sgrp : Nat := 0
  nooff : Bool := false
  atag : Nat := 0
  mode : Nat := 0
  pfmt : Nat := 0
  deriving DecidableEq, Repr

/-- A sweep on a cell (R167, R168). -/
structure Sweep where
  ord : Nat := 0
  x : Nat := 0
  task : Nat := 0
  /-- Word of the SWEEP (Table 5.21). -/
  pc : Nat := 0
  /-- Index of the sweep among the task's sweeps on the cell, by which other cells know it. -/
  idx : Nat := 0
  base : Nat := 0
  set : Nat := 0
  count : Nat := 1
  tokens : Nat := 1
  wtag : Nat := 0
  wout : Nat := 0
  steal : Bool := false
  adig : Nat := 0
  /-- The write-out record of Table 5.10. -/
  outBase : Nat := 0
  rowStride : Int := 0
  tokStride : Int := 0
  tagBase : Nat := 0
  cstBase : Nat := 0
  foldC : Int := 0
  iscale : Nat := 0
  isStride : Nat := 0
  osu : Nat := 0
  oscale : Nat := 0
  /-- Exponents E_t read at the start (R170). -/
  et : List Int := []
  /-- The row set takes pushed entries (R173). -/
  openRows : Bool := true
  /-- The search for a victim has ended without a block (R172, R351). -/
  searchDone : Bool := false
  /-- Victims tried so far in the present search. -/
  tried : List Nat := []
  deriving DecidableEq, Repr

/-- A fence waiting in the engine's order (R174). -/
structure Fence where
  ord : Nat := 0
  x : Nat := 0
  task : Nat := 0
  wtag : Nat := 0
  adig : Nat := 0
  deriving DecidableEq, Repr

/-- A row block in the row queue (Table 3.7). -/
structure Block where
  first : Nat := 0
  count : Nat := 1
  pin : Bool := false
  wtag : Nat := 0
  wbase : Nat := 0
  wstride : Nat := 0
  /-- Issue number of the sweep it joined. -/
  sweep : Nat := 0
  /-- The block's staged weights, row after row; none until the loader has staged it (R89). -/
  staged : Option (List Byte) := none
  /-- Rows already handed to lanes. -/
  taken : Nat := 0
  /-- MODEL: number of the block among those the cell has opened, once it is open. -/
  no : Nat := 0
  /-- The entry in the row queue has an error: 1 correctable, 2 uncorrectable (R290). -/
  ecc : Nat := 0
  deriving DecidableEq, Repr

/-- A row held by a lane, its look-ups added into the lane's accumulators (R90, R91). -/
structure LaneRow where
  sweep : Nat := 0
  /-- Number of its open block. -/
  block : Nat := 0
  tag : Nat := 0
  tokens : Nat := 1
  deriving DecidableEq, Repr

/-- An open row block in the reorder unit (R92): the rows retired so far. -/
structure OpenBlock where
  blk : Block
  rows : SMap (List Int) := []
  /-- A held row has an error: 1 correctable, 2 uncorrectable (R108). -/
  ecc : Nat := 0
  deriving DecidableEq, Repr

/-- LUT_FAULT (Table 5.21). -/
structure FaultLatch where
  detail : Nat := 0
  ctx : Nat := 0
  pc : Nat := 0
  status : Nat := 0
  valid : Bool := false
  ovf : Nat := 0
  deriving DecidableEq, Repr

/-- The codebook register (R81). -/
structure Codebook where
  k : List Int := []
  e : Int := 0
  deriving DecidableEq, Repr

/-- One cell: sequencer, LUT engine, registers and counters. -/
structure Cell where
  pm : SMap W64 := []
  /-- Program words marked written (R188). -/
  pmw : SMap Bool := []
  /-- Program words with an error: 1 correctable, 2 uncorrectable (R189). -/
  pmEcc : SMap Nat := []
  /-- Tick plus one at which a word was last reloaded after a PM_UNCORR (Table 15.5). -/
  pmFix : SMap Nat := []
  imageId : Nat := 0
  ctx : SMap Ctx := []
  /-- The context that issued last (R144). -/
  last : Nat := 3
  engOwner : Option Nat := none
  /-- CUR_TAG (R100); (0xF, 0) at a cell reset (R174). -/
  curWtag : Nat := 15
  curAdig : Nat := 0
  cb : Option Codebook := none
  /-- Table slots, key 512 * set + slot. -/
  slots : SMap TSlot := []
  /-- The codebook each set was last built with (R81). -/
  setCb : SMap Codebook := []
  lanes : SMap (Option LaneRow) := []
  /-- Lane accumulators held at 48 bits, key 16 * lane + n (R82). -/
  acc : SMap Int := []
  /-- Accumulators with an error: 1 correctable, 2 uncorrectable (R108). -/
  accEcc : SMap Nat := []
  /-- Lane groups that have been handed a row in the present cycle (R90). -/
  took : List Nat := []
  rq : List Block := []
  builds : List BuildJob := []
  run : Option Sweep := none
  pend : Option Sweep := none
  fences : List Fence := []
  opened : List OpenBlock := []
  /-- MODEL: next issue number, and next number of an open block. -/
  ord : Nat := 0
  opens : Nat := 0
  /-- MODEL: number of sweeps the engine's task has issued on the cell. -/
  sweeps : Nat := 0
  /-- Counters of Table 3.10, k = 0 .. 10, then 11 ISSUED, 12 NOREADY, 13 BUSY_RETRY (Table 5.16). -/
  cnt : SMap Nat := []
  flt : FaultLatch := {}
  /-- LUT_ERR bits 0 FAULT, 1 ACC_BUSY, 2 PM_CORR, 3 CHORUS_MISMATCH. -/
  err : SMap Bool := []
  frozen : Bool := false
  /-- The victim of the outstanding tongue request, 32 c + k (R96). -/
  tongue : Option Nat := none
  /-- Counts as arrived until the next release (R504, R328). -/
  quiet : Bool := false
  /-- Failed chorus tries of the present segment (R186). -/
  chorusBad : Nat := 0
  /-- Loader grants made for the block that is being staged (R301). -/
  ldGot : Nat := 0
  deriving DecidableEq, Repr

/-! ### Banks (chapter 8) -/

/-- A staged commit: word address, the bytes it writes (R284). -/
structure Staged where
  word : Nat
  data : List (Nat × Byte)
  deriving DecidableEq, Repr

/-- A bank's owner register, handover and staging register (R274, R278, R284). -/
structure Bank where
  code : Nat := 0
  codeN : Nat := 0xFFFF
  /-- A handover waiting for its drain: the new code (R278). -/
  pending : Option Nat := none
  /-- Whose GIVE is unacknowledged: a cell's context, 4 * (32 c + k) + x, or an engine by its number in Cluster.sig,
  2^20 + 8 c + e. -/
  giver : Option Nat := none
  staged : List Staged := []
  /-- Cycles each requester's access has lost in a row (R283), by the requester's order. -/
  lost : SMap Nat := []
  /-- The port is in the second cycle of a 2-cycle access (R267). -/
  busy2 : Bool := false
  deriving DecidableEq, Repr

/-! ### Quantizer (chapter 4) -/

/-- A queued quantizer job (R111): its descriptor's address and who pushed it. -/
structure QJob where
  addr : Nat := 0
  task : Option Nat := none
  /-- The pushing context, 4 * (32 c + k) + x. -/
  ctx : Option Nat := none
  deriving DecidableEq, Repr

/-- A queued dense, vector, gather or update job (R193): its address and its task. -/
structure EJob where
  addr : Nat := 0
  task : Nat := 0
  deriving DecidableEq, Repr

/-- The running quantizer job between its passes (R118, R119, R126). -/
structure QRun where
  job : QJob := {}
  /-- Descriptor words 0 to 7. -/
  w : List Nat := []
  /-- The sums S2 and N4 as FP32 words (R124). -/
  s2 : Nat := 0
  n4 : Nat := 0
  /-- 0 passes done, 1 to post, 2 posted and waiting, 3 decided. -/
  phase : Nat := 0
  /-- The format written: DTAG, or the range monitor's choice (R125). -/
  atag : Nat := 0
  /-- RES could not be read: the job leaves no result record (log 70). -/
  noRes : Bool := false
  status : Nat := 0
  detail : Nat := 0
  /-- The word that ended the job, as its address and memory. -/
  bad : Option (Nat × Nat) := none
  sideN : Nat := 0
  clamped : Nat := 0
  deriving DecidableEq, Repr

/-- One statistic slot (R121). -/
structure Stat where
  sum : Nat := 0
  count : Nat := 0
  esc : Nat := 0
  clamped : Nat := 0
  nonfin : Nat := 0
  deriving DecidableEq, Repr

/-- One post into a combine slot (R126). -/
structure Post where
  clu : Nat := 0
  s2 : Nat := 0
  n4 : Nat := 0
  deriving DecidableEq, Repr

/-- A combine slot of a partition (R126, R127). -/
structure Combine where
  parts : Nat := 0
  snr : Nat := 0
  layer : Nat := 0
  posts : List Post := []
  /-- Parts that have arrived, failed ones included. -/
  arrived : Nat := 0
  /-- The slot has failed: parts that arrive later fail at once (R127). -/
  failed : Bool := false
  deriving DecidableEq, Repr

/-! ### Tasks, reports and completion records (chapters 5, 10, 11) -/

/-- A fault report on its way to a task's dispatcher (R182, R197). -/
structure Report where
  task : Nat
  status : Nat
  detail : Nat
  clu : Nat
  /-- For a fault of a cell program: cell, context number and program counter. -/
  src : Option (Nat × Nat × Nat) := none
  deriving DecidableEq, Repr

/-- A completion record that is due and not yet written to its ring (R380). -/
structure Due where
  /-- Mailbox: 0 to 15 a partition's, 16 + port a management function's, 20 the sideband's. -/
  mbx : Nat := 0
  tag : Nat := 0
  seq : Nat := 0
  status : Nat := 0
  detail : Nat := 0
  island : Nat := 0
  cycles : Nat := 0
  rlen : Nat := 0
  fvis : Bool := false
  noirq : Bool := false
  /-- 1 for a halt record (R322). -/
  kind : Nat := 0
  /-- A HOST_GONE record that was held for a former driver (R396). -/
  old : Bool := false
  deriving DecidableEq, Repr

/-- Where a task stands on one of its clusters (R347, R348). -/
inductive TaskSt where
  | unsent | queued | running | ended | stopped
  deriving DecidableEq, Repr

/-- A task of a request in service: its descriptor (Table 10.3) and its progress on each cluster. -/
structure Task where
  req : Nat := 0
  part : Nat := 0
  idx : Nat := 0
  nctx : Nat := 1
  waitPrev : Bool := false
  last : Bool := false
  xsteal : Bool := false
  entry : Nat := 0
  cellFirst : Nat := 0
  ncell : Nat := 1
  minStep : Nat := 0
  arg : Nat := 0
  flags : Nat := 0
  energy : Nat := 0
  dur : Nat := 1
  clist : Nat := 0
  /-- Logical clusters of the task, ascending. -/
  clus : List Nat := []
  /-- Progress by cluster. -/
  st : SMap TaskSt := []
  /-- A cluster reset has already interrupted the task once (R350). -/
  redone : Bool := false
  /-- Address of its descriptor. -/
  daddr : Nat := 0
  /-- Tokens held by cluster, in 1/16 W (R356). -/
  tokens : SMap Nat := []
  /-- Clusters on which it runs under the oversize rule (R357). -/
  ovr : List Nat := []
  deriving DecidableEq, Repr

/-- Where a request stands (R335). -/
inductive ReqSt where
  | queued | service | done
  deriving DecidableEq, Repr

/-- A request-table entry (R335, R336). -/
structure Req where
  st : ReqSt := .queued
  mbx : Nat := 0
  part : Nat := 0
  tag : Nat := 0
  seq : Nat := 0
  fvis : Bool := false
  noirq : Bool := false
  cls : Nat := 0
  plan : Nat := 0
  arg : Nat := 0
  /-- Time of the matched read, in ticks of 40 ns, and the budget in control-core cycles (R336). -/
  t0 : Nat := 0
  budget : Nat := 0
  /-- The lane it took at its dispatch (R344). -/
  lane : Option Nat := none
  ntask : Nat := 0
  tasksAt : Nat := 0
  /-- Dispatch sequence number (R340). -/
  dseq : Nat := 0
  /-- Next task to send. -/
  nextTask : Nat := 0
  /-- SVC, LANES and LSTRIDE of the plan's entry (Table 10.1). -/
  svc : Nat := 0
  lanes : Nat := 1
  lstride : Nat := 0
  /-- The request's tasks by index, once sent. -/
  tids : List Nat := []
  /-- Its record has been written (R335). -/
  written : Bool := false
  deriving DecidableEq, Repr

/-! ### Tables, gather jobs, molts and batches (chapter 7) -/

/-- A table descriptor as an engine reads it (Table 7.2). -/
structure TabD where
  f : Fmt := .b1
  s : Nat := 32
  dim : Nat := 1
  cache : Bool := false
  accOk : Bool := false
  rows : Nat := 0
  shlog : Nat := 10
  smap : Nat := 0
  cbk : Nat := 0
  cmask : Nat := 0
  deriving DecidableEq, Repr

/-- A shard-map entry (Table 7.3). -/
structure Shard where
  tier : Nat := 0
  module : Nat := 0
  home : Nat := 0
  rep : Bool := false
  replica : Nat := 0
  base : Nat := 0
  deriving DecidableEq, Repr

/-- Where one row of the present bag of a gather job stands (R236, R243). -/
inductive RowRes where
  /-- Not begun: 64 reads are outstanding (R246). -/
  | todo
  | pad
  /-- A failed attempt; attempt n is next (R236), at the shard the row was found in (R227). -/
  | retry (row n : Nat) (sh : Shard)
  /-- Awaits the fabric response of a tag. -/
  | remote (row tag : Nat)
  /-- Passed: its elements as FP32 words. -/
  | got (xs : List Nat)
  | failed (row status detail : Nat)
  deriving DecidableEq, Repr

/-- The running gather job of an engine (R244). -/
structure GRun where
  job : EJob := {}
  /-- Words 0 to 7. -/
  w : List Nat := []
  td : TabD := {}
  /-- The shard-map entries of the job's rows as they stood when it arrived (R227). -/
  shards : SMap (Option Shard) := []
  bag : Nat := 0
  /-- The present bag's first place in IDS, and its rows in ID order; none before its offsets are read. -/
  start : Nat := 0
  rows : Option (List RowRes) := none
  deriving DecidableEq, Repr

/-- A row cache fill: pending until its read passes and the line is written (R232). -/
structure Fill where
  part : Nat := 0
  table : Nat := 0
  row : Nat := 0
  /-- The header and codes once the read has passed. -/
  data : Option (List Byte) := none
  deriving DecidableEq, Repr

/-- An update entry routed to its home engine (R248, R261). -/
structure UEntry where
  batch : Nat := 0
  idx : Nat := 0
  /-- Partition that owns the table, and partition of the batch. -/
  own : Nat := 0
  src : Nat := 0
  table : Nat := 0
  row : Nat := 0
  op : Nat := 0
  ptag : Nat := 0
  expect : Nat := 0
  payload : List Byte := []
  td : TabD := {}
  shard : Shard := {}
  /-- From another module: its index plus one, with the message's tag. -/
  module : Nat := 0
  tag : Nat := 0
  /-- Cluster resets that interrupted it in conversion (Table 7.11). -/
  resets : Nat := 0
  deriving DecidableEq, Repr

/-- A molt in flight: its slot codes are written, its header write is still to come (R248). -/
structure Molt where
  ent : UEntry := {}
  addr : Nat := 0
  hdr : Nat := 0
  codes : List Byte := []
  deriving DecidableEq, Repr

/-- A batch of update entries (R258 to R260). -/
structure Batch where
  part : Nat := 0
  clu : Nat := 0
  /-- Route: 0 host command, 1 network queue, 2 update job, 3 an update job whose task has been stopped. -/
  kind : Nat := 0
  /-- The network queue, or the task of the update job. -/
  item : Nat := 0
  /-- The record of the host command. -/
  due : Due := {}
  /-- The update job's sync word. -/
  w7 : Nat := 0
  addr : Nat := 0
  /-- Outcome array. -/
  out : Nat := 0
  /-- Bytes of the receive buffer or message it lies in. -/
  held : Nat := 0
  checked : Bool := false
  tag : Nat := 0
  n : Nat := 0
  next : Nat := 0
  rest : List Byte := []
  /-- Outcomes by entry, plus one. -/
  outc : SMap Nat := []
  /-- Detail of an outcome byte that could not be written (R259). -/
  lost : Nat := 0
  /-- Source of the datagram: address and port. -/
  peer : Nat := 0
  dup : Bool := false
  /-- The receive buffer the batch lies in, as base and length, `addr` being an offset in it (R436). -/
  ring : Nat × Nat := (0, 0)
  deriving DecidableEq, Repr

/-- A remote read or molt that waits for a response (R445). -/
structure Remote where
  tag : Nat := 0
  /-- Requesting partition. -/
  part : Nat := 0
  /-- A gather engine's row, as cluster, engine and place in the bag; none for a molt. -/
  gather : Option (Nat × Nat × Nat) := none
  batch : Nat := 0
  idx : Nat := 0
  own : Nat := 0
  table : Nat := 0
  row : Nat := 0
  shard : Shard := {}
  /-- The read has gone to the replica (R253). -/
  fell : Bool := false
  deriving DecidableEq, Repr

/-! ### Fabric (chapter 13) -/

/-- A fabric message (Table 13.5). -/
structure Msg where
  dst : Nat := 0
  src : Nat := 0
  dpart : Nat := 0
  kind : Nat := 0
  table : Nat := 0
  tag : Nat := 0
  shard : Nat := 0
  payload : List Byte := []
  /-- Link and virtual channel it arrived on. -/
  link : Nat := 0
  vc : Nat := 0
  deriving DecidableEq, Repr

/-- A data flit (Table 13.4): sequence number, virtual channel and payload bytes. -/
structure Flit where
  seq : Nat := 0
  vc : Nat := 0
  payload : List Byte := []
  /-- The flow of its message (R446). -/
  flow : Nat := 0
  /-- The local partition it is charged to, 16 for the unshared part of a link (R449). -/
  part : Nat := 16
  /-- The last flit of its message. -/
  last : Bool := true
  deriving DecidableEq, Repr

/-- Protocol state of a fabric link (R443, R444); its registers stand in State.dregs. -/
structure Link where
  txSeq : Nat := 0
  rxNext : Nat := 0
  /-- A failed flit has been NAKed; flits are discarded until the replay arrives. -/
  naked : Bool := false
  /-- Replay buffer: data flits sent and unacknowledged, oldest first. -/
  replay : List Flit := []
  /-- Flits waiting for a credit or for replay-buffer room, not yet numbered. -/
  txq : List Flit := []
  /-- Credits used of 256, by virtual channel. -/
  used : SMap Nat := []
  /-- Bytes of a message not yet whole, by virtual channel. -/
  rxb : SMap (List Byte) := []
  sent : Nat := 0
  rcvd : Nat := 0
  /-- Replays in the present millisecond, and its number. -/
  replays : Nat := 0
  ms : Nat := 0
  /-- An armed CRC failure (R517). -/
  inj : Bool := false
  /-- LNK_POLICY as it stood at the link's last training (R457). -/
  pol : Nat := 1 + 4 + 2 * 2 ^ 3 + 2 ^ 6 + 2 ^ 8 + 16 * 2 ^ 16
  /-- The transmitter's grant period (R449): slots granted in it, slots granted against each partition's share, the shares
  in effect, the holder of the last slot that no share claimed, and the partition plus one whose message is in progress,
  by virtual channel. -/
  slots : Nat := 0
  granted : SMap Nat := []
  shares : List Nat := []
  rr : Nat := 16
  opened : SMap Nat := []
  deriving DecidableEq, Repr

/-! ### Streams (chapter 9) -/

/-- A slot of a cluster stream engine (R299). -/
structure Slot where
  /-- 0 idle, 1 transferring, 2 at WAIT, 3 at BARRIER, 4 halted (Table 9.13). -/
  st : Nat := 0
  /-- The task whose list the slot runs. -/
  list : Option Nat := none
  /-- Words of the active descriptor, and its list address. -/
  words : List Nat := []
  daddr : Nat := 0
  /-- List position of the next descriptor to fetch. -/
  next : Nat := 0
  /-- Clutch buffer: descriptors fetched and not started, with their addresses (R309). -/
  buf : List (Nat × List Nat) := []
  /-- A descriptor armed while another is active; the active one was armed (R318). -/
  shadow : Option (List Nat) := none
  armed : Bool := false
  /-- Elements granted (R304) and T_c. -/
  elem : Nat := 0
  tc : Nat := 0
  /-- Grants whose accesses are not yet acknowledged: first element, and the one after the last (R300, R314). -/
  out : List (Nat × Nat) := []
  /-- Unacknowledged grants of descriptors that the slot no longer holds (R321). -/
  old : Nat := 0
  /-- STR_LEAD and STR_HALT_LIMIT as they stood when the descriptor became active (R15). -/
  lead : Nat := 0
  limit : Nat := 0
  /-- A mapping fault whose halt has yet to run: address, cause, write (R322). -/
  fault : Option (Nat × Nat × Bool) := none
  /-- Halts of the slot modulo 8,192; halts without progress, and ELEM at the last one (R325). -/
  halts : Nat := 0
  streak : Nat := 0
  lastElem : Nat := 0
  retired : Nat := 0
  deriving DecidableEq, Repr

/-- An emptied slot keeps its counts; what its descriptor had outstanding completes with its results discarded (R321). -/
def Slot.clear (x : Slot) : Slot := { halts := x.halts, retired := x.retired, old := x.old + x.out.length }

/-- An entry of a host port's translation cache: the port, the VF that is its requester, and the page of 4 KiB (R369). -/
structure Xlat where
  port : Nat := 0
  vf : Nat := 0
  page : Nat := 0
  deriving DecidableEq, Repr

/-- A slot of an I/O stream engine: the mailbox and SEQ of the command it serves, the partition, the descriptors still to be
done with the active one first, its elements granted, and the Stop that ended it (R332). -/
structure IoSlot where
  busy : Bool := false
  mbx : Nat := 0
  seq : Nat := 0
  part : Nat := 0
  todo : List (List Nat) := []
  elem : Nat := 0
  stop : Option Stop := none
  deriving DecidableEq, Repr

/-- A page request of a halted slot: port, group index once posted, cluster, engine, slot and the slot's halt count (R370). -/
structure PageReq where
  port : Nat := 0
  prgi : Option Nat := none
  clu : Nat := 0
  eng : Nat := 0
  slot : Nat := 0
  halts : Nat := 0
  deriving DecidableEq, Repr

/-- A task whose start waits for the lists that run in its slots: engine, slot and address of the lists still to start (R308). -/
structure Start where
  task : Nat := 0
  lists : List (Nat × Nat × Nat) := []
  deriving DecidableEq, Repr

/-! ### Mailboxes (chapter 11) -/

/-- A command that firmware has consumed and whose record is not yet written (R379). -/
structure Cmd where
  op : Nat := 0
  seq : Nat := 0
  tag : Nat := 0
  fvis : Bool := false
  noirq : Bool := false
  fence : Bool := false
  /-- A0 to A4. -/
  args : List Nat := []
  /-- Tick of the read that matched (R336). -/
  at0 : Nat := 0
  /-- The command has begun. -/
  started : Bool := false
  /-- Its record is due (R17). -/
  due : Bool := false
  deriving DecidableEq, Repr

/-- One mailbox (R373 to R382). -/
structure Mbx where
  /-- MBX page registers by offset, 0x000 to 0x0FF. -/
  regs : SMap Nat := []
  /-- The fetch target: a sequence number, while fetching (R377). -/
  target : Option Nat := none
  /-- Reads made of the entry at H that did not match (R378). -/
  reads : Nat := 0
  ahead : Bool := false
  cmds : List Cmd := []
  /-- Records counted since the last interrupt, and the tick of the first (R403). -/
  counted : Nat := 0
  since : Nat := 0
  /-- Error records whose vector is not yet sent. -/
  errs : Nat := 0
  /-- HOST_GONE records held (R396); they are due after the next doorbell (R399). -/
  held : List Due := []
  letGo : Bool := false
  /-- The management function was reset with items open: their records wait until its rings are set up again (R17, R395). -/
  gone : Bool := false
  /-- Tick since which a writer waits for a slot (R381). -/
  waitAt : Option Nat := none
  /-- Records dropped since the last LOST record (R543). -/
  lost : Nat := 0
  /-- SEQs of the CMD_SUBMIT_REQUESTs read, within the last 65,536 (R385). -/
  reqSeqs : List Nat := []
  /-- MSI-X Pending Bits of the vectors (R403). -/
  msixPend : SMap Bool := []
  /-- The completion and the error ring's registers were written since the ring was last set up (R542). -/
  newCpl : Bool := false
  newErr : Bool := false
  deriving DecidableEq, Repr

/-! ### Program images (R184 to R187) -/

/-- A chorus segment (Table 5.14). -/
structure Seg where
  base : Nat := 0
  crc : Nat := 0
  id : Nat := 0
  words : List W64 := []
  deriving DecidableEq, Repr

/-- A segment on its way to a cell (R185, R186): the command it serves, if any, as mailbox and SEQ. -/
structure ChorusJob where
  clu : Nat := 0
  cell : Nat := 0
  seg : Seg := {}
  /-- The words are written and the CRC result is awaited. -/
  sent : Bool := false
  /-- Mismatches so far. -/
  tries : Nat := 0
  cmd : Option (Nat × Nat) := none
  /-- The word that a PM_UNCORR was reported at, where the segment reloads it (R189). -/
  fix : Option Nat := none
  deriving DecidableEq, Repr

/-- A CMD_LOAD_MODEL in progress (R386). -/
structure Load where
  cmd : Cmd := {}
  /-- Address of the next record, its index, and the number of records; 0 before the header is read. -/
  addr : Nat := 0
  idx : Nat := 0
  total : Nat := 0
  opened : Bool := false
  /-- A chorus of the present record has failed for good. -/
  failed : Bool := false
  /-- The present CHORUS record's segments are on their way; a CHORUS record has begun the new image. -/
  sent : Bool := false
  imaged : Bool := false
  /-- An I/O stream engine is copying the present DATA record. -/
  copying : Bool := false
  deriving DecidableEq, Repr

/-- A cluster bind, move or unbind in progress (R414). -/
structure Move where
  mbx : Nat := 0
  cmd : Cmd := {}
  clu : Nat := 0
  src : Option Nat := none
  dst : Option Nat := none
  scrub : Bool := false
  /-- The cluster has joined and its chorus is awaited; a chorus of it has failed for good. -/
  joined : Bool := false
  failed : Bool := false
  deriving DecidableEq, Repr

/-! ### Clusters and partitions -/

/-- A network queue (Table 13.13). -/
structure NetQ where
  part : Option Nat := none
  /-- An open unbind: its mailbox and command (R412). -/
  unbind : Option (Nat × Cmd) := none
  /-- Context words 0 to 15, and the mode in effect (R458). -/
  ctx : SMap Nat := []
  mode : Nat := 0
  /-- Writes with Immediate since the queue was enabled (R432). -/
  notices : Nat := 0
  /-- Receive buffer: offset of the next byte, and bytes held (R436). -/
  wp : Nat := 0
  used : Nat := 0
  /-- The last 1,024 sequence numbers accepted, newest first (R435). -/
  seqs : List Nat := []
  /-- The last message was refused with RNR NAK (R436). -/
  rnr : Bool := false
  /-- Send rate in Mb/s at its last cut, and the tick of it; none at line rate (R438). -/
  cut : Option (Nat × Nat) := none
  /-- Tick of the last CNP sent for the queue (R438). -/
  cnpAt : Option Nat := none
  /-- SENDs not yet acknowledged by the peer, oldest first, and the retries of the oldest. -/
  unacked : List (List Nat) := []
  tries : Nat := 0
  deriving DecidableEq, Repr

/-- Power states of a cluster (Table 10.6); RUN and IDLE differ by the work that it holds alone. -/
inductive PwrState where
  | on | brum | off
  deriving DecidableEq, Repr

/-- One logical cluster: binding, numbering, flags, registers and the engines' queues. -/
structure Cluster where
  /-- The partition whose binding is in effect. -/
  part : Option Nat := none
  /-- The logical number is vacant (R25). -/
  vacant : Bool := false
  /-- Enabled cells, logical 0 .. ncell-1 (R25). -/
  ncell : Nat := 32
  /-- Physical slot on the die plus one; 0 for the slot of the same index (R24). -/
  slot : Nat := 0
  /-- Physical slot plus one of each logical cell; 0 for the slot of the same number (R24). -/
  cellSlot : SMap Nat := []
  /-- The 64 cluster flags (R179). -/
  flags : SMap Nat := []
  /-- Per-cluster registers by their number in Machine/Regs.lean. -/
  regs : SMap Nat := []
  /-- The flag an engine has yet to signal for its ended job (R194): 0 dense, 1 vector, 2 to 5 gather-pool engines,
  6 update engine; the value is the flag plus one, and the job's task. -/
  sig : SMap (Option (Nat × Nat)) := []
  /-- Dense and vector queues of 16 jobs, and the jobs of started tasks that wait for room in them (R193). -/
  dq : List EJob := []
  vq : List EJob := []
  dw : List EJob := []
  vw : List EJob := []
  -- quantizer (R111, R121, R129)
  qq : List QJob := []
  qrun : Option QRun := none
  /-- Channel scale entries in effect and their shadows (R129, R130). -/
  cst : SMap Nat := []
  cstSh : SMap (Option Nat) := []
  stats : SMap Stat := []
  snap : SMap Stat := []
  /-- Statistic slots that QNT_CLEAR clears at the running job's next row boundary, as a mask (R122). -/
  statClr : Nat := 0
  /-- Power state (R362). -/
  pw : PwrState := .on
  /-- Shadow of PWR_CLK, not yet in effect (R14, R363). -/
  clkSh : Option Nat := none
  /-- Clocks in effect, in MHz (R26, R363). -/
  cellMHz : Nat := 1600
  cmpMHz : Nat := 1600
  /-- Island counters at tick `cycAt` (R27). -/
  cycCell : Nat := 0
  cycCmp : Nat := 0
  cycAt : Nat := 0
  -- gather-pool engines and update engine (chapter 7)
  /-- Queues of the four gather-pool engines (R241). -/
  gq : SMap (List EJob) := []
  /-- Gather jobs of started tasks that wait for room in a queue (R241). -/
  gw : List EJob := []
  gRun : SMap (Option GRun) := []
  /-- Row cache fills pending (R232), and the order in which the lines were filled, key line (R231). -/
  fills : List Fill := []
  cacheAge : SMap Nat := []
  cacheOrd : Nat := 0
  /-- Invalidations on their way to this engine: partition, table, row (R233). -/
  invs : List (Nat × Nat × Nat) := []
  /-- Update jobs queued, the running one's batch, batches to take in, entries queued, molts in flight (R257 to R261). -/
  uj : List EJob := []
  /-- Update jobs of started tasks that wait for room in the queue (R260). -/
  uw : List EJob := []
  ujRun : Option Nat := none
  bq : List Nat := []
  uq : List UEntry := []
  infl : List Molt := []
  /-- Entries in flight that a cluster reset interrupted, to start again from their header read (Table 7.11). -/
  redo : List UEntry := []
  /-- Counts as arrived until the next release (R328). -/
  joining : Bool := false
  leaving : Bool := false
  /-- Masters of the cluster's engines released from a freeze, by master ID: they take part again from the next release (R422). -/
  quietM : List Nat := []
  /-- Frozen masters of the cluster while no partition holds it, by master ID (R422). -/
  frz : List Nat := []
  /-- A takeover's new seeds take effect once no task runs on the cluster (R217). -/
  reseedDue : Bool := false
  -- stream engines
  /-- Slots, key 8 * engine + slot. -/
  slots : SMap Slot := []
  /-- Cycles since the loader channel's last grant, by engine (R301). -/
  ldTurn : SMap Nat := []
  /-- Cycle at which the engines observed the last release (R312). -/
  epochCyc : Nat := 0
  -- dispatcher and power
  /-- B_c and B0_c in tokens (R354, R357). -/
  bud : Nat := 0
  bud0 : Nat := 0
  hot : Bool := false
  /-- The first ready task that DSP_HOLD made bar the others (R357). -/
  barred : Option Nat := none
  /-- Ready tasks found not to fit since this tick. -/
  holdAt : Option Nat := none
  /-- Limiter steps taken off the cell clock and off the compute clock (R358). -/
  limCell : Nat := 0
  limCmp : Nat := 0
  /-- A host-window access has asked the cluster to wake (R362). -/
  wake : Bool := false
  /-- The task in step 3 of its start (R308, R347). -/
  starting : Option Start := none

  deriving DecidableEq, Repr

/-- An HBM extent (R271) or bulk extent (R272): first channel and count, or the port set, and the range of units. -/
structure Extent where
  first : Nat := 0
  n : Nat := 0
  ports : Nat := 0
  lo : Nat := 0
  hi : Nat := 0
  deriving DecidableEq, Repr

/-- PT_STATE (Table 11.16). -/
inductive PtState where
  | unbound | active | orphan | resetting
  deriving DecidableEq, Repr

/-- One of the 16 partitions. -/
structure Part where
  st : PtState := .unbound
  /-- Instances: logical clusters in the numbering in effect (R413). -/
  insts : List Nat := []
  /-- Registers of the partition's BAR0 by their number in Machine/Regs.lean. -/
  regs : SMap Nat := []
  /-- Extents in effect (R271, R272) and as bound, which show at the next epoch (R297). -/
  hbm : List Extent := []
  bulk : List Extent := []
  hbmNext : List Extent := []
  bulkNext : List Extent := []
  /-- Frozen masters by their master ID (R420). -/
  frozen : List Nat := []
  /-- PMAP_VIOL: the first violation latched (Table 12.9). -/
  violMaster : Nat := 0
  violKind : Nat := 0
  violValid : Bool := false
  violOvf : Nat := 0
  violAddr : Nat := 0
  combine : SMap Combine := []
  -- map entry (R407, R408): host port, VF, quota, link shares (key 2 * link, + 1 for RX)
  port : Nat := 0
  vf : Nat := 0
  quota : Nat := 0
  shares : SMap Nat := []
  /-- Bits in which the held complement of the map entry differs from what its control word gives: 0 where the pair is sound
  (R11, R408). -/
  mapFlip : Nat := 0
  -- token (R397): the stored pair and the values written
  token : Nat := 0
  tokenN : Nat := 2 ^ 64 - 1
  tokW : Nat := 0
  tokWN : Nat := 0
  tokBad : Bool := false
  /-- A CMD_RECLAIM is not examined until 1 s after a failure (R398). -/
  lockout : Bool := false
  /-- The partition's own power cap request (R388). -/
  capReq : Nat := 0
  /-- Next dispatch sequence number (R337). -/
  dseq : Nat := 0
  /-- A CMD_LOAD_MODEL has stopped dispatch (R386). -/
  loading : Bool := false
  -- barrier (R326, R327)
  arrivals : Bool := false
  /-- Records of the pending CMD_BARRIERs, and of extent commands that complete at the release (R329, R412). -/
  hostBar : List Due := []
  atRelease : List Due := []
  /-- A path flush is in progress or has ended: number of flushes (R393). -/
  flushes : Nat := 0
  /-- Segments of the chorus image that the last CMD_LOAD_MODEL staged (R386, R414). -/
  image : List Seg := []
  /-- The load in progress. -/
  load : Option Load := none
  /-- Unbound extents to clear at the release (R410, R412): bulk or HBM, and the extent. -/
  scrubs : List (Bool × Extent) := []
  /-- An open unbind of the function: its mailbox and command (R412). -/
  unbind : Option (Nat × Cmd) := none

  deriving DecidableEq, Repr

/-- A block given by a victim and not yet received by its thief (R97, R98). -/
structure Given where
  thief : Nat
  blk : Option Block
  deriving DecidableEq, Repr

/-- A block returned by a cell reset to the steal pool of its sweep (R99). -/
structure PoolBlock where
  task : Nat
  idx : Nat
  blk : Block
  deriving DecidableEq, Repr
/-- A host-window access that waits for its cluster to wake (R362). -/
structure WinAcc where
  part : Nat := 0
  addr : Nat := 0
  write : Bool := false
  data : List Byte := []
  len : Nat := 0
  cxl : Bool := false
  deriving DecidableEq, Repr

/-- The variants of the module (Table 0.1): HBM stacks and I/O dies. -/
inductive Variant where
  | v16x4 | v12x4 | v16x2 | v8x2
  deriving DecidableEq, Repr

/-- The state of the module. -/
structure State where
  /-- The variant that the module was built as (R2, R3); no command changes it. -/
  variant : Variant := .v16x4
  cells : SMap Cell := []
  banks : SMap Bank := []
  clus : SMap Cluster := []
  parts : SMap Part := []
  tasks : SMap Task := []
  reqs : SMap Req := []
  /-- MODEL: next task and request numbers. -/
  nextTask : Nat := 0
  nextReq : Nat := 0
  reports : List Report := []
  due : List Due := []
  latches : List Latch := []
  /-- Error records firmware itself has to write, in order (R545). -/
  dueErr : List ErrInfo := []
  given : List Given := []
  pool : List PoolBlock := []
  /-- Slots in use of the I/O stream engines, slot i of engine e of I/O die d at 32 d + 8 e + i (R23, R332). -/
  ioSlots : SMap IoSlot := []
  /-- Memory: scratchpads, stores, HBM, bulk and host memory, by the keys of Machine/Ops.lean. -/
  mem : Mem := []
  /-- Words with an error, by the key of their first byte: 1 correctable, 2 uncorrectable (R291). -/
  ecc : SMap Nat := []
  /-- Stochastic-rounding lanes, key 128 e + lane: the generator's state, 0 before the first draw after a seed. -/
  srLane : SMap Nat := []
  /-- Generation of each engine's seeds (R215). -/
  srGen : SMap Nat := []
  /-- Registers of management BAR0 by offset. -/
  dregs : SMap Nat := []
  /-- Armed injections: word key to bytes flipped at its next write (R517). -/
  inj : SMap Nat := []
  batches : SMap Batch := []
  remotes : List Remote := []
  nextBatch : Nat := 0
  nextTag : Nat := 0
  links : SMap Link := []
  /-- Fabric messages for this module: requests and responses, in order of arrival; and messages to forward. -/
  reqIn : List Msg := []
  rspIn : List Msg := []
  transit : List Msg := []
  /-- Batches whose acknowledgement is due, in the order they completed (R434), with status and detail. -/
  acks : List (Batch × Nat × Nat) := []
  /-- Mailboxes: 0 to 15 a partition's, 16 + port a management function's, 20 the sideband's. -/
  mbx : SMap Mbx := []
  /-- Page requests outstanding and waiting (R370). -/
  pages : List PageReq := []
  /-- Bulk ports whose expander is out of service, as a mask (R320). -/
  bulkOut : Nat := 0
  /-- MODEL: the answer to the last read that the environment made: completion status and bytes. -/
  ans : Nat × List Byte := (0, [])
  /-- MODEL: messages that have left the module, oldest first: kind and content. -/
  sent : List (Nat × List Nat) := []
  /-- B_dev in tenths of a watt (R353); the limiter is lowering clocks (R358). -/
  bdev : Nat := 0
  /-- PWR_DEV_CAP and PWR_THERM in effect since the last budget period (R365). -/
  capNow : Nat := 3000
  thermNow : Nat := 95 + 105 * 256
  limiting : Bool := false
  /-- Device error ring: vectors not yet sent, records dropped since the last LOST record, set-up awaited (R543). -/
  ringErrs : Nat := 0
  ringLost : Nat := 0
  ringNew : Bool := false
  /-- Power state of the module: 0 OFF, 1 STANDBY, 2 ON (Table 16.2). -/
  pwr : Nat := 2
  /-- Bring-up (Table 14.9): stage 0 to 4, 5 when it has ended; running, halted, outcome, warm, recovery, report posted. -/
  stage : Nat := 0
  staging : Bool := true
  halted : Bool := false
  outcome : Nat := 0
  warm : Bool := false
  recovery : Bool := false
  reported : Bool := false
  /-- Host-window accesses that wait for a wake. -/
  winQ : List WinAcc := []
  /-- Host ports trained as CXL, as a mask (R371). -/
  cxl : Nat := 0
  /-- Uncorrectable errors met and corrected words, by key of the word, with their tick (Table 15.5). -/
  ueLog : List (Nat × Nat) := []
  ceLog : List (Nat × Nat) := []
  /-- Complement failures of values that only the device writes, by key of the value, with their tick (R494). -/
  complLog : List (Nat × Nat) := []
  /-- Chorus segments on their way, in order; cluster moves in progress. -/
  chorus : List ChorusJob := []
  moves : List Move := []
  /-- Network queues by number 256 e + q. -/
  netq : SMap NetQ := []
  /-- Priorities on which a port's partner has paused it, as a mask (Table 13.1). -/
  paused : SMap Nat := []
  /-- Host ports: their configuration space, and the generation and width that their link trained at (R366, R368). -/
  hostCfg : SMap HostCfg := []
  hostLnk : SMap (Nat × Nat) := []
  /-- Translation caches of the host ports, newest entry last (R369). -/
  atc : List Xlat := []
  /-- HBM channels whose contents are being copied to an eft: channel, and the physical channel (R500). -/
  hbmCopy : List (Nat × Nat) := []
  /-- Fabric, Ethernet and bulk training runs (R473, R475). -/
  training : Bool := false
  /-- A sideband session is open (R531). -/
  session : Bool := false
  /-- The defect list: words 0 and 1 of each entry (Table 14.6); units found failing at this start. -/
  dfl : List (Nat × Nat) := []
  bad : List Finding := []
  /-- A die network or I/O die network failed (R463); the image check of the standby passed (R462). -/
  netBad : Bool := false
  stbyOk : Bool := false
  /-- Words of the present report, and the reports of the seven starts before it, latest first (R477). -/
  rpt : List Nat := (List.range 5).flatMap (fun i => [i + 24, 0, 0, 0, 0, 0, 0, 0]) ++ List.replicate 8 0
  logs : List (List Nat) := []
  /-- The present start is stepped (R475); ticks at which it and its stage began. -/
  stepped : Bool := false
  began : Nat := 0
  stageAt : Nat := 0
  /-- Map resources removed by R470 at this start. -/
  dropped : Nat := 0
  /-- Releases in the two image slots of module flash, 256 * major + minor, and the active slot (R462, R511). -/
  slotRel : SMap Nat := []
  slotAct : Nat := 0
  /-- Slot in its stack plus one of each logical HBM channel that an eft carries; stacks disabled, as a mask (R270,
  Table 14.2). -/
  chanSlot : SMap Nat := []
  stackOff : Nat := 0
  /-- Capacity of each bulk port's expander in GiB; withdrawn units, 2,048 q + unit (R272, Table 14.2). -/
  bulkCap : SMap Nat := []
  bulkWd : List Nat := []
  /-- Units whose latch overflowed (R492); clusters with a cell retirement that found no eft (R501). -/
  trig : List UnitId := []
  cluTrig : List Nat := []
  /-- The ERR_RETIRE (1) or ERR_READMIT (2) operation in progress: operation, kind, island and index. -/
  repair : Option (Nat × Nat × Nat × Nat) := none
  /-- Banks that still lie in a retired cell, 576 * cluster + bank (R498). -/
  bankMoves : List Nat := []
  /-- Logical number plus one that a retired cell or cluster held, by its island (Table 15.7). -/
  heldBy : SMap Nat := []
  /-- Tick of the last heartbeat; the heartbeat has been stopped by an injection (R505, R517). -/
  beatAt : Nat := 0
  beatStop : Bool := false
  /-- The CMD_FW_UPDATE in progress: mailbox, command, and the release stored (R511). -/
  fwUpd : Option (Nat × Cmd × Nat) := none
  /-- PLDM firmware update: 0 none, 1 transferring, 2 an image is stored and checked (R530). -/
  pldm : Nat := 0
  /-- Pins: PWR_EN, and THERMTRIP# asserted (Table 16.9); the input has left its range and not yet returned (R519). -/
  pwrEn : Bool := true
  trip : Bool := false
  vinBad : Bool := false
  /-- The last reading of each sensor; none where it gave none (R527). -/
  sensors : SMap (Option Nat) := []
  /-- Warning conditions of Table 16.6 now entered, sensor n without a reading at 8 + n; tick since which the flow is low. -/
  warned : Nat := 0
  flowLow : Option Nat := none
  /-- Tick of the last vendor-defined message of the sideband session (R531). -/
  sessAt : Nat := 0
  /-- The partition whose reset was last issued through PMAP_RESET (Table 12.9). -/
  pmapReset : Option Nat := none

  /-- MODEL: ticks of 40 ns since power-up; the tick at which the main rails last came up (R27). -/
  now : Nat := 0
  upAt : Nat := 0
  /-- MODEL: free values taken so far. -/
  fresh : Nat := 0
  /-- MODEL: the commands that are waiting, first in, first out. -/
  pending : List Instr := []
  deriving DecidableEq, Repr

/-- The module right after the device reset of power-up. -/
def State.reset : State := {}

end Sys2Proof.Machine
end

