-- ==== Sys2Proof/Machine/Ops.lean ====
section
/-!
DEFINITION. The named operations over the state: sparse maps, accessors, address translation and the access checks
(R268 to R279), memory with its staging registers and error correction (R284, R285, R291), error latches (R489),
completion records that are due (R17), free values and stochastic-rounding draws (R214).
-/
namespace Sys2Proof.Machine

/-! ### Sparse maps -/

/-- Value at a key; the default where nothing is listed. -/
def mget {α : Type} (d : α) : SMap α → Nat → α
  | [], _ => d
  | (k, v) :: r, i => if i = k then v else mget d r i

/-- The map with a key's entry removed. -/
def merase {α : Type} (m : SMap α) (k : Nat) : SMap α := m.filter fun p => p.1 != k

/-- The map with an entry put in at its place, over any entry of the same key. -/
def mins {α : Type} (k : Nat) (v : α) : SMap α → SMap α
  | [] => [(k, v)]
  | (i, w) :: r => if k < i then (k, v) :: (i, w) :: r else if k = i then (k, v) :: r else (i, w) :: mins k v r

/-- Write a key; writing the default removes the entry, so equal maps are equal lists. -/
def mset {α : Type} [DecidableEq α] (d : α) (m : SMap α) (k : Nat) (v : α) : SMap α :=
  if v = d then merase m k else mins k v m

/-- Change every listed value; those that become the default are dropped. -/
def mmap {α : Type} [DecidableEq α] (d : α) (f : Nat → α → α) (m : SMap α) : SMap α :=
  (m.map fun x => (x.1, f x.1 x.2)).filter fun x => x.2 != d

/-- The canonical form: keys strictly rising, no default listed. -/
def mwf {α : Type} [DecidableEq α] (d : α) : SMap α → Bool
  | [] => true
  | (_, v) :: [] => v != d
  | (k, v) :: (k', v') :: r => v != d && decide (k < k') && mwf d ((k', v') :: r)

/-- Memory in canonical form: addresses strictly rising, no zero byte listed. -/
abbrev Memory.wf (m : Mem) : Prop := mwf (0 : Byte) m = true

/-! ### Outcomes and accessors -/

/-- What exec answers. -/
abbrev Out := Host.Outcome State Fault Refusal

/-- A command whose occasion does not hold changes nothing (log 1). -/
def when (b : Bool) (f : State → State) (s : State) : Out := .next (if b then f s else s)

/-- Cluster c. -/
def clu (s : State) (c : Nat) : Cluster := mget {} s.clus c

/-- Change cluster c. -/
def modClu (c : Nat) (f : Cluster → Cluster) (s : State) : State :=
  { s with clus := mset {} s.clus c (f (clu s c)) }

/-- Waiting pushes enter the dense, vector and update queues of 16 jobs as entries free, in list order (R193, R260). -/
def Cluster.refill (q : Cluster) : Cluster :=
  { q with
    dq := q.dq ++ q.dw.take (16 - q.dq.length), dw := q.dw.drop (16 - q.dq.length)
    vq := q.vq ++ q.vw.take (16 - q.vq.length), vw := q.vw.drop (16 - q.vq.length)
    uj := q.uj ++ q.uw.take (16 - q.uj.length), uw := q.uw.drop (16 - q.uj.length) }

/-- The task's dense, vector and update jobs are dropped from the queues (R197, R260). -/
def Cluster.dropJobs (t : Nat) (q : Cluster) : Cluster :=
  let f (l : List EJob) : List EJob := l.filter fun j => j.task != t
  Cluster.refill { q with dq := f q.dq, vq := f q.vq, dw := f q.dw, vw := f q.vw, uj := f q.uj, uw := f q.uw }

/-- Cell k of cluster c. -/
def cellOf (s : State) (c k : Nat) : Cell := mget {} s.cells (32 * c + k)

/-- Change a cell. -/
def modCell (c k : Nat) (f : Cell → Cell) (s : State) : State :=
  { s with cells := mset {} s.cells (32 * c + k) (f (cellOf s c k)) }

/-- Context x of a cell. -/
def Cell.ctxOf (v : Cell) (x : Nat) : Ctx := mget {} v.ctx x

/-- Change context x of a cell. -/
def Cell.modCtx (x : Nat) (f : Ctx → Ctx) (v : Cell) : Cell := { v with ctx := mset {} v.ctx x (f (v.ctxOf x)) }

/-- Context x of cell k of cluster c. -/
def ctxOf (s : State) (c k x : Nat) : Ctx := (cellOf s c k).ctxOf x

/-- Change a context. -/
def modCtx (c k x : Nat) (f : Ctx → Ctx) (s : State) : State := modCell c k (Cell.modCtx x f) s

/-- Partition p. -/
def part (s : State) (p : Nat) : Part := mget {} s.parts p

/-- Change partition p. -/
def modPart (p : Nat) (f : Part → Part) (s : State) : State :=
  { s with parts := mset {} s.parts p (f (part s p)) }

/-- Task t. -/
def taskOf (s : State) (t : Nat) : Task := mget {} s.tasks t

/-- Change task t. -/
def modTask (t : Nat) (f : Task → Task) (s : State) : State :=
  { s with tasks := mset {} s.tasks t (f (taskOf s t)) }

/-- Request r. -/
def reqOf (s : State) (r : Nat) : Req := mget {} s.reqs r

/-- Change request r. -/
def modReq (r : Nat) (f : Req → Req) (s : State) : State :=
  { s with reqs := mset {} s.reqs r (f (reqOf s r)) }

/-- Bank b (0 to 575) of cluster c (R297). -/
def bankOf (s : State) (c b : Nat) : Bank := mget {} s.banks (576 * c + b)

/-- Change a bank. -/
def modBank (c b : Nat) (f : Bank → Bank) (s : State) : State :=
  { s with banks := mset {} s.banks (576 * c + b) (f (bankOf s c b)) }

/-- Network queue q. -/
def netqOf (s : State) (q : Nat) : NetQ := mget {} s.netq q

/-- Change a network queue. -/
def modNetq (q : Nat) (f : NetQ → NetQ) (s : State) : State := { s with netq := mset {} s.netq q (f (netqOf s q)) }

/-- The clusters bound to a partition, ascending. -/
def clustersOf (s : State) (p : Nat) : List Nat := (upto 96).filter fun c => (clu s c).part == some p

/-- The logical cluster of instance n of a partition in the numbering in effect; none when none is bound (R413). -/
def instOf (s : State) (p n : Nat) : Option Nat :=
  ((part s p).insts[n]?).filter fun c => (clu s c).part == some p

/-! ### Registers -/

/-- A partition register's value; the reset value of those that do not reset to 0. -/
def partReset (o : Nat) : Nat :=
  if o = Reg.BNK_WIN_BASE then 0x1000_0000_0000
  else if o = Reg.QNT_RM_WAIT then 100
  else if o = Reg.TBL_REMOTE_WAIT then 200
  else if o = Reg.STR_HALT_LIMIT then 4
  else if o = Reg.STR_BAR_WAIT then 100
  else if o = Reg.DSP_QMAX then 4096
  else if o = Reg.DSP_HOLD then 50
  else if o = Reg.PWR_RESV then 4
  else if o = Reg.PWR_STATE_CFG then 200

  else 0

/-- Partition register at offset o. -/
def preg (s : State) (p o : Nat) : Nat := mget (partReset o) (part s p).regs o

/-- Write a partition register. -/
def setPreg (p o v : Nat) (s : State) : State :=
  modPart p (fun q => { q with regs := mset (partReset o) q.regs o v }) s

/-- Cluster register's reset value. -/
def cluReset (o : Nat) : Nat :=
  if o = Reg.STR_LEAD ∨ o = Reg.STR_LEAD + 0x200 then 4096
  else if o = Reg.STR_MIN_SLACK ∨ o = Reg.STR_MIN_SLACK + 0x200 then 0x7FFF_FFFF
  else if o = Reg.PWR_CLK then 48 + 48 * 2 ^ 8 + 48 * 2 ^ 14

  else 0

/-- Cluster register. -/
def creg (s : State) (c o : Nat) : Nat := mget (cluReset o) (clu s c).regs o

/-- Write a cluster register. -/
def setCreg (c o v : Nat) (s : State) : State :=
  modClu c (fun q => { q with regs := mset (cluReset o) q.regs o v }) s

/-- Add to a 32-bit saturating count that stands at bit lo of a register word. -/
def bump32 (lo n w : Nat) : Nat :=
  let f := bits w (lo + 31) lo
  w - f * 2 ^ lo + satAdd 32 f n * 2 ^ lo

/-- Add n to the 32-bit field at bit lo of a cluster register. -/
def bumpC (c o lo n : Nat) (s : State) : State := setCreg c o (bump32 lo n (creg s c o)) s

/-- Add n to the 32-bit field at bit lo of a partition register. -/
def bumpP (p o lo n : Nat) (s : State) : State := setPreg p o (bump32 lo n (preg s p o)) s

/-- Set bit b of a register word. -/
def orBit (w b : Nat) : Nat := if bitAt w b then w else w + 2 ^ b

/-- Set an error bit of a partition register. -/
def flagP (p o b : Nat) (s : State) : State := setPreg p o (orBit (preg s p o) b) s

/-- Set an error bit of a cluster register. -/
def flagC (c o b : Nat) (s : State) : State := setCreg c o (orBit (creg s c o) b) s

/-! ### Islands and time (R27, R29) -/

/-- Physical slot of a logical cluster on its die (R24). -/
def sluSlot (s : State) (c : Nat) : Nat := if (clu s c).slot = 0 then c % 12 else (clu s c).slot - 1

/-- Physical slot of a logical cell in its cluster (R24). -/
def cellSlotOf (s : State) (c k : Nat) : Nat :=
  let v := mget 0 (clu s c).cellSlot k
  if v = 0 then k else v - 1

/-- Island of a cell (Table 1.6). -/
def cellIsland (s : State) (c k : Nat) : Nat := 4096 * (c / 12) + 64 * sluSlot s c + cellSlotOf s c k

/-- Cluster compute island (Table 1.6). -/
def cmpIsland (s : State) (c : Nat) : Nat := 4096 * (c / 12) + 64 * sluSlot s c + 0x30

/-- Control core island of I/O die d (Table 1.6). -/
def coreIsland (d : Nat) : Nat := 4096 * (8 + d)

/-- HBM stacks of the module (Table 0.1). -/
def nStacks (s : State) : Nat :=
  match s.variant with
  | .v16x4 | .v16x2 => 16
  | .v12x4 => 12
  | .v8x2 => 8

/-- I/O dies of the module (Table 0.1). -/
def nIoDies (s : State) : Nat :=
  match s.variant with
  | .v16x4 | .v12x4 => 4
  | .v16x2 | .v8x2 => 2

/-- Ports of a kind on each I/O die. -/
def perDie (s : State) : Nat := 4 / nIoDies s

/-- I/O die that carries host, Ethernet and bulk port q (Table 1.2). -/
def dieOf (s : State) (q : Nat) : Nat := q / perDie s

/-- Island of port q, by base: 0x10 host, 0x20 Ethernet, 0x30 bulk (R20, Table 1.6). -/
def portIsland (s : State) (base q : Nat) : Nat := coreIsland (dieOf s q) + base + q % perDie s

/-- Cycles since the rails last came up of an island whose clock is fixed, at n cycles in a tick of 40 ns (R26, R27). -/
def fixedCycles (s : State) (n : Nat) : Nat := (n * (s.now - s.upAt)) % 2 ^ 64

/-- Counter of a 2.0 GHz island. -/
def coreCycles (s : State) : Nat := fixedCycles s 80

/-- A cluster's cells run: it is neither in brumation nor OFF (R362). -/
def awake (s : State) (c : Nat) : Bool := (clu s c).pw == .on

/-- Cycle count of a cluster's islands since their last start: `base` counted at tick `since`; it is held in brumation
(R27). -/
def runCycles (base since now mhz : Nat) (counts : Bool) : Nat :=
  (base + if counts then (now - since) * mhz / 25 else 0) % 2 ^ 64

/-- The cell islands' counter (R27). -/
def cellCycles (s : State) (c : Nat) : Nat :=
  let q := clu s c
  runCycles q.cycCell (max q.cycAt s.upAt) s.now q.cellMHz (awake s c)

/-- The cluster compute island's counter (R27). -/
def cmpCycles (s : State) (c : Nat) : Nat :=
  let q := clu s c
  runCycles q.cycCmp (max q.cycAt s.upAt) s.now q.cmpMHz (awake s c)

/-- The logical cluster in a slot of a LUT die (R24). -/
def cluAtSlot (s : State) (die slot : Nat) : Option Nat := (upto 96).find? fun c => c / 12 == die && sluSlot s c == slot

/-- An island of a LUT die: cell and compute islands at their cluster's clocks, an eft's at the nominal 1.6 GHz, networks at
1.2 GHz. The clock of an HBM controller is set by the memory interface: its count is a free value (Table 1.5; log 66). -/
def lutIslandCycles (s : State) (isl : Nat) : Nat :=
  let slot := isl / 64 % 64
  let unit := isl % 64
  if slot = 0x3F then (if unit = 0 then fixedCycles s 48 else Config.islandCount isl (s.now - s.upAt) % 2 ^ 64)
  else if unit = 0x31 then fixedCycles s 48
  else match cluAtSlot s (isl / 4096) slot with
    | none => fixedCycles s 64
    | some c => if unit = 0x30 then cmpCycles s c else cellCycles s c

/-- An island of an I/O die: control core and management complex at 2.0 GHz, die network at 1.2 GHz, I/O stream block at
1.6 GHz. The clock of a port or a fabric link is set by the link: its count is a free value (Table 1.5; log 66). -/
def ioIslandCycles (s : State) (isl : Nat) : Nat :=
  let u := isl % 4096
  if u ≤ 1 then fixedCycles s 80
  else if u = 0xF0 then fixedCycles s 48
  else if u = 0xF1 then fixedCycles s 64
  else Config.islandCount isl (s.now - s.upAt) % 2 ^ 64

/-- The 64-bit cycle counter of an island, by its number (R26, R27, R29). -/
def islandCycles (s : State) (isl : Nat) : Nat :=
  if isl < 4096 * 8 then lutIslandCycles s isl else ioIslandCycles s isl

/-- What a record carries of the counter of an island: its low 48 bits (Tables 11.7 and 15.2). -/
def recCycles (s : State) (isl : Nat) : Nat := islandCycles s isl % 2 ^ 48

/-! ### Free values and stochastic rounding -/

/-- Take a free number (log 4). -/
def takeFree (s : State) : Nat × State := (Config.freeNat s.fresh, { s with fresh := s.fresh + 1 })

/-- One step of a generator (R214). -/
def lfsrStep (s : Nat) : Nat :=
  if s % 2 = 1 then Nat.xor (s / 2) 0xA000_0014_0000_0000_0000_0000_0000_0000 else s / 2

/-- n steps. -/
def lfsrSteps : Nat → Nat → Nat
  | 0, s => s
  | n + 1, s => lfsrSteps n (lfsrStep s)

/-- A draw: 16 steps, the low 16 bits of the new state (R214). -/
def lfsrDraw (s : Nat) : Nat × Nat := (lfsrSteps 16 s % 65536, lfsrSteps 16 s)

/-- State a as a residue, multiplied by the residue of b: the state reached from a by the steps b stands for.
A state is read with bit 127 as the constant term, so that one step is multiplication by x. -/
def gfMul (a b : Nat) : Nat :=
  ((upto 128).foldl (fun (st : Nat × Nat) i =>
    (if bitAt b (127 - i) then Nat.xor st.1 st.2 else st.1, lfsrStep st.2)) (0, a)).1

/-- The residue of 2^n steps, by repeated squaring. -/
def gfPow2 : Nat → Nat
  | 0 => 2 ^ 126
  | n + 1 => let h := gfPow2 n; gfMul h h

/-- The residue of n * 2^80 steps, n given by its low w bits. -/
def gfSeg : Nat → Nat → Nat → Nat
  | 0, _, _ => 2 ^ 127
  | w + 1, b, n => let r := gfSeg w (gfMul b b) (n / 2); if n % 2 = 1 then gfMul r b else r

/-- The state at which segment n begins: n * 2^80 steps from the state 0x1 (R215). -/
def segState (n : Nat) : Nat := gfMul 1 (gfSeg 48 (gfPow2 80) n)

/-- Segment number of lane i of engine e (Table 6.11). -/
def segNum (module gen e i : Nat) : Nat := module * 2 ^ 42 + e * 2 ^ 33 + i * 2 ^ 26 + gen % 2 ^ 26

/-- Management register's reset value. -/
def devReset (o : Nat) : Nat :=
  if o = Reg.LNK_DOMAIN then 2 ^ 32 + 2 ^ 36
  else if o = Reg.LNK_POLICY then 1 + 4 + 2 * 8 + 64 + 256 + 16 * 65536
  else if 0x10000 ≤ o ∧ o < 0x11000 ∧ o % 256 = 8 then 3 * 8
  else if 0x20000 ≤ o ∧ o < 0x24000 ∧ o % 4096 = 0x18 then 1500 + 0x4158 * 2 ^ 32
  else if 0x20000 ≤ o ∧ o < 0x24000 ∧ o % 4096 = 0x38 then 1000
  else if o = Reg.PWR_DEV_CAP then 3000
  else if o = Reg.PWR_THERM then 95 + 105 * 256
  else if o = Reg.PWR_CLK_MAX then 48
  else if o = Reg.PMAP_DRAIN then 1000
  else if 0x900 ≤ o ∧ o < 0x920 then 2 + 36 * 256
  else if o = Reg.ERR_POLICY then 1 + 64 * 2 ^ 8 + 2 * 2 ^ 16 + 8 * 2 ^ 20

  else 0

/-- Register of management BAR0 at an offset. -/
def dreg (s : State) (o : Nat) : Nat := mget (devReset o) s.dregs o

/-- Write a register of management BAR0. -/
def setDreg (o v : Nat) (s : State) : State := { s with dregs := mset (devReset o) s.dregs o v }

/-- Set an error bit of a management register. -/
def flagD (o b : Nat) (s : State) : State := setDreg o (orBit (dreg s o) b) s

/-- Add to a 32-bit field of a management register. -/
def bumpD (o lo n : Nat) (s : State) : State := setDreg o (bump32 lo n (dreg s o)) s

/-- The module index 8 Y + X; 0 outside any domain (R439). -/
def moduleIndex (s : State) : Nat :=
  let d := dreg s Reg.LNK_DOMAIN
  if bits d 35 32 = 1 ∧ bits d 39 36 = 1 then 0 else 8 * bits d 45 43 + bits d 42 40

/-- One draw of lane i of engine e (R213, R214). -/
def draw (e i : Nat) (s : State) : Nat × State :=
  let v := mget 0 s.srLane (128 * e + i)
  let v := if v = 0 then segState (segNum (moduleIndex s) (mget 0 s.srGen e) e i) else v
  let r := lfsrDraw v
  (r.1, { s with srLane := mset 0 s.srLane (128 * e + i) r.2 })

/-- Reapply an engine's seeds with its generation increased by 1 (R217). -/
def reseed (e : Nat) (s : State) : State :=
  { s with srGen := mset 0 s.srGen e ((mget 0 s.srGen e + 1) % 2 ^ 26)
           srLane := s.srLane.filter fun p => p.1 / 128 != e }

/-- Reapply the seeds of the three engines of a cluster (Table 6.10, R217). -/
def reseedClu (c : Nat) (s : State) : State :=
  reseed (192 + c) (reseed (96 + c) (reseed c (modClu c (fun q => { q with reseedDue := false }) s)))

/-- A partition's map entry fails its complement (R408). -/
def Part.mapBad (q : Part) : Bool := q.mapFlip != 0

/-! ### Addresses (R268 to R273) -/

/-- Key of a byte of logical HBM channel ch. -/
def hbmKey (ch a : Nat) : Nat := 2 ^ 50 + ch * 2 ^ 31 + a

/-- Key of a byte of a bulk port's expander. -/
def bulkKey (port a : Nat) : Nat := 2 ^ 51 + port * 2 ^ 41 + a

/-- Key of a byte of host memory: the partition's function, or 16 + port for a management function. -/
def hostKey (fn a : Nat) : Nat := 2 ^ 52 + fn * 2 ^ 47 + a % 2 ^ 47

/-- Channel and address of an offset of a partition's HBM space (R271). -/
def hbmLoc : List Extent → Nat → Option (Nat × Nat)
  | [], _ => none
  | e :: r, x =>
    let size := e.n * (e.hi - e.lo) * 2 ^ 26
    if x < size then
      let g := x / 256
      some (e.first + g % e.n, e.lo * 2 ^ 26 + g / e.n * 256 + x % 256)
    else hbmLoc r (x - size)

/-- The ports of a port set, ascending. -/
def portsOf (m : Nat) : List Nat := (upto 4).filter fun i => bitAt m i

/-- Port and address of an offset of a partition's bulk space (R272). -/
def bulkLoc : List Extent → Nat → Option (Nat × Nat)
  | [], _ => none
  | e :: r, x =>
    let ps := portsOf e.ports
    let size := ps.length * (e.hi - e.lo) * 2 ^ 30
    if x < size then
      let g := x / 4096
      some (ps.getD (g % ps.length) 0, e.lo * 2 ^ 30 + g / ps.length * 4096 + x % 4096)
    else bulkLoc r (x - size)

/-- An address in the bulk tier whose expander is out of service, or whose unit is withdrawn (R320, Table 14.2). -/
def bulkDown (s : State) (p a : Nat) : Bool :=
  bits a 47 44 == 2 && match bulkLoc (part s p).bulk (a % 2 ^ 44) with
    | some (q, x) => bitAt s.bulkOut q || s.bulkWd.contains (2048 * q + x / 2 ^ 30)
    | none => false

/-- A local address taken apart (Table 8.3): cluster and bank entry b of R297; none when a reserved bit is set
or the cluster or cell does not exist for the partition (R269). -/
def localLoc (s : State) (p a : Nat) : Option (Nat × Nat) :=
  let c := bits a 36 30
  let k := bits a 28 24
  if bits a 43 37 ≠ 0 ∨ 96 ≤ c ∨ (clu s c).part ≠ some p then none
  else if bitAt a 29 then
    if bits a 23 20 ≠ 0 ∨ (clu s c).ncell ≤ k then none else some (c, 64 + 16 * k + bits a 19 16)
  else if k ≠ 0 then none else some (c, bits a 23 18)

/-- The owner code of a domain (Table 8.5). -/
def ownCell (k : Nat) : Nat := 1 + 16 * k
def ownStr (e : Nat) : Nat := 2 + 16 * e
def ownUpd : Nat := 3
def ownVec : Nat := 4
def ownHost : Nat := 5

/-- The domain a master's accesses belong to in cluster c; none when the master has no banks there (R275). -/
def domainIn (m : Master) (c : Nat) : Option Nat :=
  match m with
  | .cell c' k => if c = c' then some (ownCell k) else none
  | .str c' e => if c = c' then some (ownStr e) else none
  | .upd c' => if c = c' then some ownUpd else none
  | .vec c' => if c = c' then some ownVec else none
  | .host _ => some ownHost
  | _ => none

/-- Regions a master may reach (Table 8.4): 0 local, 1 HBM, 2 bulk, 3 host. -/
def mayReach (m : Master) (r : Nat) : Bool :=
  match m with
  | .cell _ _ => r == 0
  | .str _ _ => true
  | .upd _ => r ≤ 2
  | .vec _ => r == 0
  | .host _ => r ≤ 2
  | .netq _ => r == 1 || r == 2
  | .io _ => r != 0
  | .fw => true

/-- The region of a partition address (Table 8.2); none for a reserved one. -/
def regionOf (a : Nat) : Option Nat :=
  let r := bits a 47 44
  if r = 0 then some 0 else if r = 1 then some 1 else if r = 2 then some 2 else if 8 ≤ r then some 3 else none

/-- Result of checking one access (R273, R275, R279). -/
inductive Chk where
  | ok (key : Nat)
  | window
  | owner
  | ownerN
  deriving DecidableEq, Repr

/-- The violation of an access to an address that names no bank or memory for its master: of the window (R273), but of the
owner by the vector engine and its sub-requesters (R191, log 73). -/
def noWindow : Master → Chk
  | .vec _ => .owner
  | _ => .window

/-- Check one byte's access by a master of a partition; `dom` is the domain a stream descriptor acts for (R282). -/
def chk (s : State) (m : Master) (p : Nat) (dom : Option Nat) (a : Nat) : Chk :=
  match regionOf a with
  | none => noWindow m
  | some r =>
    if !mayReach m r then noWindow m
    else match r with
      | 0 =>
        match localLoc s p a with
        | none => noWindow m
        | some (c, b) =>
          let own := bankOf s c b
          let foreign : Bool := match m with | .cell c' _ => c != c' | _ => false
          if m = .fw then .ok (a % 2 ^ 37)
          else if foreign then noWindow m
          else if !complOk 16 own.code own.codeN then .ownerN
          else match domainIn m c with
            | none => .owner
            | some d => if own.code = dom.getD d then .ok (a % 2 ^ 37) else .owner
      | 1 => match hbmLoc (part s p).hbm (a % 2 ^ 44) with
        | none => noWindow m
        | some (ch, x) => .ok (hbmKey ch x)
      | 2 => match bulkLoc (part s p).bulk (a % 2 ^ 44) with
        | none => noWindow m
        | some (q, x) => .ok (bulkKey q x)
      | _ => .ok (hostKey p a)

/-! ### Bytes, staging registers and error correction -/

/-- First key of the error-correction word that holds a key (Table 8.1, Table 8.9). -/
def wordKey (k : Nat) : Nat :=
  if k < 2 ^ 37 then (if bitAt k 29 then k - k % 32 else k - k % 64) else k - k % 64

/-- Bytes of that word. -/
def wordSize (k : Nat) : Nat := if k < 2 ^ 37 ∧ bitAt k 29 then 32 else 64

/-- Cluster and bank of a local key. -/
def bankOfKey (k : Nat) : Nat × Nat :=
  (bits k 36 30, if bitAt k 29 then 64 + 16 * bits k 28 24 + bits k 19 16 else bits k 23 18)

/-- The byte a staging register holds for a key, the newest entry first (R285). -/
def stagedByte : List Staged → Nat → Option Byte
  | [], _ => none
  | e :: r, k =>
    match stagedByte r k with
    | some b => some b
    | none => (e.data.find? fun p => p.1 == k).map fun p => p.2

/-- The byte an access of the present cycle reads: staged bytes are merged (R285). -/
def peek (s : State) (k : Nat) : Byte :=
  let raw := mget 0 s.mem k
  if k < 2 ^ 37 then
    let cb := bankOfKey k
    ((stagedByte (bankOf s cb.1 cb.2).staged k).getD raw)
  else raw

/-- Write one byte of the arrays. -/
def poke (k : Nat) (b : Byte) (s : State) : State := { s with mem := mset 0 s.mem k b }

/-- Write bytes from a key on. -/
def pokes (k : Nat) : List Byte → State → State
  | [], s => s
  | b :: r, s => pokes (k + 1) r (poke k b s)

/-- n bytes from a key on. -/
def peeks (s : State) (k n : Nat) : List Byte := (upto n).map fun i => peek s (k + i)

/-- State and error monad of an operation that a Stop may end. -/
abbrev EM := EStateM Stop State

/-- The memory kind of a key: 0 bank, 1 HBM, 2 bulk, 3 other (BNK_LAST_UE.MEM, Table 8.12). -/
def memKind (k : Nat) : Nat := if k < 2 ^ 37 then 0 else if k < 2 ^ 51 then 1 else if k < 2 ^ 52 then 2 else 3

/-- Count a corrected error of a word and clear it (R291). -/
def countCorr (p k : Nat) (s : State) : State :=
  let s := { s with ecc := merase s.ecc (wordKey k), ceLog := s.ceLog ++ [(wordKey k, s.now)] }
  match memKind k with
  | 0 => bumpC (bankOfKey k).1 Reg.BNK_SRAM_ECC 0 1 s
  | 1 => bumpP p Reg.BNK_HBM_ECC 0 1 s
  | _ => s

/-- The words a list of keys touches, each once and in order. -/
def wordsOf (ks : List Nat) : List Nat := (ks.map wordKey).eraseDups

/-- Key of a word of a cell's own SRAM: kind 0 a program word, 1 a table slot, 2 an accumulator, 3 an open block of the reorder unit, by
its place, 4 an entry of the row queue, by its place (Table 8.9). -/
def sramKey (kind c k i : Nat) : Nat := 2 ^ 53 + kind * 2 ^ 40 + (32 * c + k) * 2 ^ 20 + i

/-- A list of keys covers the whole word that starts at key w. -/
def covers (ks : List Nat) (w : Nat) : Bool := (upto (wordSize w)).all fun i => ks.contains (w + i)

/-- What a write does to the error of one of its words: a write of the whole word makes it good, a partial one reads the word
first, which corrects it; the bulk tier's lines are the expander's (R291, R292). -/
def fixWord (p : Nat) (ks : List Nat) (s : State) (w : Nat) : State :=
  if mget 0 s.ecc w = 0 then s
  else if covers ks w then { s with ecc := merase s.ecc w }
  else if memKind w = 2 then s
  else countCorr p w s

/-- An armed injection strikes a word that has just been written (R517). -/
def injectWords (ws : List Nat) (s : State) : State :=
  ws.foldl (fun s w =>
    let l := mget 0 s.inj w
    if l = 0 then s else { s with inj := merase s.inj w, ecc := mset 0 s.ecc w l }) s

/-- A staged entry drains into the array: a commit of the whole word makes it good, a partial one reads the word first, which
corrects it or finds it uncorrectable, and then the entry is not written (R267, R284, R291). -/
def drainEntry (e : Staged) (s : State) : State :=
  let ks := e.data.map fun p => p.1
  if mget 0 s.ecc e.word = 2 ∧ !covers ks e.word then s
  else injectWords [e.word] (e.data.foldl (fun s p => poke p.1 p.2 s) (fixWord 0 ks s e.word))

/-- Drain every staged entry of one word as forced drains (R285). -/
def drainWord (k : Nat) (s : State) : State :=
  let cb := bankOfKey k
  let st := (bankOf s cb.1 cb.2).staged
  let mine := st.filter fun e => e.word == wordKey k
  if mine.isEmpty then s
  else
    let s := mine.foldl (fun s e => drainEntry e s) s
    bumpC cb.1 Reg.BNK_COLLIDE 32 mine.length
      (modBank cb.1 cb.2 (fun b => { b with staged := b.staged.filter fun e => e.word != wordKey k }) s)

/-- Drain a whole staging register (Table 8.8). -/
def drainBank (c b : Nat) (s : State) : State :=
  let st := (bankOf s c b).staged
  if st.isEmpty then s
  else modBank c b (fun x => { x with staged := [] }) (st.foldl (fun s e => drainEntry e s) s)

/-- Count an uncorrectable read and latch its address (R291, R292). -/
def countUnc (p a k : Nat) (s : State) : State :=
  let s := { s with ueLog := s.ueLog ++ [(wordKey k, s.now)] }
  let s := match memKind k with
    | 0 => bumpC (bankOfKey k).1 Reg.BNK_SRAM_ECC 32 1 s
    | 1 => bumpP p Reg.BNK_HBM_ECC 32 1 s
    | _ => bumpP p Reg.BNK_BULK_ERR 0 1 s
  setPreg p Reg.BNK_LAST_UE (a % 2 ^ 48 + memKind k * 2 ^ 48) s

/-- 24 h in ticks of 40 ns (R496). -/
def day : Nat := 2160000000000

/-- The unit that holds a key, for the limits of Table 15.5: a cell or a cluster's store, an HBM channel or a bulk GiB. -/
def limitUnit (k : Nat) : Nat :=
  if k < 2 ^ 37 then (if bitAt k 29 then 2 ^ 20 + 32 * bits k 36 30 + bits k 28 24 else bits k 36 30)
  else if k < 2 ^ 51 then 2 ^ 21 + (k - 2 ^ 50) / 2 ^ 31
  else 2 ^ 22 + k / 2 ^ 30

/-- A value that only the device writes fails its complement: a second one in the same unit within 24 h counts as an
uncorrectable error (R494). -/
def noteCompl (k : Nat) (s : State) : State :=
  let again : Bool := s.complLog.any fun x => limitUnit x.1 == limitUnit k && decide (s.now < x.2 + day)
  { s with complLog := s.complLog ++ [(k, s.now)], ueLog := if again then s.ueLog ++ [(k, s.now)] else s.ueLog }

/-- The same for a value at a partition address. -/
def noteComplAt (p a : Nat) (s : State) : State :=
  match chk s .fw p none a with
  | .ok k => noteCompl k s
  | _ => s

/-- Check an access byte by byte: its keys, or the first violation (R271, R273). -/
def keysOf (m : Master) (p : Nat) (dom : Option Nat) : Nat → Nat → EM (List Nat)
  | _, 0 => pure []
  | a, n + 1 => do
    let s ← get
    match chk s m p dom a with
    | .ok k => do
      let r ← keysOf m p dom (a + 1) n
      pure (k :: r)
    | .window => throw (.viol 0 a)
    | .owner => throw (.viol 1 a)
    | .ownerN => do
      modify fun s => noteCompl (a % 2 ^ 37) (flagP p Reg.BNK_ERR 3 s)
      throw (.fail 0x0D 0x08_0001 (some a))

/-- Error correction on the words of a read: corrected words are counted and cleared, an uncorrectable
one stops the read (R291, R292). -/
def eccRead (p : Nat) : Nat → List Nat → EM Unit
  | _, [] => pure ()
  | a, k :: r => do
    let s ← get
    let e := mget 0 s.ecc (wordKey k)
    if e = 2 then do
      modify (countUnc p a k)
      throw (.unc a (memKind k) false)
    else do
      if e = 1 then modify (countCorr p k) else pure ()
      eccRead p (a + 1) r

/-- Bytes of the granule that an address lies in: a bank's word, or the piece of an HBM or bulk space that one channel or port
holds; host memory is not split (R266, R271, R272). -/
def granule (a : Nat) : Nat :=
  match regionOf a with
  | some 0 => if bitAt a 29 then 32 else 64
  | some 1 => 256
  | some 2 => 4096
  | _ => 2 ^ 47

/-- An access is split where it crosses from one granule to the next: the parts' addresses and lengths. -/
def partsOf : Nat → Nat → Nat → List (Nat × Nat)
  | 0, a, n => [(a, n)]
  | f + 1, a, n =>
    let m := granule a - a % granule a
    if n ≤ m then [(a, n)] else (a, m) :: partsOf f (a + m) (n - m)

/-- Perform every part of an access, each on its own; the access ends as its first failing part says (R271). -/
def eachPart : List (EM (List Byte)) → EM (List Byte)
  | [] => pure []
  | m :: r => fun s =>
    match m s with
    | .ok l s => (match eachPart r s with | .ok l' s => .ok (l ++ l') s | .error e s => .error e s)
    | .error e s => (match eachPart r s with | .ok _ s => .error e s | .error _ s => .error e s)

/-! ### Translation (R369) -/

/-- The host has set ATS Enable for a partition's VF. -/
def atsOn (s : State) (p : Nat) : Bool :=
  let q := part s p
  decide (1 ≤ q.vf) && bitAt (mget {} s.hostCfg q.port).ats (q.vf - 1)

/-- The host has set PRI Enable too: an absent page is a mapping fault (R370). -/
def priOn (s : State) (p : Nat) : Bool :=
  let q := part s p
  atsOn s p && bitAt (mget {} s.hostCfg q.port).pri (q.vf - 1)

/-- A Translation Request for a page, whose translation takes an entry of its port's cache, 4,096 in all; which entry gives way is
free (log 84). -/
def loadXlat (x : Xlat) (s : State) : State :=
  let l := s.atc.filter fun y => y.port == x.port
  let r := takeFree s
  let out := if l.length < 4096 then s else { r.2 with atc := s.atc.erase (l.getD (r.1 % l.length) x) }
  { out with atc := out.atc ++ [x], sent := out.sent ++ [(15, [x.port, x.vf, x.page])] }

/-- An access of n bytes at host address a goes out for a partition: with ATS Enable set, each page that its port's cache does not
hold is translated first (R369). -/
def translate (p a n : Nat) (s : State) : State :=
  if regionOf a ≠ some 3 ∨ n = 0 ∨ !atsOn s p then s
  else
    let q := part s p
    let g := a % 2 ^ 47 / 4096
    (upto ((a % 4096 + n - 1) / 4096 + 1)).foldl (fun s i =>
      let x : Xlat := { port := q.port, vf := q.vf, page := g + i }
      if s.atc.contains x then s else loadXlat x s) s

/-- An access of an I/O stream engine to the bulk tier out of service is a mapping fault of what it serves (R320, R332). -/
def ioMapped (m : Master) (p a : Nat) : EM Unit := do
  let s ← get
  match m with
  | .io _ => if bulkDown s p a then throw (.fail 0x04 0x09_0007 (some a)) else pure ()
  | _ => pure ()

/-- Read n bytes within one granule. -/
def rdPart (m : Master) (p : Nat) (dom : Option Nat) (a n : Nat) : EM (List Byte) := do
  let ks ← keysOf m p dom a n
  ioMapped m p a
  modify (translate p a n)
  eccRead p a ks
  let s ← get
  pure (ks.map (peek s))

/-- Read n bytes at a partition address. -/
def rd (m : Master) (p : Nat) (dom : Option Nat) (a n : Nat) : EM (List Byte) :=
  eachPart ((partsOf n a n).map fun q => rdPart m p dom q.1 q.2)

/-- Read n bytes as a little-endian number (R5). -/
def rdN (m : Master) (p : Nat) (dom : Option Nat) (a n : Nat) : EM Nat := do
  let l ← rd m p dom a n
  pure (leNat l)

/-- Error correction on the words of a write: a partial write of an uncorrectable word is not performed (R291); the bulk
tier performs every write (R292). -/
def eccWrite (p a : Nat) (ks ws : List Nat) : EM Unit := do
  let s ← get
  match ws.find? fun w => mget 0 s.ecc w == 2 && !covers ks w && memKind w != 2 with
  | some w => do
    let a := a + ks.findIdx fun k => wordKey k == w
    modify (countUnc p a w)
    throw (.unc a (memKind w) true)
  | none => modify fun s => ws.foldl (fixWord p ks) s

/-- Write bytes within one granule. -/
def wrPart (m : Master) (p : Nat) (dom : Option Nat) (a : Nat) (l : List Byte) : EM (List Byte) := do
  let ks ← keysOf m p dom a l.length
  ioMapped m p a
  modify (translate p a l.length)
  eccWrite p a ks (wordsOf ks)
  modify fun s =>
    let s := (wordsOf ks).foldl (fun s w => if w < 2 ^ 37 then drainWord w s else s) s
    let s := (ks.zip l).foldl (fun s q => poke q.1 q.2 s) s
    injectWords (wordsOf ks) s
  pure []

/-- Write bytes at a partition address. -/
def wr (m : Master) (p : Nat) (dom : Option Nat) (a : Nat) (l : List Byte) : EM Unit := do
  let _ ← eachPart ((partsOf l.length a l.length).map fun q => wrPart m p dom q.1 ((l.drop (q.1 - a)).take q.2))
  pure ()

/-- Read the operand of an atomic: one on an uncorrectable word is not performed (R291). -/
def rdAtomic (m : Master) (p : Nat) (dom : Option Nat) (a n : Nat) : EM Nat := do
  let ks ← keysOf m p dom a n
  let s ← get
  if ks.any (fun k => mget 0 s.ecc (wordKey k) == 2) then do
    modify (countUnc p a (ks.headD 0))
    throw (.unc a (memKind (ks.headD 0)) true)
  else rdN m p dom a n

/-- Write a number as n little-endian bytes. -/
def wrN (m : Master) (p : Nat) (dom : Option Nat) (a n v : Nat) : EM Unit := wr m p dom a (leBytes n v)

/-- Result of an operation that a Stop may end. -/
inductive Res (α : Type) where
  | good (a : α) (s : State)
  | stop (e : Stop) (s : State)

/-- Run an operation. -/
def runEM {α : Type} (m : EM α) (s : State) : Res α :=
  match m s with
  | .ok a s' => .good a s'
  | .error e s' => .stop e s'

/-- The monad's own access to a pure state operation with a result. -/
def liftS {α : Type} (f : State → α × State) : EM α := fun s => .ok (f s).1 (f s).2

/-! ### Error latches and records -/

/-- Replace the latch of a unit in a list of latches. -/
def mapLatch (u : UnitId) (f : Latch → Latch) (l : List Latch) : List Latch :=
  l.map fun x => if x.unit = u then f x else x

/-- Merge an error into a pending latch (R489, R492). -/
def mergeLatch (e : ErrInfo) (l : Latch) : Latch :=
  let o := satAdd 8 l.ovf 1
  let e' := if l.err.sev < e.sev then e else l.err
  { l with ovf := o, err := if o = 255 ∧ e'.sev < 5 then { e' with sev := 5 } else e' }

/-- Capture an error in a unit's latch (R489). -/
def capture (u : UnitId) (e : ErrInfo) (s : State) : State :=
  if s.latches.any fun l => l.unit == u then { s with latches := mapLatch u (mergeLatch e) s.latches }
  else { s with latches := s.latches ++ [{ unit := u, err := e }] }

/-- An error record that firmware writes itself (R545). -/
def fwRecord (e : ErrInfo) (s : State) : State := { s with dueErr := s.dueErr ++ [e] }

/-- Severity of a status that ended an item (R484). -/
def sevOf (status : Nat) : Nat := if status = 0x09 ∨ status = 0x0D then 3 else if status = 0x07 then 4 else 2

/-- Class of a status that ended an item (R545). -/
def clsOf (status : Nat) : Nat := if status = 0x09 ∨ status = 0x0D then 0 else if status = 0x07 then 2 else 5

/-- Island of the HBM controller of a logical channel: the die that its stack attaches to, and its place there (R19, Table 1.6,
R270). -/
def hbmIsland (s : State) (ch : Nat) : Nat :=
  let k := ch / 32
  match s.variant with
  | .v16x4 | .v16x2 => 4096 * (k / 2) + 0xFC1 + k % 2
  | .v12x4 => if k < 8 then 4096 * (k / 2) + 0xFC1 + k % 2 else 4096 * (k - 4) + 0xFC1
  | .v8x2 => 4096 * k + 0xFC1

/-- AUX of a memory word's record: the island and number of its bank, or of its HBM channel (Table 15.3 MEMORY). -/
def memAux (s : State) (p a : Nat) : Nat :=
  match regionOf a with
  | some 0 =>
    let c := bits a 36 30
    if bitAt a 29 then cellIsland s c (bits a 28 24) + bits a 19 16 * 2 ^ 16
    else cmpIsland s c + bits a 23 18 * 2 ^ 16
  | some 1 =>
    match hbmLoc (part s p).hbm (a % 2 ^ 44) with
    | some (ch, _) => hbmIsland s ch + ch * 2 ^ 16
    | none => 0
  | _ => 0

/-- The memory that a partition address lies in, as BNK_LAST_UE.MEM gives it. -/
def memOf (a : Nat) : Nat :=
  match regionOf a with
  | some 1 => 1
  | some 2 => 2
  | _ => 0

/-- The error of an item that a fault ended, from its status, detail and, for a value held in memory, its address (R486,
R545). -/
def itemErr (s : State) (status detail p island : Nat) (addr : Option Nat) (tag seq : Nat) : ErrInfo :=
  let cls := clsOf status
  { sev := sevOf status, cls := cls, detail := detail, part := some p, island := island,
    cycles := recCycles s island, tag := tag, iseq := seq,
    subject := if cls = 5 then 1 else (addr.map fun a => a % 2 ^ 48 + memOf a * 2 ^ 48).getD 0,
    aux := if cls = 0 then (addr.map (memAux s p)).getD 0 else 0 }

/-- The value in memory that a Stop concerns, as its address and memory, where it is a fault of one. -/
def Stop.word : Stop → Option (Nat × Nat)
  | .viol _ _ => none
  | .fail _ _ a => a.map fun a => (a, memOf a)
  | .unc a mem _ => some (a, mem)

/-! ### Completion records -/

/-- A completion record that is due (R17, R380). -/
def addDue (d : Due) (s : State) : State := { s with due := s.due ++ [d] }

/-- A fault report to a task's dispatcher, for a cell program with its cell, context and program counter (R182). -/
def reportBy (src : Option (Nat × Nat × Nat)) (t status detail c : Nat) (s : State) : State :=
  { s with reports := s.reports ++ [{ task := t, status := status, detail := detail, clu := c, src := src }] }

/-- A fault report of an engine to a task's dispatcher (R182). -/
def report (t status detail c : Nat) (s : State) : State := reportBy none t status detail c s

end Sys2Proof.Machine
end

