-- ==== Sys2Proof/Machine/Lut.lean ====
section
/-!
DEFINITION. The arithmetic of the LUT engine (chapter 3): activation digits (R74), group tables (R75), weight planes
(R76, R77), product tables (R79), look-ups and skipping (R78, R80, R86), accumulators (R82, R83) and write-out values
(R85, R94, R131).
-/
namespace Sys2Proof.Machine

/-- MODE of a slot (Table 5.8): 0 SUBSET, 1 SIGNED, 2 PRODUCT. -/
def modeSubset : Nat := 0
def modeSigned : Nat := 1
def modeProduct : Nat := 2

/-- Digit d of an activation code (R41, R74): the top digit is signed and an escape enters as 0. -/
def digit (fm : Fmt) (code d : Nat) : Int :=
  if isEsc fm code then 0
  else match fm with
    | .i4 => sext 4 code
    | _ => if d = 0 then Int.ofNat (code % 16) else sext 4 (code / 16)

/-- Entry i of a group table over the four digits x (R75). -/
def groupEntry (signed : Bool) (x : Nat → Int) (i : Nat) : Int :=
  ((upto 4).map fun j =>
    if signed then (if bitAt i j then -(x j) else x j) else (if bitAt i j then x j else 0)).sum

/-- The 16 entries of a group table. -/
def groupTable (signed : Bool) (x : Nat → Int) : List Int := (upto 16).map (groupEntry signed x)

/-- v(c) of a product table (Table 3.6). -/
def prodVal (f : Fmt) (k : List Int) (c : Nat) : Int :=
  match f with
  | .c4 => k.getD c 0
  | _ => codeInt f c

/-- The 16 entries of a product slot for activation a (R79). -/
def prodTable (f : Fmt) (k : List Int) (a : Int) : List Int := (upto 16).map fun c => a * prodVal f k c

/-- Value of a whole activation, escapes as 0 (R41, R79). -/
def actVal (fm : Fmt) (code : Nat) : Int := codeInt fm code

/-- Weight planes of a group-mode format, plane 0 first: negative sign and shift of the plane weight (Table 3.5). -/
def planes : Fmt → List (Bool × Nat)
  | .b1 => [(false, 0)]
  | .t2 => [(false, 0), (true, 0)]
  | .i2 => [(false, 0), (true, 1)]
  | .i3 => [(false, 0), (false, 1), (true, 2)]
  | .i4 => [(false, 0), (false, 1), (false, 2), (true, 3)]
  | _ => []

/-- The MODE a sweep of a weight format needs (R102). -/
def wmode : Fmt → Nat
  | .b1 => modeSigned
  | .l4 | .f4 | .c4 => modeProduct
  | _ => modeSubset

/-- A weight code with its escape replaced by the zero code (R76). -/
def planeCode (f : Fmt) (c : Nat) : Nat := if isEsc f c then 0 else c

/-- Index nibble of group g and plane p over the row's codes (R77). -/
def nibble (f : Fmt) (w : Nat → Nat) (g p : Nat) : Nat :=
  ((upto 4).map fun j => if bitAt (planeCode f (w (4 * g + j))) p then 2 ^ j else 0).sum

/-- What one look-up of digit d adds (R78). -/
def lookAdd (sl : TSlot) (d n : Nat) (pl : Bool × Nat) : Int :=
  let v := sl.t.getD n 0 * 2 ^ (pl.2 + 4 * d + sl.off)
  if pl.1 then -v else v

/-- Kind of a look-up: issued, skipped because the slot is zero, or skipped by its weight (R86). -/
inductive Look where
  | issue | skipAct | skipWgt
  deriving DecidableEq, Repr

/-- Whether a group-mode look-up is skipped (R86). -/
def lookGroup (f : Fmt) (sl : TSlot) (n : Nat) : Look :=
  if sl.z then .skipAct else if wmode f = modeSubset ∧ n = 0 then .skipWgt else .issue

/-- Whether a product-mode look-up is skipped (R86): the entry of a code whose value is 0 is 0, and no other entry of a slot
whose activation is not 0. For C4 the values are those of the codebook that the slot was built with (R81). -/
def lookProd (sl : TSlot) (c : Nat) : Look :=
  if sl.z then .skipAct else if sl.t.getD c 0 = 0 then .skipWgt else .issue

/-- One look-up of a row: its kind and the value it adds if issued. -/
abbrev LookUp := Look × Int

/-- The look-ups of one token in group mode: `slot i` is slot i of the token's part, `d` digits a group (R78). -/
def groupLooks (f : Fmt) (d n : Nat) (slot : Nat → TSlot) (w : Nat → Nat) : List LookUp :=
  (upto (n / d)).flatMap fun g =>
    (upto d).flatMap fun dg =>
      let sl := slot (d * g + dg)
      ((planes f).zip (upto 8)).map fun q =>
        let nb := nibble f w g q.2
        (lookGroup f sl nb, lookAdd sl dg nb q.1)

/-- The look-ups of one token in product mode (R80). -/
def prodLooks (n : Nat) (slot : Nat → TSlot) (w : Nat → Nat) : List LookUp :=
  (upto n).map fun i =>
    let sl := slot i
    (lookProd sl (w i), sl.t.getD (w i) 0 * 2 ^ sl.off)

/-- The look-ups of one token of a row. -/
def rowLooks (f : Fmt) (d n : Nat) (slot : Nat → TSlot) (w : Nat → Nat) : List LookUp :=
  if wmode f = modeProduct then prodLooks n slot w else groupLooks f d n slot w

/-- The sum the issued look-ups give (R78, R80). -/
def lookSum (l : List LookUp) : Int := (l.map fun q => if q.1 = .issue then q.2 else 0).sum

/-- The sum with no look-up skipped. -/
def lookSumAll (l : List LookUp) : Int := (l.map fun q => q.2).sum

/-- A 48-bit held sum: saturates at its limits (R83). -/
def hold48 (a : Int) : Int := clampI (-(2 ^ 47 - 1)) (2 ^ 47 - 1) a

/-- Look-ups of a kind in a list. -/
def countLook (q : Look) (l : List LookUp) : Nat := (l.filter fun x => x.1 == q).length

/-- Elements of a row's weights for one token (R77): slots per token times 4 over the digits, or the slots. -/
def rowElems (f : Fmt) (d n : Nat) : Nat := if wmode f = modeProduct then n else n * 4 / d

/-- Escape codes among a row's weights (ESC_W, Table 3.10). -/
def escCount (f : Fmt) (n : Nat) (w : Nat → Nat) : Nat := ((upto n).filter fun i => isEsc f (w i)).length

/-- e_fmt of R85: -1 for F4, e_cb for C4, 0 otherwise. -/
def eFmt (f : Fmt) (ecb : Int) : Int :=
  match f with
  | .f4 => -1
  | .c4 => ecb
  | _ => 0

/-- An accumulator's RECORD (Table 3.8). -/
def recordWord (a : Int) (wtag adig : Nat) : Nat := toBits 48 a + wtag % 16 * 2 ^ 48 + adig % 2 * 2 ^ 52

/-- An accumulator as FP32 at an exponent (R85, R94): the read value converted, then scaled by a power of two. -/
def outF32 (a : Int) (e : Int) : Nat := fenc .fp32 (fscale (fround .fp32 (fofInt (sat32 a))) e)

/-- A channel-scale entry whose halves agree: EW and RQS (Table 4.5). -/
def cstOf (w : Nat) : Option (Int × Nat) :=
  if complOk 16 w (w / 65536) then some (sext 8 w, bits w 12 8) else none

end Sys2Proof.Machine
end

