-- ==== Sys2Proof/Machine/Violations.lean ====
section
/-!
DEFINITION. Violations and freezing (R420, R421), and stopping a task on a cell or an engine (R103, R182, R197).
-/
namespace Sys2Proof.Machine

/-- Master ID (Table 12.6). -/
def masterId : Master → Nat
  | .cell c k => 1 + 16 * c + 2048 * k
  | .str c e => 2 + 16 * c + 2048 * e
  | .upd c => 3 + 16 * c
  | .vec c => 4 + 16 * c
  | .host _ => 5
  | .netq q => 6 + 16 * q
  | .io _ => 0
  | .fw => 0

/-- The request of a task: its record's HOST_TAG and SEQ. -/
def taskTag (s : State) (t : Nat) : Nat × Nat :=
  let r := reqOf s (taskOf s t).req
  (r.tag, r.seq)

/-- Latch a violation in PMAP_VIOL (Table 12.9). -/
def latchViol (p mid kind addr : Nat) (s : State) : State :=
  modPart p (fun q =>
    if q.violValid then { q with violOvf := satAdd 32 q.violOvf 1 }
    else { q with violValid := true, violMaster := mid, violKind := kind, violAddr := addr % 2 ^ 48 }) s

/-- The record of a violation (R421, Table 15.3). -/
def violRecord (p mid kind addr island tag seq : Nat) (s : State) : State :=
  fwRecord { sev := 4, cls := 2, detail := mid, part := some p, island := island, cycles := recCycles s island,
             subject := mid + kind * 2 ^ 16, aux := addr, tag := tag, iseq := seq } s

/-- Discard all the engine holds of its task: lanes, accumulators, reorder unit, queued rows, builds, sweeps
and fences; CUR_TAG is left (R103). -/
def Cell.flush (v : Cell) : Cell :=
  { v with engOwner := none, lanes := [], acc := [], accEcc := [], took := [], rq := [], builds := [], run := none, pend := none,
           fences := [], opened := [], tongue := none, sweeps := 0, ldGot := 0 }

/-- A freed context keeps its HALT bit only. -/
def Ctx.freed (v : Ctx) : Ctx := { halt := v.halt }

/-- Free every context of a task on a cell and flush the engine if the task owns it (R182). -/
def Cell.stopTask (t : Nat) (v : Cell) : Cell :=
  let v := (upto 4).foldl (fun v x => if (v.ctxOf x).task = some t then v.modCtx x Ctx.freed else v) v
  if v.engOwner = some t then v.flush else v

/-- A block that a victim has given to the cell and that it has not received is discarded with its sweep (R103). -/
def dropGiven (c k : Nat) (s : State) : State := { s with given := s.given.filter fun g => g.thief != 32 * c + k }

/-- Stop a task on a cell. -/
def stopOnCell (c k t : Nat) (s : State) : State :=
  modCell c k (Cell.stopTask t) (if (cellOf s c k).engOwner = some t then dropGiven c k s else s)

/-- The tasks that hold a context of a cell, each once. -/
def tasksOn (v : Cell) : List Nat := ((upto 4).filterMap fun x => (v.ctxOf x).task).eraseDups

/-- The tasks that have not ended on a cell: those that hold a context, and the engine's (R181). -/
def tasksOf (v : Cell) : List Nat := (tasksOn v ++ v.engOwner.toList).eraseDups

/-- LUT_FAULT after a fault (Table 5.21). -/
def FaultLatch.push (f : FaultLatch) (status detail x pc : Nat) : FaultLatch :=
  if !f.valid then { detail := detail, ctx := x, pc := pc, status := status, valid := true, ovf := f.ovf }
  else
    let hard (n : Nat) : Bool := n == 0x09 || n == 0x0D
    let f := { f with ovf := satAdd 8 f.ovf 1 }
    if hard status && !hard f.status then { f with detail := detail, ctx := x, pc := pc, status := status } else f

/-- The error of an item a fault of a memory word ended (R545). -/
def memErr (s : State) (status detail p island a mem tag seq : Nat) : ErrInfo :=
  { itemErr s status detail p island none tag seq with
    subject := a % 2 ^ 48 + mem * 2 ^ 48, aux := memAux s p a }

/-- The error of an item that a fault ended, and the word it concerns, as its address and memory, if one. -/
def wordErr (s : State) (status detail p island : Nat) (w : Option (Nat × Nat)) (tag seq : Nat) : ErrInfo :=
  match w with
  | some (a, mem) => memErr s status detail p island a mem tag seq
  | none => itemErr s status detail p island none tag seq

/-- Work of task t that context x of a cell issued at word pc raises a fault (R182): the context is FAULTED if it still holds
the task, the task's other contexts are freed, and `err` goes to the cell's latch. -/
def cellFaultE (c k x t pc status detail : Nat) (err : ErrInfo) (s : State) : State :=
  let cx := ctxOf s c k x
  let s := modCell c k (fun v =>
    let v := if cx.task = some t then
        v.modCtx x fun _ => { cx with st := .faulted, arrived := false, step := false, pushed := 0 }
      else v
    { v with flt := v.flt.push status detail x pc, err := mset false v.err 0 true }) (stopOnCell c k t s)
  reportBy (some (k, x, pc)) t status detail c (capture (.cell c k) err s)

/-- The same for a fault that concerns no memory word. -/
def cellFault (c k x t pc status detail : Nat) (s : State) (addr : Option Nat := none) : State :=
  let ts := taskTag s t
  cellFaultE c k x t pc status detail (itemErr s status detail (taskOf s t).part (cellIsland s c k) addr ts.1 ts.2) s

/-- A context's operation raises a fault. -/
def ctxFault (c k x status detail : Nat) (s : State) (addr : Option Nat := none) : State :=
  match (ctxOf s c k x).task with
  | none => s
  | some t => cellFault c k x t (ctxOf s c k x).pc status detail s addr

/-- The detail of an uncorrectable access by a requester: PARTIAL_UNCORR for a partial write or atomic,
BULK_POISON from the bulk tier, else the requester's own (R291, R292). -/
def uncDetail (own mem : Nat) (partialWrite : Bool) : Nat :=
  if partialWrite then 0x08_0002 else if mem = 2 then 0x08_0003 else own

/-- An uncorrectable word of a cell's engine SRAM or program memory is met: counted, and latched in BNK_LAST_UE with no
partition address (R291, Table 8.12). -/
def sramUnc (c k p : Nat) (s : State) : State :=
  setPreg p Reg.BNK_LAST_UE (3 * 2 ^ 48)
    (bumpC c Reg.BNK_SRAM_ECC 32 1 { s with ueLog := s.ueLog ++ [(sramKey 0 c k 0, s.now)] })

/-- A corrected word of a cell's engine SRAM or program memory is counted (R291). -/
def sramCorr (c : Nat) (s : State) : State := bumpC c Reg.BNK_SRAM_ECC 0 1 s

/-- Work of task t meets an uncorrectable word of the cell's own SRAM (R108, R189). -/
def cellUnc (c k x t pc detail : Nat) (s : State) : State :=
  let p := (taskOf s t).part
  let ts := taskTag s t
  let err := { itemErr s 0x09 detail p (cellIsland s c k) none ts.1 ts.2 with subject := 3 * 2 ^ 48, aux := cellIsland s c k }
  cellFaultE c k x t pc 0x09 detail err (sramUnc c k p s)

/-- An uncorrectable instruction word; within 1 s of its last reload it triggers the cell's retirement (R189, Table 15.5). -/
def pmUnc (c k x pc : Nat) (s : State) : State :=
  let at' := mget 0 (cellOf s c k).pmFix pc
  let s := if at' ≠ 0 ∧ s.now < at' + 25000000 ∧ !s.trig.contains (.cell c k) then { s with trig := s.trig ++ [.cell c k] } else s
  cellUnc c k x ((ctxOf s c k x).task.getD 0) pc 0x05_0006 s

/-- Freeze a cell (R183): contexts and engine stop, every task on it ends with VIOLATION_FROZEN. -/
def freezeCell (p c k kind addr : Nat) (s : State) : State :=
  let mid := masterId (.cell c k)
  if (cellOf s c k).frozen then modPart p (fun q => { q with violOvf := satAdd 32 q.violOvf 1 }) s
  else
    let ts := tasksOf (cellOf s c k)
    let id := (ts.head?.map fun t => taskTag s t).getD (0, 0)
    let s := violRecord p mid kind addr (cellIsland s c k) id.1 id.2 (latchViol p mid kind addr s)
    let s := modPart p (fun q => { q with frozen := q.frozen ++ [mid] }) s
    let s := ts.foldl (fun s t => report t 0x07 mid c (stopOnCell c k t s)) s
    modCell c k (fun v => { v.flush with frozen := true }) s

/-- What a Stop does to work of task t that context x of a cell issued at word pc; `own` is the detail of an uncorrectable word
(R156, R182, R291). -/
def cellStopAs (own c k x t pc : Nat) (e : Stop) (s : State) : State :=
  let p := (taskOf s t).part
  match e with
  | .viol kind a => freezeCell p c k kind a s
  | .fail st dt a => cellFault c k x t pc st dt s a
  | .unc a mem pw =>
    let ts := taskTag s t
    let dt := uncDetail own mem pw
    cellFaultE c k x t pc 0x09 dt (memErr s 0x09 dt p (cellIsland s c k) a mem ts.1 ts.2) s

/-- The same for the cell's own accesses. -/
def cellStop (c k x t pc : Nat) (e : Stop) (s : State) : State := cellStopAs 0x05_0007 c k x t pc e s

/-- Run an operation of task t on a cell; a Stop ends it as cellStop says. -/
def cellRun (c k x t pc : Nat) (m : EM Unit) (s : State) : State :=
  match runEM m s with
  | .good _ s => s
  | .stop e s => cellStop c k x t pc e s

/-- Mark a master frozen with its violation latched and recorded; a frozen one only counts in PMAP_VIOL.OVF (R420). -/
def freezeMark (p : Nat) (m : Master) (kind addr island : Nat) (id : Nat × Nat) (s : State) : State :=
  let mid := masterId m
  if (part s p).frozen.contains mid then modPart p (fun q => { q with violOvf := satAdd 32 q.violOvf 1 }) s
  else
    let s := violRecord p mid kind addr island id.1 id.2 (latchViol p mid kind addr s)
    modPart p (fun q => { q with frozen := q.frozen ++ [mid] }) s

/-- A master of a partition is frozen. -/
def isFrozen (s : State) (p : Nat) (m : Master) : Bool := (part s p).frozen.contains (masterId m)

/-- Freeze the vector domain of a cluster: its jobs stop, its queues are emptied and their tasks stop (R191, R197, Table 12.6);
`own` is the task of the job whose access violated. A job that the host pushed to the quantizer has faulted (R115). -/
def freezeVec (p c : Nat) (own : Option Nat) (kind addr : Nat) (s : State) : State :=
  if isFrozen s p (.vec c) then freezeMark p (.vec c) kind addr 0 (0, 0) s
  else
    let q := clu s c
    let ts := (own.toList ++ (q.dq ++ q.dw ++ q.vq ++ q.vw).map (fun j => j.task) ++ q.qq.filterMap (fun j => j.task) ++
      (q.qrun.bind fun r => r.job.task).toList).eraseDups
    let id := (ts.head?.map fun t => taskTag s t).getD (0, 0)
    let host : Bool := match q.qrun with | some r => r.job.task.isNone | none => false
    let s := freezeMark p (.vec c) kind addr (cmpIsland s c) id s
    let s := modClu c (fun q => { q with dq := [], vq := [], dw := [], vw := [], qq := [], qrun := none, statClr := 0 }) s
    let s := if host then flagC c Reg.QNT_ERR 2 s else s
    ts.foldl (fun s t => report t 0x07 (masterId (.vec c)) c s) s

end Sys2Proof.Machine
end

