-- ==== Sys2Proof/Machine/Fabric.lean ====
section
/-!
DEFINITION. The fabric between modules: the torus and its routing (R439, R447, R448), virtual channels (R444), messages
and flits (R441, R445), the transmitter's replay buffer and credits (R443, R444).
-/
namespace Sys2Proof.Machine

/-! ### CRC-32C (Table 13.4) -/

/-- One bit of the reflected CRC-32C. -/
def crcBit (r : Nat) : Nat := if r % 2 = 1 then Nat.xor (r / 2) 0x82F6_3B78 else r / 2

/-- Eight bits of it. -/
def crcByte (r : Nat) : Nat := crcBit (crcBit (crcBit (crcBit (crcBit (crcBit (crcBit (crcBit r)))))))

/-- CRC-32C of bytes: polynomial 0x1EDC_6F41, initial value and final XOR 0xFFFF_FFFF, reflected. -/
def crc32c (l : List Byte) : Nat := Nat.xor (l.foldl (fun r b => crcByte (Nat.xor r b.toNat)) 0xFFFF_FFFF) 0xFFFF_FFFF

/-! ### The torus -/

/-- DX, DY, X and Y of LNK_DOMAIN. -/
def domX (s : State) : Nat := bits (dreg s Reg.LNK_DOMAIN) 35 32
def domY (s : State) : Nat := bits (dreg s Reg.LNK_DOMAIN) 39 36
def myX (s : State) : Nat := bits (dreg s Reg.LNK_DOMAIN) 42 40
def myY (s : State) : Nat := bits (dreg s Reg.LNK_DOMAIN) 45 43

/-- The module lies in a domain (R439). -/
def inDomain (s : State) : Bool := !(domX s == 1 && domY s == 1)

/-- Links in service, ascending, of a direction: 0 X+, 1 X-, 2 Y+, 3 Y- (R439). -/
def activeLinks (s : State) (d : Nat) : List Nat :=
  ((upto 4).map fun i => 4 * d + i).filter fun l => bitAt (dreg s Reg.LNK_DIRS) l

/-- A direction has an active link. -/
def dirUp (s : State) (d : Nat) : Bool := !(activeLinks s d).isEmpty

/-- The direction along one ring of size n from position a to b: the shorter way, + on a tie; the other way when
the chosen one has no active link and n is above 2 (R447). -/
def ringDir (s : State) (n a b plus : Nat) : Option Nat :=
  if a = b then none
  else
    let fwd := (b + n - a) % n
    let d := if fwd ≤ n - fwd then plus else plus + 1
    let e := if fwd ≤ n - fwd then plus + 1 else plus
    if dirUp s d then some d else if 2 < n ∧ dirUp s e then some e else none

/-- The direction a message to a module leaves by; none when no path exists, as for a module outside the domain (R439,
R447). -/
def routeDir (s : State) (dst : Nat) : Option Nat :=
  if domX s ≤ dst % 8 ∨ domY s ≤ dst / 8 then none
  else match ringDir s (domX s) (myX s) (dst % 8) 0 with
    | some d => some d
    | none => ringDir s (domY s) (myY s) (dst / 8) 2

/-- The flow of a message, as one number: SRC, DST, DPART, TABLE and SHARD (R446). -/
def flowOf (m : Msg) : Nat :=
  m.src + m.dst * 2 ^ 6 + m.dpart * 2 ^ 12 + m.table * 2 ^ 16 + m.shard % 2 ^ 26 * 2 ^ 28

/-- The sum over a flow that chooses its link (R448). -/
def flowKey (f : Nat) : Nat := bits f 11 6 + 5 * bits f 15 12 + 3 * bits f 27 16 + f / 2 ^ 28

/-- The link of a flow within a direction (R448). -/
def flowLink (s : State) (d : Nat) (f : Nat) : Nat :=
  let a := activeLinks s d
  a.getD (flowKey f % a.length) 0

/-- The hop out of direction d crosses the dateline of its ring (R444). -/
def crossesDateline (s : State) (d : Nat) : Bool :=
  let n := if d < 2 then domX s else domY s
  let p := if d < 2 then myX s else myY s
  if d % 2 = 0 then p + 1 == n else p == 0

/-- A message kind is a response. -/
def isResponse (k : Nat) : Bool := k == 1 || k == 3 || k == 5

/-- The virtual channel of the next hop; `from` is the direction the message came along and its channel, if it came. -/
def nextVc (s : State) (d : Nat) (kind : Nat) (came : Option (Nat × Nat)) : Nat :=
  let base := if isResponse kind then 2 else 0
  let odd : Bool := match came with
    | some (e, vc) => (e / 2 == d / 2) && vc % 2 == 1
    | none => false
  if odd || crossesDateline s d then base + 1 else base

/-! ### Messages and flits -/

/-- A message's bytes (Table 13.5). -/
def msgBytes (m : Msg) : List Byte :=
  leBytes 8 (m.dst + m.src * 2 ^ 6 + m.dpart * 2 ^ 12 + m.kind * 2 ^ 16 + m.table * 2 ^ 20 + m.tag % 2 ^ 32 * 2 ^ 32) ++
    leBytes 8 (m.payload.length + m.shard % 2 ^ 26 * 2 ^ 16) ++ m.payload

/-- A message from its bytes. -/
def msgOf (l : List Byte) : Msg :=
  let w0 := leNat (l.take 8)
  let w1 := leNat ((l.drop 8).take 8)
  { dst := bits w0 5 0, src := bits w0 11 6, dpart := bits w0 15 12, kind := bits w0 19 16, table := bits w0 31 20,
    tag := bits w0 63 32, shard := bits w1 41 16, payload := (l.drop 16).take (bits w1 15 0) }

/-- Bytes cut into flit payloads of 248 bytes, the last filled up with zeros: a message begins a new flit (log 20). -/
def cutFlits : Nat → List Byte → List (List Byte)
  | 0, _ => []
  | n + 1, l => if l.isEmpty then [] else (l.take 248 ++ List.replicate (248 - l.length) 0) :: cutFlits n (l.drop 248)

/-- Link l. -/
def linkOf (s : State) (l : Nat) : Link := mget {} s.links l

/-- Change link l. -/
def modLink (l : Nat) (f : Link → Link) (s : State) : State := { s with links := mset {} s.links l (f (linkOf s l)) }

/-- A link holds a flit of the flow that the partner has not acknowledged. -/
def holdsFlow (v : Link) (f : Nat) : Bool := (v.replay ++ v.txq).any fun q => q.flow == f

/-- The link that a flow's next message takes: the one that still holds flits of it, else R448's (R453). -/
def nextLink (s : State) (d f : Nat) : Nat :=
  ((activeLinks s d).find? fun l => holdsFlow (linkOf s l) f).getD (flowLink s d f)

/-- Transmit and receive share of a partition on link l: direction 0 TX, 1 RX (R407). -/
def shareOf (q : Part) (l dir : Nat) : Nat := mget 0 q.shares (2 * l + dir)

/-- The transmit shares of link l, by partition. -/
def txShares (s : State) (l : Nat) : List Nat := (upto 16).map fun p => shareOf (part s p) l 0

/-- The next flit of partition p, or of unshared transit for 16: its channel has a credit, and no other's message in progress
(R444, R449). -/
def waitingFlit (v : Link) (p : Nat) : Option Flit :=
  v.txq.find? fun q => q.part == p && mget 0 v.used q.vc < 256 && (mget 0 v.opened q.vc == 0 || mget 0 v.opened q.vc == p + 1)

/-- The arbiter's choice (R449): a partition with flits waiting below its share, else round-robin among all that wait. The
flag says that a share pays. -/
def arbitrate (v : Link) : Option (Flit × Bool) :=
  let turn := (upto 17).map fun i => (v.rr + 1 + i) % 17
  match turn.find? fun p => mget 0 v.granted p < v.shares.getD p 0 && (waitingFlit v p).isSome with
  | some p => (waitingFlit v p).map (·, true)
  | none => (turn.findSome? (waitingFlit v)).map (·, false)

/-- A flit is granted its slot: it takes a credit, its SEQ and its place in the replay buffer. -/
def grantFlit (q : Flit) (paid : Bool) (v : Link) : Link :=
  { v with
    txq := v.txq.erase q, used := mset 0 v.used q.vc (mget 0 v.used q.vc + 1),
    replay := v.replay ++ [{ q with seq := v.txSeq }], txSeq := (v.txSeq + 1) % 4096, sent := v.sent + 1,
    slots := v.slots + 1, opened := mset 0 v.opened q.vc (if q.last then 0 else q.part + 1),
    granted := if paid then mset 0 v.granted q.part (mget 0 v.granted q.part + 1) else v.granted,
    rr := if paid then v.rr else q.part }

/-- A period of 256 slots ends, as does one in which nothing waits any more; the next takes the present shares (R449;
DESIGN CHOICE, log 74: only granted slots count). -/
def openPeriod (sh : List Nat) (v : Link) : Link :=
  if v.slots = 0 ∨ 256 ≤ v.slots then { v with slots := 0, granted := [], shares := sh } else v

/-- The transmitter grants slots to waiting flits while it has credits and replay-buffer room (R443, R444, R449). -/
def pumpLink (sh : List Nat) : Nat → Link → Link
  | 0, v => v
  | n + 1, v =>
    if 1024 ≤ v.replay.length then v
    else
      let v := openPeriod sh v
      match arbitrate v with
      | none => if v.txq.isEmpty then { v with slots := 0 } else v
      | some (q, paid) => pumpLink sh n (grantFlit q paid v)

/-- Link l sends what it can; LNK_FLITS counts the flits in units of 2^16 (Table 13.9). -/
def pump (l : Nat) (s : State) : State :=
  let v := linkOf s l
  let v' := pumpLink (txShares s l) (v.txq.length + 1) v
  bumpD (Reg.LNK_FLITS + 0x100 * l) 0 (v'.sent / 65536 - v.sent / 65536) (modLink l (fun _ => v') s)

/-- The partition a message is charged to on a link: the local one of its DPART, else the unshared part (R449). -/
def chargedTo (s : State) (d : Nat) : Nat :=
  ((upto 16).find? fun p => bitAt (dreg s (Reg.LNK_DPART + 8 * p)) 4 && dreg s (Reg.LNK_DPART + 8 * p) % 16 == d).getD 16

/-- The flits of a message on a virtual channel. -/
def flitsOf (s : State) (m : Msg) (vc : Nat) : List Flit :=
  let l := cutFlits (m.payload.length + 17) (msgBytes m)
  (l.zip (upto l.length)).map fun q =>
    { vc := vc, payload := q.1, flow := flowOf m, part := chargedTo s m.dpart, last := q.2 + 1 == l.length }

/-- Send a message toward its destination; none when no path exists (R447, R448). -/
def sendMsg (m : Msg) (came : Option (Nat × Nat)) (s : State) : Option State :=
  match routeDir s m.dst with
  | none => none
  | some d =>
    let l := nextLink s d (flowOf m)
    some (pump l (modLink l (fun v => { v with txq := v.txq ++ flitsOf s m (nextVc s d m.kind came) }) s))

/-- A message with no path is counted (R447). -/
def countUnreach (s : State) : State := bumpD Reg.LNK_UNREACH 0 1 (flagD Reg.LNK_ERR 3 s)

/-- Send, or count the message as unreachable. -/
def trySend (m : Msg) (s : State) : State := match sendMsg m none s with | some s => s | none => countUnreach s

/-- The domain partition of a local partition (R440). -/
def dpartOf (s : State) (p : Nat) : Option Nat :=
  let w := dreg s (Reg.LNK_DPART + 8 * p)
  if bitAt w 4 then some (w % 16) else none

/-- The local partition that holds a domain partition number (R440). -/
def dpartLocal (s : State) (d : Nat) : Option Nat := (upto 16).find? fun p => dpartOf s p == some d

/-- A message of this module for partition p. -/
def msgFor (s : State) (p dst kind table tag shard : Nat) (pl : List Byte) : Option Msg :=
  (dpartOf s p).map fun d =>
    { dst := dst, src := moduleIndex s, dpart := d, kind := kind, table := table, tag := tag, shard := shard, payload := pl }

/-- A response to a message. -/
def reply (m : Msg) (kind : Nat) (pl : List Byte) (s : State) : Msg :=
  { dst := m.src, src := moduleIndex s, dpart := m.dpart, kind := kind, table := m.table, tag := m.tag, shard := m.shard,
    payload := pl }

end Sys2Proof.Machine
end

