-- ==== Sys2Proof/Machine/Cell.lean ====
section
/-!
DEFINITION. The cell sequencer (chapter 5): instruction words (R147, R148), the 38 operations of Table 5.5 as events
of a context, the waits, and the LUT registers' own commands (R190).
-/
namespace Sys2Proof.Machine

/-! ### Instruction words -/

/-- Fields of an instruction word (Table 5.4). -/
structure CellWord where
  op : Nat
  d : Nat
  a : Nat
  b : Nat
  f : Nat
  i : Bool
  imm : Nat
  deriving DecidableEq, Repr

/-- Take an instruction word apart (R147). -/
def cellWord (w : W64) : CellWord :=
  let n := w.toNat
  { op := bits n 63 56, d := bits n 55 51, a := bits n 50 46, b := bits n 45 41, f := bits n 40 33,
    i := bitAt n 32, imm := bits n 31 0 }

/-- OP values that Table 5.5 lists. -/
def opListed (o : Nat) : Bool :=
  o ≤ 5 || (0x10 ≤ o && o ≤ 0x25) || (0x30 ≤ o && o ≤ 0x36) || (0x40 ≤ o && o ≤ 0x43) || o == 0x50

/-- The word is permitted: unused fields are 0, F and IMM hold defined values, I only in 0x10 to 0x1C (R148). -/
def wordOk (w : CellWord) : Bool :=
  let z (n : Nat) : Bool := n == 0
  let noI : Bool := !w.i
  if w.op = 0 ∨ w.op = 1 ∨ w.op = 0x43 then z w.d && z w.a && z w.b && z w.f && noI && z w.imm
  else if w.op = 2 then z w.d && z w.a && z w.b && z w.f && noI && decide (w.imm < 2048)
  else if w.op = 3 then z w.d && decide (w.f ≤ 5) && noI && decide (w.imm < 2048)
  else if w.op = 4 then z w.a && z w.b && z w.f && noI && decide (w.imm < 2048)
  else if w.op = 5 then z w.d && z w.b && z w.f && noI && z w.imm
  else if 0x10 ≤ w.op ∧ w.op ≤ 0x1C then z w.f && (if w.i then z w.b else z w.imm)
  else if w.op = 0x1D then z w.b && z w.f && noI
  else if w.op = 0x1E then z w.b && decide (w.f < 4) && noI && decide (w.imm < 64)
  else if w.op = 0x1F then z w.b && decide (w.f < 2) && noI && decide (w.imm < 32)
  else if w.op = 0x20 then z w.b && decide (w.f < 8) && noI
  else if w.op = 0x21 then z w.d && decide (w.f < 4) && noI
  else if w.op = 0x22 then decide (w.f < 3) && noI
  else if w.op = 0x23 then decide (w.f < 2) && noI
  else if w.op = 0x24 then z w.f && noI
  else if w.op = 0x25 then z w.d && z w.f && noI && z w.imm
  else if w.op = 0x30 then z w.f && noI && decide (w.imm < 1024) && decide (bits w.imm 5 4 ≠ 3)
  else if w.op = 0x31 then z w.d && z w.f && noI && z w.imm
  else if w.op = 0x32 then z w.d && z w.a && z w.b && z w.f && noI && decide (w.imm < 32) &&
    ((fmtOf (w.imm % 16)).map isWeight).getD false
  else if w.op = 0x33 then z w.d && z w.b && z w.f && noI && decide (w.imm < 128) &&
    decide (1 ≤ w.imm % 64) && decide (w.imm % 64 ≤ 32)
  else if w.op = 0x34 then z w.d && z w.b && z w.f && noI && z w.imm
  else if w.op = 0x35 then z w.b && z w.f && noI && decide (w.imm < 16)
  else if w.op = 0x36 then z w.d && z w.b && z w.f && noI && z w.imm
  else if w.op = 0x40 then z w.a && z w.b && decide (w.f ≤ 5) && noI && z w.imm && (w.f == 4 || z w.d)
  else if w.op = 0x41 then z w.d && z w.b && decide (w.f < 2) && noI && decide (w.imm < 64)
  else if w.op = 0x42 then z w.d && z w.b && z w.f && noI && decide (w.imm < 64)
  else if w.op = 0x50 then z w.a && z w.b && z w.f && noI && decide (w.imm ≤ 7)
  else false

/-- The registers that an instruction reads (Table 5.5). -/
def readsOf (w : CellWord) : List Nat :=
  let o := w.op
  if o = 3 ∨ o = 0x21 ∨ o = 0x22 ∨ o = 0x23 ∨ o = 0x25 ∨ o = 0x31 then [w.a, w.b]
  else if 0x10 ≤ o ∧ o ≤ 0x1C then (if w.i then [w.a] else [w.a, w.b])
  else if o = 5 ∨ o = 0x1D ∨ o = 0x1F ∨ o = 0x20 ∨ (0x33 ≤ o ∧ o ≤ 0x36) ∨ o = 0x41 ∨ o = 0x42 then [w.a]
  else if o = 0x1E then [w.d, w.a]
  else if o = 0x24 ∨ o = 0x30 then [w.d, w.a, w.b]
  else []

/-! ### Registers -/

/-- General register; g0 reads 0 (R142). -/
def Ctx.reg (v : Ctx) (i : Nat) : W64 := if i = 0 then 0 else mget 0 v.g i

/-- Write a general register; a write to g0 is discarded (R142). A result still on its way to the register is given up: the
later write of the program stands (log 61). -/
def Ctx.setReg (v : Ctx) (i : Nat) (w : W64) : Ctx :=
  if i = 0 then v else { v with g := mset 0 v.g i w, late := merase v.late i }

/-- A result sets out for a general register, which is busy until it returns (R143, R152, R158). -/
def Ctx.setLate (v : Ctx) (i : Nat) (w : W64) : Ctx := if i = 0 then v else { v with late := mset none v.late i (some w) }

/-- Every result on its way returns. -/
def Ctx.land (v : Ctx) : Ctx :=
  { v with late := []
           g := (upto 32).foldl (fun g i => match mget none v.late i with | some w => mset 0 g i w | none => g) v.g }

/-! ### Issue -/

/-- A context stands within an instruction that has issued: WAIT, WAITM, WAITF or BAR (Table 5.2 WAIT_SYNC), or an RQPUSH with
entries left (R173). -/
def Ctx.within (v : Ctx) : Bool := v.st == .waitSync || v.pushed != 0

/-- A context that goes on: it neither waits for a release nor is halted at an instruction boundary (Table 5.19). -/
def Ctx.live (v : Ctx) : Bool :=
  (v.st == .ready || v.st == .waitEngine || v.st == .waitSync) && !v.arrived && (!v.halt || v.step || v.within)

/-- A context is HALTED: it holds a task and its HALT bit stops it. -/
def Ctx.halted (v : Ctx) : Bool := v.task.isSome && v.halt && !v.step && !v.within && v.st != .faulted && v.st != .free

/-- A GIVE of the context is unacknowledged (R161, R164). -/
def gives (s : State) (c k x : Nat) : Bool :=
  s.banks.any fun b => b.2.giver == some (4 * (32 * c + k) + x) && b.2.pending.isSome

/-- The engine, or for QPUSH the quantizer, cannot yet accept the operation (R146, R166, R171, R173, R176, R177). -/
def notAccepted (s : State) (c k x : Nat) (w : CellWord) : Bool :=
  let v := cellOf s c k
  if w.op = 0x36 then decide (8 ≤ (clu s c).qq.length)
  else
    (v.engOwner.isSome && v.engOwner != (v.ctxOf x).task) ||
      match w.op with
      | 0x30 => decide (4 ≤ v.builds.length)
      | 0x31 => v.pend.isSome
      | 0x33 => decide (32 ≤ v.rq.length)
      | 0x35 => v.run.isSome || v.pend.isSome
      | _ => false

/-- The state of Table 5.2 in which the next instruction holds a context that no halt stops; none for READY. A context whose
next word faults is READY. END and SIG that wait for a GIVE show WAIT_SYNC, engine operations and QPUSH that do show
WAIT_ENGINE (log 67). -/
def waitsFor (s : State) (c k x : Nat) : Option CtxState :=
  let v := cellOf s c k
  let cx := v.ctxOf x
  let w := cellWord (mget 0 v.pm cx.pc)
  let engine : Bool := decide (0x30 ≤ w.op) && decide (w.op ≤ 0x36)
  if !mget false v.pmw cx.pc || mget 0 v.pmEcc cx.pc == 2 || !wordOk w then none
  else if (readsOf w).any fun r => (mget none cx.late r).isSome then some .waitMem
  else if (w.op == 0x01 || w.op == 0x41) && gives s c k x then some .waitSync
  else if engine && (gives s c k x || notAccepted s c k x w) then some .waitEngine
  else none

/-- A context is READY (Table 5.2). -/
def readyCtx (s : State) (c k x : Nat) : Bool :=
  let v := ctxOf s c k x
  v.st == .ready && v.live && (waitsFor s c k x).isNone

/-- The context the round robin takes among the READY ones, beginning after the one that issued last (R144). -/
def rrPick (s : State) (c k : Nat) : Option Nat :=
  ((upto 4).map fun i => ((cellOf s c k).last + 1 + i) % 4).find? fun x => readyCtx s c k x

/-- The cell's sequencer runs. -/
def cellRuns (s : State) (c k : Nat) : Bool := awake s c && decide (k < (clu s c).ncell) && !(cellOf s c k).frozen

/-- Context x issues now: it is its turn, or it goes on within an instruction that has issued. -/
def canIssue (s : State) (c k x : Nat) : Bool :=
  let v := ctxOf s c k x
  cellRuns s c k && v.live && (v.within || rrPick s c k == some x)

/-- Context x waits in WAIT_MEM. -/
def memWaits (s : State) (c k x : Nat) : Bool :=
  let v := ctxOf s c k x
  cellRuns s c k && v.live && !v.within && waitsFor s c k x == some .waitMem

/-- Count in a cell counter (Table 3.10, R109). -/
def bumpCell (c k i n : Nat) (s : State) : State :=
  modCell c k (fun v => { v with cnt := mset 0 v.cnt i (satAdd 32 (mget 0 v.cnt i) n) }) s

/-- The context issues: it is counted and is the last that issued, and a granted STEP is used up. A context within an
instruction has issued it before. -/
def issued (c k x : Nat) (s : State) : State :=
  if (ctxOf s c k x).within then modCtx c k x (fun q => { q with st := .ready, pushed := 0 }) s
  else bumpCell c k 11 1
    (modCell c k (fun v => { (v.modCtx x fun q => { q with st := .ready, step := false }) with last := x }) s)

/-- Go on at word n. -/
def jump (c k x n : Nat) (s : State) : State := modCtx c k x (fun v => { v with pc := n }) s

/-- Go on at the next word; falling through word 2,047 faults (R151). -/
def advance (c k x : Nat) (s : State) : State :=
  let p := (ctxOf s c k x).pc
  if p = 2047 then ctxFault c k x 0x01 0x05_0002 s else jump c k x (p + 1) s

/-- The context issues and goes on, with a change of its own. -/
def ctxNext (c k x : Nat) (f : Ctx → Ctx) (s : State) : State :=
  advance c k x (modCtx c k x f (issued c k x s))

/-- The context issues a wait whose condition does not hold, and stays within it in WAIT_SYNC. -/
def ctxStay (c k x : Nat) (s : State) : State := modCtx c k x (fun v => { v with st := .waitSync }) (issued c k x s)

/-- Run an operation of a context; a Stop ends it as cellStop says. -/
def ctxRun (c k x : Nat) (m : EM Unit) (s : State) : State :=
  cellRun c k x ((ctxOf s c k x).task.getD 0) (ctxOf s c k x).pc m s

/-- An event of a context: it reaches a word of operation `op` (R144, R148, R151, R189). An event that finds the context in
WAIT_MEM stands for the return of its results (log 61). -/
def cellOp (op c k x : Nat) (body : CellWord → State → State) (s : State) : Out :=
  if 96 ≤ c ∨ 32 ≤ k ∨ 4 ≤ x then .fault .noSuchUnit
  else if !canIssue s c k x then .next (if memWaits s c k x then modCtx c k x Ctx.land s else s)
  else
    let v := cellOf s c k
    let pc := (v.ctxOf x).pc
    let w := cellWord (mget 0 v.pm pc)
    if !mget false v.pmw pc then .next (ctxFault c k x 0x01 0x05_0002 s)
    else if mget 0 v.pmEcc pc = 2 then .next (pmUnc c k x pc s)
    else if opListed w.op && w.op != op then .next s
    else
      let s := if mget 0 v.pmEcc pc = 1 then
          sramCorr c (modCell c k (fun v => { v with pmEcc := merase v.pmEcc pc, err := mset false v.err 2 true }) s)
        else s
      if !wordOk w then .next (ctxFault c k x 0x01 0x05_0001 s) else .next (body w s)

/-! ### Control and integer operations (R149 to R155) -/

/-- NOP. -/
def execNop (c k x : Nat) (s : State) : Out := cellOp 0x00 c k x (fun _ s => ctxNext c k x id s) s

/-- The engine is freed when its task has no context and no engine work left on the cell (R146, R181). -/
def Cell.release (v : Cell) : Cell :=
  match v.engOwner with
  | none => v
  | some t =>
    if (tasksOn v).contains t || !v.builds.isEmpty || v.run.isSome || v.pend.isSome || !v.fences.isEmpty then v
    else { v with engOwner := none, sweeps := 0 }

/-- Close the row sets of the sweeps a context issued (R173). -/
def Cell.closeOf (x : Nat) (v : Cell) : Cell :=
  let f (w : Sweep) : Sweep :=
    if w.x = x ∧ some w.task = (v.ctxOf x).task then { w with openRows := false } else w
  { v with run := v.run.map f, pend := v.pend.map f }

/-- Close every row set on the cell: the engine serves one task (R173). -/
def Cell.closeAll (v : Cell) : Cell :=
  let f (w : Sweep) : Sweep := { w with openRows := false }
  { v with run := v.run.map f, pend := v.pend.map f }

/-- The cell arrives when every context that holds a task has arrived (R180, R328). -/
def Cell.arrivedAll (v : Cell) : Bool :=
  v.quiet || v.frozen || (upto 4).all fun x =>
    (v.ctxOf x).task.isNone || (v.ctxOf x).arrived || (v.ctxOf x).st == .faulted

/-- An arrival of the cell, not one that only counts as arrived, is noted for its partition (R327). -/
def noteArrival (c k : Nat) (s : State) : State :=
  match (clu s c).part with
  | some p =>
    let v := cellOf s c k
    if v.arrivedAll && (upto 4).any fun x => (v.ctxOf x).arrived then modPart p (fun q => { q with arrivals := true }) s else s
  | none => s

/-- END (R161, R181). -/
def execEnd (c k x : Nat) (s : State) : Out :=
  cellOp 0x01 c k x (fun _ s =>
    noteArrival c k (modCell c k (fun v => Cell.release ((v.closeOf x).modCtx x Ctx.freed)) (issued c k x s))) s

/-- BR. -/
def execBr (c k x : Nat) (s : State) : Out :=
  cellOp 0x02 c k x (fun w s => jump c k x w.imm (issued c k x s)) s

/-- A branch condition (Table 5.6). -/
def branchHolds (f : Nat) (a b : W64) : Bool :=
  match f with
  | 0 => a == b
  | 1 => a != b
  | 2 => decide (a.toInt < b.toInt)
  | 3 => decide (b.toInt ≤ a.toInt)
  | 4 => decide (a.toNat < b.toNat)
  | _ => decide (b.toNat ≤ a.toNat)

/-- BC (R150). -/
def execBc (c k x : Nat) (s : State) : Out :=
  cellOp 0x03 c k x (fun w s =>
    let v := ctxOf s c k x
    if branchHolds w.f (v.reg w.a) (v.reg w.b) then jump c k x w.imm (issued c k x s) else ctxNext c k x id s) s

/-- BRL. -/
def execBrl (c k x : Nat) (s : State) : Out :=
  cellOp 0x04 c k x (fun w s =>
    modCtx c k x (fun v => { v.setReg w.d (BitVec.ofNat 64 (v.pc + 1)) with pc := w.imm }) (issued c k x s)) s

/-- JR (R151). -/
def execJr (c k x : Nat) (s : State) : Out :=
  cellOp 0x05 c k x (fun w s =>
    let n := ((ctxOf s c k x).reg w.a).toNat
    if 2048 ≤ n then ctxFault c k x 0x01 0x05_0002 s else jump c k x n (issued c k x s)) s

/-- IMM sign-extended to 64 bits. -/
def immW (w : CellWord) : W64 := BitVec.ofInt 64 (sext 32 w.imm)

/-- Operand b: gB, or IMM sign-extended when I is 1. -/
def opB (v : Ctx) (w : CellWord) : W64 := if w.i then immW w else v.reg w.b

/-- An operation that writes gD from gA and b and goes on. -/
def aluOp (op c k x : Nat) (f : W64 → W64 → W64) (s : State) : Out :=
  cellOp op c k x (fun w s => ctxNext c k x (fun v => v.setReg w.d (f (v.reg w.a) (opB v w))) s) s

/-- The low six bits of a shift amount. -/
def sh6 (b : W64) : Nat := b.toNat % 64

/-- ADD. -/
def execAdd (c k x : Nat) (s : State) : Out := aluOp 0x10 c k x (fun a b => a + b) s
/-- SUB. -/
def execSub (c k x : Nat) (s : State) : Out := aluOp 0x11 c k x (fun a b => a - b) s
/-- AND. -/
def execAnd (c k x : Nat) (s : State) : Out := aluOp 0x12 c k x (fun a b => a &&& b) s
/-- OR. -/
def execOr (c k x : Nat) (s : State) : Out := aluOp 0x13 c k x (fun a b => a ||| b) s
/-- XOR. -/
def execXor (c k x : Nat) (s : State) : Out := aluOp 0x14 c k x (fun a b => a ^^^ b) s
/-- SHL. -/
def execShl (c k x : Nat) (s : State) : Out := aluOp 0x15 c k x (fun a b => a <<< sh6 b) s
/-- SHR. -/
def execShr (c k x : Nat) (s : State) : Out := aluOp 0x16 c k x (fun a b => a >>> sh6 b) s
/-- SAR. -/
def execSar (c k x : Nat) (s : State) : Out := aluOp 0x17 c k x (fun a b => a.sshiftRight (sh6 b)) s
/-- MUL: the low 64 bits, which gD waits for (R152). -/
def execMul (c k x : Nat) (s : State) : Out :=
  cellOp 0x18 c k x (fun w s => ctxNext c k x (fun v => v.setLate w.d (v.reg w.a * opB v w)) s) s
/-- MIN, signed. -/
def execMin (c k x : Nat) (s : State) : Out := aluOp 0x19 c k x (fun a b => if a.toInt ≤ b.toInt then a else b) s
/-- MAX, signed. -/
def execMax (c k x : Nat) (s : State) : Out := aluOp 0x1A c k x (fun a b => if a.toInt ≤ b.toInt then b else a) s
/-- SLT, signed. -/
def execSlt (c k x : Nat) (s : State) : Out := aluOp 0x1B c k x (fun a b => if a.toInt < b.toInt then 1 else 0) s
/-- SLTU, unsigned. -/
def execSltu (c k x : Nat) (s : State) : Out := aluOp 0x1C c k x (fun a b => if a.toNat < b.toNat then 1 else 0) s

/-- INSH: gD = gA[31:0] OR (IMM shifted left by 32). -/
def execInsh (c k x : Nat) (s : State) : Out :=
  cellOp 0x1D c k x (fun w s =>
    ctxNext c k x (fun v => v.setReg w.d (BitVec.ofNat 64 ((v.reg w.a).toNat % 2 ^ 32 + w.imm * 2 ^ 32))) s) s

/-- The sum of SHACC (R153). -/
def shacc (f sh : Nat) (d a : W64) : W64 :=
  let t : Int := if f % 2 = 0 then (a <<< sh).toInt else rneShrI a.toInt sh
  let sum := d.toInt + t
  if f / 2 = 0 then BitVec.ofInt 64 sum else BitVec.ofInt 64 (clampI (-(2 ^ 63)) (2 ^ 63 - 1) sum)

/-- SHACC. -/
def execShacc (c k x : Nat) (s : State) : Out :=
  cellOp 0x1E c k x (fun w s =>
    ctxNext c k x (fun v => v.setReg w.d (shacc w.f w.imm (v.reg w.d) (v.reg w.a))) s) s

/-- REQ: requantize gA[31:0] to I8 or I4 (R154). -/
def execReq (c k x : Nat) (s : State) : Out :=
  cellOp 0x1F c k x (fun w s =>
    ctxNext c k x (fun v =>
      v.setReg w.d (BitVec.ofInt 64 (requant (if w.f = 0 then 127 else 7) (sext 32 (v.reg w.a).toNat) w.imm))) s) s

/-! ### Memory operations (R156 to R164) -/

/-- Partition of the context's task. -/
def ctxPart (s : State) (c k x : Nat) : Nat := (taskOf s ((ctxOf s c k x).task.getD 0)).part

/-- Effective address gA + IMM, as a partition address (R156). -/
def effAddr (v : Ctx) (w : CellWord) : Nat := (v.reg w.a + immW w).toNat

/-- A 64-bit sum with bits above 47 names no partition address: the access is a window violation. -/
def badAddr (a : Nat) : Bool := decide (2 ^ 48 ≤ a)

/-- A memory operation of a context: alignment, then the access, then the next word. -/
def memOp (op c k x : Nat) (size : CellWord → Nat) (f : Nat → Nat → CellWord → Ctx → EM (Ctx → Ctx)) (s : State) : Out :=
  cellOp op c k x (fun w s =>
    let v := ctxOf s c k x
    let a := effAddr v w
    let p := ctxPart s c k x
    if a % size w ≠ 0 then ctxFault c k x 0x01 0x05_0003 s
    else ctxRun c k x (do
      if badAddr a then throw (.viol 0 (a % 2 ^ 48)) else pure ()
      let g ← f p a w v
      modify (ctxNext c k x g)) s) s

/-- LD. -/
def execLd (c k x : Nat) (s : State) : Out :=
  memOp 0x20 c k x (fun w => 2 ^ (w.f % 4)) (fun p a w _ => do
    let n ← rdN (.cell c k) p none a (2 ^ (w.f % 4))
    let r : W64 := if w.f / 4 = 1 then BitVec.ofInt 64 (sext (8 * 2 ^ (w.f % 4)) n) else BitVec.ofNat 64 n
    pure fun v => v.setLate w.d r) s

/-- ST. -/
def execSt (c k x : Nat) (s : State) : Out :=
  memOp 0x21 c k x (fun w => 2 ^ w.f) (fun p a w v => do
    wrN (.cell c k) p none a (2 ^ w.f) (v.reg w.b).toNat
    pure id) s

/-- What AADD stores: type, old value, addend (R162). -/
def aaddVal (f old g : Nat) : Nat :=
  match f with
  | 0 => (old + g) % 2 ^ 32
  | 1 => add32 old (g % 2 ^ 32)
  | _ =>
    let v (n : Nat) : Int := codeInt .i8 (n % 256)
    toBits 8 (clampI (-127) 127 (v old + v g))

/-- What AADD returns in gD (R162). -/
def aaddOld (f old : Nat) : W64 :=
  match f with
  | 0 => BitVec.ofInt 64 (sext 32 old)
  | 1 => BitVec.ofNat 64 old
  | _ => BitVec.ofInt 64 (sext 8 old)

/-- AADD. -/
def execAadd (c k x : Nat) (s : State) : Out :=
  memOp 0x22 c k x (fun w => if w.f = 2 then 1 else 4) (fun p a w v => do
    let n := if w.f = 2 then 1 else 4
    let old ← rdAtomic (.cell c k) p none a n
    wrN (.cell c k) p none a n (aaddVal w.f old (v.reg w.b).toNat)
    pure fun v => v.setLate w.d (aaddOld w.f old)) s

/-- ASWP. -/
def execAswp (c k x : Nat) (s : State) : Out :=
  memOp 0x23 c k x (fun w => if w.f = 0 then 4 else 8) (fun p a w v => do
    let n := if w.f = 0 then 4 else 8
    let old ← rdAtomic (.cell c k) p none a n
    wrN (.cell c k) p none a n (v.reg w.b).toNat
    pure fun v => v.setLate w.d (BitVec.ofNat 64 old)) s

/-- One read of WAITM: on a match the context goes on, else it waits in WAIT_SYNC (R163). -/
def waitmRead (c k x : Nat) (w : CellWord) (s : State) : State :=
  let v := ctxOf s c k x
  let a := effAddr v w
  if a % 8 ≠ 0 then ctxFault c k x 0x01 0x05_0003 s
  else ctxRun c k x (do
    if badAddr a then throw (.viol 0 (a % 2 ^ 48)) else pure ()
    let n ← rdN (.cell c k) (ctxPart s c k x) none a 8
    if BitVec.ofNat 64 n &&& v.reg w.b = v.reg w.d then modify (ctxNext c k x id)
    else modify (ctxStay c k x)) s

/-- WAITM: the first read. -/
def execWaitm (c k x : Nat) (s : State) : Out :=
  cellOp 0x24 c k x (fun w s => if (ctxOf s c k x).st = .ready then waitmRead c k x w s else s) s

/-- WAITM_REREAD: a later read while the context waits in WAIT_SYNC. -/
def execWaitmReread (c k x : Nat) (s : State) : Out :=
  cellOp 0x24 c k x (fun w s => if (ctxOf s c k x).st = .waitSync then waitmRead c k x w s else s) s

/-- A code that bank b of cluster c may take (R276). -/
def codeOk (s : State) (c b code : Nat) : Bool :=
  let kind := code % 16
  let unit := bits code 8 4
  decide (code < 2 ^ 9) &&
    match kind with
    | 0 => unit == 0
    | 1 => decide (unit < (clu s c).ncell) && (decide (b < 64) || unit == (b - 64) / 16)
    | 2 => decide (unit < 2)
    | 3 => unit == 0
    | 4 => unit == 0
    | 5 => unit == 0
    | _ => false

/-- Start a handover of a bank (R278): the code waits for the drain. -/
def startHandover (c b code : Nat) (giver : Option Nat) (s : State) : State :=
  modBank c b (fun v => { v with pending := some code, giver := giver }) s

/-- GIVE (R164, R276). -/
def execGive (c k x : Nat) (s : State) : Out :=
  cellOp 0x25 c k x (fun w s =>
    let v := ctxOf s c k x
    let a := (v.reg w.a).toNat
    let p := ctxPart s c k x
    ctxRun c k x (do
      if badAddr a then throw (.viol 0 (a % 2 ^ 48)) else pure ()
      let ks ← keysOf (.cell c k) p none a 1
      let s ← get
      let cb := bankOfKey (ks.headD 0)
      let code := (v.reg w.b).toNat % 2 ^ 16
      if codeOk s cb.1 cb.2 code then
        modify fun s => ctxNext c k x id (startHandover cb.1 cb.2 code (some (4 * (32 * c + k) + x)) s)
      else do
        modify (flagP p Reg.BNK_ERR 0)
        throw (.viol 1 a)) s) s

/-! ### Synchronisation (R178 to R181) -/

/-- Add to or set a cluster flag. -/
def setFlag (c f v : Nat) (s : State) : State :=
  modClu c (fun q => { q with flags := mset 0 q.flags f (v % 2 ^ 32) }) s

/-- A cluster flag (R179). -/
def flagOf (s : State) (c f : Nat) : Nat := mget 0 (clu s c).flags f

/-- SIG (R161, R179). -/
def execSig (c k x : Nat) (s : State) : Out :=
  cellOp 0x41 c k x (fun w s =>
    let g := ((ctxOf s c k x).reg w.a).toNat % 2 ^ 32
    ctxNext c k x id (setFlag c w.imm (if w.f = 0 then flagOf s c w.imm + g else g) s)) s

/-- Flag f has reached v: (f - v) modulo 2^32 is below 2^31 (R179). -/
def flagMet (f v : Nat) : Bool := decide ((f + 2 ^ 32 - v % 2 ^ 32) % 2 ^ 32 < 2 ^ 31)

/-- WAITF (R179). -/
def execWaitf (c k x : Nat) (s : State) : Out :=
  cellOp 0x42 c k x (fun w s =>
    if flagMet (flagOf s c w.imm) ((ctxOf s c k x).reg w.a).toNat then ctxNext c k x id s
    else ctxStay c k x s) s

/-- An engine operation was issued by context x, or, for none, by any context of the engine's task. -/
def byCtx (v : Cell) (x : Option Nat) (ox ot : Nat) : Bool :=
  match x with
  | none => true
  | some x => x == ox && (v.ctxOf x).task == some ot

/-- Every BUILD of the context has written its last slot (Table 5.12, BUILDS). -/
def buildsDone (v : Cell) (x : Option Nat) : Bool := v.builds.all fun b => !byCtx v x b.x b.task

/-- Every SWEEP of the context has completed on the cell (Table 5.12, SWEEPS). -/
def sweepsDone (v : Cell) (x : Option Nat) : Bool :=
  let f (w : Option Sweep) : Bool := match w with | none => true | some w => !byCtx v x w.x w.task
  f v.run && f v.pend

/-- Every FENCE of the context has completed (Table 5.12, FENCE). -/
def fencesDone (v : Cell) (x : Option Nat) : Bool := v.fences.all fun b => !byCtx v x b.x b.task

/-- The result record of the context's last QPUSH: its first 8 bytes, 0 if it never pushed (Table 5.12). -/
def qjobWord (s : State) (v : Ctx) : Nat :=
  match v.qrec with
  | none => 0
  | some a => leNat (peeks s (a % 2 ^ 37) 8)

/-- WAIT (R173, R178). -/
def execWait (c k x : Nat) (s : State) : Out :=
  cellOp 0x40 c k x (fun w s =>
    let v := cellOf s c k
    let cx := v.ctxOf x
    let mine : Bool := v.engOwner == cx.task
    match w.f with
    | 0 => if buildsDone v (some x) then ctxNext c k x id s else ctxStay c k x s
    | 1 =>
      if sweepsDone v (some x) then ctxNext c k x id s
      else ctxStay c k x (modCell c k (Cell.closeOf x) s)
    | 2 => if fencesDone v (some x) then ctxNext c k x id s else ctxStay c k x s
    | 3 => if gives s c k x then ctxStay c k x s else ctxNext c k x id s
    | 4 =>
      let q := qjobWord s cx
      if cx.qrec = none ∨ bitAt q 7 then
        ctxNext c k x (fun v => v.setReg w.d (BitVec.ofNat 64 q)) s
      else ctxStay c k x s
    | _ =>
      if !mine || (buildsDone v none && sweepsDone v none && fencesDone v none) then ctxNext c k x id s
      else ctxStay c k x (modCell c k Cell.closeAll s)) s

/-- BAR: the context arrives once its stores are acknowledged and its sweeps complete (R180). -/
def execBar (c k x : Nat) (s : State) : Out :=
  cellOp 0x43 c k x (fun _ s =>
    let s := modCell c k (Cell.closeOf x) s
    if gives s c k x || !sweepsDone (cellOf s c k) (some x) then ctxStay c k x s
    else noteArrival c k (modCtx c k x (fun v => { v with arrived := true, st := .waitSync }) (issued c k x s))) s

/-- RDSYS (Table 5.11). -/
def execRdsys (c k x : Nat) (s : State) : Out :=
  cellOp 0x50 c k x (fun w s =>
    let v := cellOf s c k
    let r : Int := match w.imm with
      | 0 => Int.ofNat (cellCycles s c)
      | 1 => Int.ofNat (cellIsland s c k)
      | 2 => Int.ofNat k
      | 3 => Int.ofNat c
      | 4 => Int.ofNat x
      | 5 => Int.ofNat (v.curWtag + 16 * v.curAdig)
      | 6 => Int.ofNat v.rq.length
      | _ => (v.cb.map fun q => q.e).getD 0
    ctxNext c k x (fun q => q.setReg w.d (BitVec.ofInt 64 r)) s) s

/-- Some context of the cell holds a task and none is READY (LUT_NOREADY, Table 5.16). -/
def noReady (s : State) (c k : Nat) : Bool :=
  ((upto 4).any fun x => (ctxOf s c k x).task.isSome) && !((upto 4).any fun x => readyCtx s c k x)

end Sys2Proof.Machine
end

