-- ==== Sys2Proof/Machine/Engine.lean ====
section
/-!
DEFINITION. The LUT engine's events (chapter 3 and R165 to R176): builds, sweeps, fences, row blocks, lanes, the
reorder unit and write-out, and tongue requests.
-/
namespace Sys2Proof.Machine

/-- An engine operation of a context that can be accepted: it claims the engine for its task (R146). -/
def engineOp (op c k x : Nat) (body : CellWord → Nat → State → State) (s : State) : Out :=
  cellOp op c k x (fun w s =>
    let t := (ctxOf s c k x).task.getD 0
    body w t (modCell c k (fun v => { v with engOwner := some t }) s)) s

/-- Take the next issue number of the cell. -/
def takeOrd (c k : Nat) (s : State) : State := modCell c k (fun v => { v with ord := v.ord + 1 }) s

/-! ### Builds (R165, R166, R66 to R75) -/

/-- A build's settings from its operands (Table 5.8). -/
def buildOf (ord x t pc : Nat) (w : CellWord) (ga gb gd : Nat) : BuildJob :=
  { ord := ord, x := x, task := t, pc := pc, src := bits ga 47 0, base := bits gb 8 0, set := bits gb 9 9,
    count := bits gb 20 10 + 1, first := bits gb 36 21, offs := bits gd 47 0, sgrp := bits gd 49 48,
    nooff := bitAt gd 50, atag := bits w.imm 3 0, mode := bits w.imm 5 4, pfmt := bits w.imm 9 6 }

/-- BUILD: accepted into the issue queue of 4 (R166). -/
def execBuild (c k x : Nat) (s : State) : Out :=
  engineOp 0x30 c k x (fun w t s =>
    let v := cellOf s c k
    let cx := v.ctxOf x
    let b := buildOf v.ord x t cx.pc w (cx.reg w.a).toNat (cx.reg w.b).toNat (cx.reg w.d).toNat
    if b.src % 2 ≠ 0 then ctxFault c k x 0x01 0x05_0003 s
    else ctxNext c k x id (takeOrd c k (modCell c k (fun v => { v with builds := v.builds ++ [b] }) s))) s

/-- Digits of an activation format (Table 3.4). -/
def digitsOf (atag : Nat) : Nat := if atag = 7 then 2 else 1

/-- Slots a build fills (R66). -/
def buildSlots (b : BuildJob) : Nat := if b.mode = modeProduct then b.count else cdiv b.count 4 * digitsOf b.atag

/-- Group size S of a 2-bit code (Table 5.8). -/
def groupSize (g : Nat) : Nat := 32 * 2 ^ g

/-- Slot i of a build from its activation codes and group offsets (R68, R69, R74, R75, R79). -/
def buildSlot (b : BuildJob) (fm : Fmt) (pf : Fmt) (k : List Int) (act off : Nat → Nat) (i : Nat) : TSlot :=
  let d := digitsOf b.atag
  if b.mode = modeProduct then
    let a := if i < b.count then actVal fm (act i) else 0
    { built := true, mode := b.mode, pfmt := b.pfmt, adig := d - 1, digit := 0, z := a == 0,
      off := off ((b.first + i) / groupSize b.sgrp), t := prodTable pf k a }
  else
    let g := i / d
    let dg := i % d
    let xs (j : Nat) : Int := if 4 * g + j < b.count then digit fm (act (4 * g + j)) (if d = 1 then 0 else dg) else 0
    { built := true, mode := b.mode, pfmt := 0, adig := d - 1, digit := dg,
      z := xs 0 == 0 && xs 1 == 0 && xs 2 == 0 && xs 3 == 0,
      off := off ((b.first + 4 * g) / groupSize b.sgrp), t := groupTable (b.mode == modeSigned) xs }

/-- A build whose start waits on a sweep issued before it that reads its set (R72). -/
def buildHeld (v : Cell) (b : BuildJob) : Bool :=
  let f (w : Option Sweep) : Bool := match w with | none => false | some w => w.set == b.set && decide (w.ord < b.ord)
  f v.run || f v.pend

/-- The group offsets of a scale-block row, its exponent word checked (R57, R166). -/
def readOffsets (m : Master) (p a n : Nat) : EM (List Byte) := do
  let h ← rd m p none a 2
  if complOk 8 (byteOf h 0).toNat (byteOf h 1).toNat then rd m p none (a + 2) (3 * cdiv n 8)
  else throw (.fail 0x0D 0x04_0009 (some a))

/-- The build's own work: checks, reads and slots (R166, R70). -/
def runBuild (c k : Nat) (b : BuildJob) : EM Unit := do
  let s ← get
  let v := cellOf s c k
  let p := (taskOf s b.task).part
  let fm := if b.atag = 4 then Fmt.i4 else Fmt.i8
  let pf := fmtOf b.pfmt
  if b.atag ≠ 4 ∧ b.atag ≠ 7 then throw (.fail 0x01 0x03_0002) else pure ()
  if b.mode = modeProduct ∧ pf ≠ some .l4 ∧ pf ≠ some .f4 ∧ pf ≠ some .c4 then throw (.fail 0x01 0x03_0002) else pure ()
  if b.first % 4 ≠ 0 ∨ (b.sgrp = 3 ∧ !b.nooff) ∨ 512 < b.base + buildSlots b then throw (.fail 0x01 0x03_0003) else pure ()
  let c4 : Bool := b.mode = modeProduct && pf == some .c4
  if c4 && v.cb.isNone then throw (.fail 0x01 0x03_0006) else pure ()
  let l ← rd (.cell c k) p none b.src (packedBytes fm b.count)
  let groups := if b.nooff then 0 else (b.first + b.count - 1) / groupSize b.sgrp + 1
  let ol ← if b.nooff then pure [] else readOffsets (.cell c k) p b.offs groups
  let cb := v.cb.getD {}
  let slot (i : Nat) : TSlot :=
    buildSlot b fm (pf.getD .l4) cb.k (codeAt fm (byteOf l)) (fun g => if b.nooff then 0 else offAt (byteOf ol) g) i
  modify (modCell c k fun v =>
    let v := (upto (buildSlots b)).foldl (fun v i =>
      { v with slots := mset {} v.slots (512 * b.set + b.base + i) (slot i) }) v
    if c4 then { v with setCb := mset {} v.setCb b.set cb } else v)

/-- BUILD_START: the oldest accepted build runs, unless a sweep holds it (R71, R72). -/
def execBuildStart (c k : Nat) (s : State) : Out :=
  if 96 ≤ c ∨ 32 ≤ k then .fault .noSuchUnit
  else
    let v := cellOf s c k
    match v.builds with
    | [] => .next s
    | b :: r =>
      if !awake s c || v.frozen || buildHeld v b then .next s
      else
        let s := cellRun c k b.x b.task b.pc (runBuild c k b) (modCell c k (fun v => { v with builds := r }) s)
        .next (modCell c k Cell.release s)

/-! ### Sweeps (R167 to R172) -/

/-- A sweep from its word and its record's words 0 to 5 (Tables 5.9, 5.10). -/
def sweepOf (ord idx x t pc g : Nat) (r : Nat → Nat) : Sweep :=
  { ord := ord, x := x, task := t, pc := pc, idx := idx, base := bits g 8 0, set := bits g 9 9, count := bits g 18 10 + 1,
    tokens := bits g 22 19 + 1, wtag := bits g 26 23, wout := bits g 29 27, steal := bitAt g 30, adig := bits g 31 31,
    outBase := bits (r 0) 47 0, rowStride := sext 32 (bits (r 1) 31 0), tokStride := sext 32 (bits (r 1) 63 32),
    tagBase := bits (r 2) 31 0, cstBase := bits (r 2) 45 32, foldC := sext 8 (bits (r 2) 53 46),
    iscale := bits (r 3) 47 0, isStride := bits (r 4) 31 0, osu := bits (r 4) 47 32, oscale := bits (r 5) 47 0 }

/-- SWEEP: its record is read and it becomes the pending sweep (R167, R171, R173). -/
def execSweep (c k x : Nat) (s : State) : Out :=
  engineOp 0x31 c k x (fun w t s =>
    let v := cellOf s c k
    let cx := v.ctxOf x
    let g := (cx.reg w.a).toNat
    let a := (cx.reg w.b).toNat
    if 4 < bits g 29 27 then ctxFault c k x 0x01 0x05_0005 s
    else if a % 8 ≠ 0 then ctxFault c k x 0x01 0x05_0003 s
    else ctxRun c k x (do
      if badAddr a then throw (.viol 0 (a % 2 ^ 48)) else pure ()
      let l ← rd (.cell c k) (taskOf s t).part none a 48
      let r (i : Nat) : Nat := leNat ((l.drop (8 * i)).take 8)
      modify fun s => ctxNext c k x id (takeOrd c k (modCell c k (fun v =>
        let v := v.closeAll
        { v with pend := some (sweepOf v.ord v.sweeps x t cx.pc g r), sweeps := v.sweeps + 1 }) s))) s) s

/-- Result bytes of a write-out format (Table 3.8); 0 stands for half a byte. -/
def woutBytes (o : Nat) : Nat := match o with | 0 => 8 | 1 => 4 | 2 => 4 | 3 => 1 | _ => 0

/-- The write-out settings of a sweep are aligned (R169). -/
def woutOk (w : Sweep) : Bool :=
  match w.wout with
  | 4 => w.rowStride == 1 && w.tokStride % 2 == 0 && w.tagBase % 16 == 0
  | _ =>
    let n := woutBytes w.wout
    w.rowStride % n == 0 && w.tokStride % n == 0 && w.outBase % n == 0

/-- A slot was built, or a build issued before the sweep is queued for it (R73). -/
def slotComes (v : Cell) (w : Sweep) (i : Nat) : Bool :=
  (mget {} v.slots (512 * w.set + i)).built ||
    v.builds.any fun b => b.set == w.set && decide (b.ord < w.ord) && decide (b.base ≤ i) && decide (i < b.base + buildSlots b)

/-- Exponents of n tokens (R170). -/
def readExps (m : Master) (p a stride : Nat) : Nat → EM (List Int)
  | 0 => pure []
  | n + 1 => do
    let l ← readExps m p a stride n
    let h ← rd m p none (a + n * stride) 2
    match expOf (byteOf h 0) (byteOf h 1) with
    | some e => pure (l ++ [e])
    | none => throw (.fail 0x0D 0x04_0009 (some (a + n * stride)))

/-- The checks and reads of a sweep's start (R67, R73, R88, R100, R169, R170). -/
def startSweep (c k : Nat) (w : Sweep) : EM Unit := do
  let s ← get
  let v := cellOf s c k
  match fmtOf w.wtag with
  | none => throw (.fail 0x01 0x03_0002)
  | some f => do
    if !isWeight f then throw (.fail 0x01 0x03_0002) else pure ()
    let n := w.count / w.tokens
    if 512 < w.base + w.count ∨ w.count % w.tokens ≠ 0 ∨ (w.adig = 1 ∧ wmode f ≠ modeProduct ∧ n % 2 ≠ 0) then
      throw (.fail 0x01 0x03_0003) else pure ()
    if w.wtag ≠ v.curWtag ∨ w.adig ≠ v.curAdig then throw (.fail 0x01 0x03_0001) else pure ()
    if !(upto w.count).all fun i => slotComes v w (w.base + i) then throw (.fail 0x01 0x03_0003) else pure ()
    if !woutOk w then throw (.fail 0x01 0x05_0005) else pure ()
    let et ← if w.wout < 2 then pure [] else readExps (.cell c k) (taskOf s w.task).part w.iscale w.isStride w.tokens
    modify (modCell c k fun v => { v with run := some { w with et := et, openRows := w.openRows }, pend := none })

/-- SWEEP_START (R171). -/
def execSweepStart (c k : Nat) (s : State) : Out :=
  if 96 ≤ c ∨ 32 ≤ k then .fault .noSuchUnit
  else
    let v := cellOf s c k
    match v.pend with
    | none => .next s
    | some w =>
      if v.run.isSome || v.frozen || !awake s c || v.fences.any (fun f => decide (f.ord < w.ord)) then .next s
      else .next (cellRun c k w.x w.task w.pc (startSweep c k w) s)

/-- SWEEP_COMPLETE (R172). -/
def execSweepComplete (c k : Nat) (s : State) : Out :=
  if 96 ≤ c ∨ 32 ≤ k then .fault .noSuchUnit
  else
    let v := cellOf s c k
    match v.run with
    | none => .next s
    | some w =>
      let held := (upto 64).any fun l => match mget none v.lanes l with | none => false | some r => r.sweep == w.ord
      let stealing := w.steal && !v.quiet && !w.searchDone
      let coming := v.tongue.isSome || s.given.any fun g => g.thief == 32 * c + k && g.blk.isSome
      when (!w.openRows && !(v.rq.any fun b => b.sweep == w.ord) && !held && v.opened.isEmpty && !stealing && !coming)
        (modCell c k fun v => Cell.release { v with run := none }) s

/-! ### Fences (R101, R174) -/

/-- FENCE: enters the order of sweeps and fences; the context goes on at once. -/
def execFence (c k x : Nat) (s : State) : Out :=
  engineOp 0x32 c k x (fun w t s =>
    ctxNext c k x id (takeOrd c k (modCell c k (fun v =>
      { v with fences := v.fences ++ [{ ord := v.ord, x := x, task := t, wtag := bits w.imm 3 0, adig := bits w.imm 4 4 }] })
      s))) s

/-- FENCE_COMPLETE: the oldest fence, once no sweep before it is left and nothing is held (R101). -/
def execFenceComplete (c k : Nat) (s : State) : Out :=
  if 96 ≤ c ∨ 32 ≤ k then .fault .noSuchUnit
  else
    let v := cellOf s c k
    match v.fences with
    | [] => .next s
    | f :: r =>
      let before := match v.pend with | none => false | some w => decide (w.ord < f.ord)
      when (v.run.isNone && !before && v.opened.isEmpty && (upto 64).all fun l => (mget none v.lanes l).isNone)
        (modCell c k fun v => Cell.release { v with fences := r, curWtag := f.wtag, curAdig := f.adig }) s

/-! ### Row blocks (R88, R89, R173) -/

/-- A row block entry (Table 3.7). -/
def blockOf (sweep w0 w1 : Nat) : Block :=
  { first := bits w0 31 0, count := bits w0 36 32, pin := bitAt w0 37, wtag := bits w0 43 40,
    wbase := bits w0 63 48 + bits w1 31 0 * 2 ^ 16, wstride := bits w1 63 32, sweep := sweep }

/-- The most recently issued sweep of the cell's engine. -/
def Cell.newest (v : Cell) : Option Sweep := match v.pend with | some w => some w | none => v.run

/-- Close the row set of the newest sweep. -/
def Cell.closeNewest (v : Cell) : Cell :=
  match v.pend with
  | some w => { v with pend := some { w with openRows := false } }
  | none => { v with run := v.run.map fun w => { w with openRows := false } }

/-- RQPUSH: as many entries as the queue has room for; the context waits until the last is in (R173). -/
def execRqpush (c k x : Nat) (s : State) : Out :=
  engineOp 0x33 c k x (fun w t s =>
    let v := cellOf s c k
    let cx := v.ctxOf x
    let a := (cx.reg w.a).toNat
    let n := w.imm % 64
    match v.newest with
    | none => ctxFault c k x 0x01 0x05_0004 s
    | some sw =>
      if !sw.openRows ∨ sw.task ≠ t then ctxFault c k x 0x01 0x05_0004 s
      else if a % 16 ≠ 0 then ctxFault c k x 0x01 0x05_0003 s
      else
        let room := 32 - v.rq.length
        let m := min room (n - cx.pushed)
        ctxRun c k x (do
          if badAddr a then throw (.viol 0 (a % 2 ^ 48)) else pure ()
          let l ← rd (.cell c k) (taskOf s t).part none (a + 16 * cx.pushed) (16 * m)
          let r (i : Nat) : Nat := leNat ((l.drop (8 * i)).take 8)
          let bs := (upto m).map fun i => blockOf sw.ord (r (2 * i)) (r (2 * i + 1))
          modify (modCell c k fun v => { v with rq := v.rq ++ bs })
          if cx.pushed + m = n then
            modify fun s => ctxNext c k x id
              (if bitAt w.imm 6 then modCell c k Cell.closeNewest s else s)
          else
            modify fun s => modCtx c k x (fun q => { q with pushed := cx.pushed + m, st := .waitEngine }) (issued c k x s)) s) s

/-- The sweep of an issue number, running or pending. -/
def Cell.sweepAt (v : Cell) (o : Nat) : Option Sweep :=
  match v.run with
  | some w => if w.ord = o then some w else v.pend.bind fun w => if w.ord = o then some w else none
  | none => v.pend.bind fun w => if w.ord = o then some w else none

/-- Bytes of one row's weights (R77). -/
def rowBytes (w : Sweep) (f : Fmt) : Nat := packedBytes f (rowElems f (w.adig + 1) (w.count / w.tokens))

/-- Read the rows of a block as the loader does, through a cluster stream engine for the cell's domain (R89, R301). -/
def readRows (c k p : Nat) (b : Block) (n : Nat) : Nat → EM (List Byte)
  | 0 => pure []
  | i + 1 => do
    let l ← readRows c k p b n i
    let r ← rd (.str c (k / 16)) p (some (ownCell k)) (b.wbase + i * b.wstride) n
    pure (l ++ r)

/-- The next block the loader stages: the first unstaged one of the running sweep, then of the pending one, at most two ahead
in each (R89; log 26). -/
def nextToStage (v : Cell) : Option Nat :=
  let qs := v.rq.zip (upto v.rq.length)
  let next (w : Sweep) : Option Nat :=
    let ahead := (v.rq.filter fun b => b.sweep == w.ord && b.staged.isSome && b.taken == 0).length
    if 2 ≤ ahead then none else (qs.find? fun q => q.1.sweep == w.ord && q.1.staged.isNone).map fun q => q.2
  match v.run.bind next with
  | some i => some i
  | none => v.pend.bind next

/-- Replace the block at place i of the row queue. -/
def setBlock (i : Nat) (f : Block → Block) (v : Cell) : Cell :=
  { v with rq := (v.rq.zip (upto v.rq.length)).map fun q => if q.2 = i then f q.1 else q.1 }

/-- A row block entry the sweep may start (R88). -/
def blockOk (w : Sweep) (b : Block) : Bool :=
  decide (1 ≤ b.count) && decide (b.count ≤ 16) && b.first % 16 == 0 && b.wtag == w.wtag

/-! ### Lanes (R90, R102) -/

/-- A queued build issued before the sweep still has to fill a slot the sweep reads (R73). -/
def slotsAwaited (v : Cell) (w : Sweep) : Bool :=
  v.builds.any fun b => b.set == w.set && decide (b.ord < w.ord) && decide (b.base < w.base + w.count) &&
    decide (w.base < b.base + buildSlots b)

/-- A slot matches the sweep (R102). -/
def slotMatches (w : Sweep) (f : Fmt) (sl : TSlot) : Bool :=
  sl.built && sl.mode == wmode f && sl.adig == w.adig && (wmode f != modeProduct || sl.pfmt == w.wtag)

/-- The look-ups of every token of row r of a block (R78, R80). -/
def blockLooks (v : Cell) (w : Sweep) (f : Fmt) (wts : List Byte) (r : Nat) : List (List LookUp) :=
  let n := w.count / w.tokens
  let nb := rowBytes w f
  let code := codeAt f (fun i => byteOf wts (r * nb + i))
  (upto w.tokens).map fun t =>
    rowLooks f (w.adig + 1) n (fun i => mget {} v.slots (512 * w.set + w.base + t * n + i)) code

/-- The lowest idle lane of the lowest lane group that has one and has not been handed a row in the present cycle (R90). -/
def idleLane (v : Cell) (took : List Nat) : Option Nat :=
  (upto 64).find? fun l => (mget none v.lanes l).isNone && !took.contains (l / 16)

/-- Hand the next row to a lane: its look-ups added into accumulators a0 to a(T-1), cleared first (R84). -/
def takeRow (v : Cell) (w : Sweep) (f : Fmt) (i lane : Nat) : Cell :=
  let b := v.rq.getD i {}
  let b := if b.taken = 0 then { b with no := v.opens } else b
  let wts := b.staged.getD []
  let ls := blockLooks v w f wts b.taken
  let all := ls.flatten
  let nb := rowBytes w f
  let code := codeAt f (fun j => byteOf wts (b.taken * nb + j))
  let esc := escCount f (rowElems f (w.adig + 1) (w.count / w.tokens)) code * w.tokens
  let inc (j n : Nat) (m : SMap Nat) : SMap Nat := mset 0 m j (satAdd 32 (mget 0 m j) n)
  let v := { v with
    acc := (ls.zip (upto w.tokens)).foldl (fun a q => mset 0 a (16 * lane + q.2) (hold48 (lookSum q.1))) v.acc
    accEcc := (upto w.tokens).foldl (fun m t => merase m (16 * lane + t)) v.accEcc
    opens := if b.taken = 0 then v.opens + 1 else v.opens
    cnt := inc 3 esc (inc 2 (countLook .skipWgt all) (inc 1 (countLook .skipAct all) (inc 0 (countLook .issue all) v.cnt)))
    lanes := mset none v.lanes lane (some { sweep := w.ord, block := b.no, tag := b.first + b.taken, tokens := w.tokens })
    opened := if b.taken = 0 then v.opened ++ [{ blk := { b with staged := none } }] else v.opened }
  if b.taken + 1 = b.count then
    { v with rq := ((v.rq.zip (upto v.rq.length)).filter fun q => q.2 != i).map fun q => q.1 }
  else setBlock i (fun _ => { b with taken := b.taken + 1 }) v

/-- The row block of the running sweep that lanes take rows of: the first in the queue, with its place. -/
def headBlock (v : Cell) (w : Sweep) : Option (Block × Nat) :=
  (v.rq.zip (upto v.rq.length)).find? fun q => q.1.sweep == w.ord

/-- A correctable word of the row queue or table store that a lane meets is corrected and counted (R108, R291). -/
def fixSlots (c k : Nat) (w : Sweep) (i : Nat) (s : State) : State :=
  let v := cellOf s c k
  let bad := (upto w.count).filter fun j => (mget {} v.slots (512 * w.set + w.base + j)).ecc == 1
  let s := bad.foldl (fun s j => sramCorr c (modCell c k (fun v =>
    let n := 512 * w.set + w.base + j
    { v with slots := mset {} v.slots n { mget {} v.slots n with ecc := 0 } }) s)) s
  if (v.rq.getD i {}).ecc = 1 then sramCorr c (modCell c k (setBlock i fun b => { b with ecc := 0 }) s) else s

/-- LANE_TAKE_ROW: an idle lane takes the next row of the running sweep; `same` says that it does so in the cycle in which the
cell last handed out a row (R90). -/
def execLaneTakeRow (c k : Nat) (same : Bool) (s : State) : Out :=
  if 96 ≤ c ∨ 32 ≤ k then .fault .noSuchUnit
  else
    let v := cellOf s c k
    match v.run with
    | none => .next s
    | some w =>
      let took := if same then v.took else []
      match headBlock v w, idleLane v took, fmtOf w.wtag with
      | some (b, i), some lane, some f =>
        let fault (st dt : Nat) (s : State) : State := cellFault c k w.x w.task w.pc st dt s
        if v.frozen || !awake s c || slotsAwaited v w then .next s
        else if b.ecc = 2 then .next (cellUnc c k w.x w.task w.pc 0x05_0007 s)
        else if b.taken = 0 ∧ !blockOk w b then .next (fault 0x01 0x03_0005 s)
        else if b.taken = 0 ∧ b.first < w.tagBase then .next (fault 0x01 0x05_0005 s)
        else if b.staged.isNone ∨ (b.taken = 0 ∧ 8 ≤ v.opened.length) then .next s
        else
          let sl (j : Nat) : TSlot := mget {} v.slots (512 * w.set + w.base + j)
          if (upto w.count).any fun j => (sl j).ecc == 2 then .next (cellUnc c k w.x w.task w.pc 0x05_0007 s)
          else if !(upto w.count).all fun j => slotMatches w f (sl j) then .next (fault 0x01 0x03_0004 s)
          else .next (modCell c k (fun v => { takeRow v w f i lane with took := lane / 16 :: took }) (fixSlots c k w i s))
      | _, _, _ => .next s

/-! ### Retirement and write-out (R91 to R94, R131, R169, R170) -/

/-- The channel scale of a row, checked (R129, R131). -/
def rowScale (c : Nat) (w : Sweep) (f : Fmt) (ecb : Int) (tag : Nat) : EM (Int × Nat) := do
  let s ← get
  let i := w.cstBase + (tag - w.tagBase)
  if 16384 ≤ i then throw (.fail 0x01 0x04_0007)
  else match cstOf (mget 0xFFFF_0000 (clu s c).cst i) with
    | none => do
      modify (flagC c Reg.QNT_ERR 1)
      throw (.fail 0x0D 0x04_0009)
    | some (ew, rqs) =>
      if 3 ≤ w.wout ∧ ew + eFmt f ecb + rqs ≠ w.foldC then throw (.fail 0x01 0x04_0006) else pure (ew, rqs)

/-- The scales of n rows from a tag on; none are read for RECORD and I32. -/
def rowScales (c : Nat) (w : Sweep) (f : Fmt) (ecb : Int) (tag : Nat) : Nat → EM (List (Int × Nat))
  | 0 => pure []
  | n + 1 => do
    let l ← rowScales c w f ecb tag n
    if w.wout < 2 then pure (l ++ [(0, 0)])
    else do
      let q ← rowScale c w f ecb (tag + n)
      pure (l ++ [q])

/-- One result's bytes for the formats of whole bytes (Table 3.8). -/
def woutResult (w : Sweep) (f : Fmt) (ecb : Int) (a : Int) (t : Nat) (sc : Int × Nat) : List Byte :=
  match w.wout with
  | 0 => leBytes 8 (recordWord a w.wtag w.adig)
  | 1 => leBytes 4 (toBits 32 (sat32 a))
  | 2 => leBytes 4 (outF32 a (w.et.getD t 0 + sc.1 + eFmt f ecb))
  | _ => leBytes 1 (toBits 8 (requant 127 (sat32 a) sc.2))

/-- Address of the result of a tag and token, in bytes (R169), modulo 2^48 (log 68). -/
def woutAddr (w : Sweep) (tag t : Nat) : Nat :=
  toBits 48 ((w.outBase : Int) + (Int.ofNat tag - w.tagBase) * w.rowStride + Int.ofNat t * w.tokStride)

/-- The two I4 codes of a byte of an I4 write-out. -/
def nibbles (l : List Nat) (i : Nat) : Byte := BitVec.ofNat 8 (l.getD (2 * i) 0 % 16 + 16 * (l.getD (2 * i + 1) 0 % 16))

/-- Write a released block (R93, R169, R170). -/
def writeOut (c k : Nat) (w : Sweep) (f : Fmt) (ob : OpenBlock) : EM Unit := do
  let s ← get
  let p := (taskOf s w.task).part
  let m := Master.cell c k
  let ecb := (mget {} (cellOf s c k).setCb w.set).e
  let b := ob.blk
  let scs ← rowScales c w f ecb b.first b.count
  let row (r : Nat) : List Int := mget [] ob.rows (b.first + r)
  let sat := ((upto b.count).map fun r => ((row r).filter fun a => sat32 a != a).length).sum
  if 3 ≤ w.wout ∧ b.first = w.tagBase then
    (upto w.tokens).forM fun t =>
      wr m p none (w.oscale + t * (2 + 3 * w.osu))
        (leBytes 2 (expWord (w.et.getD t 0)) ++ List.replicate (3 * w.osu) 0)
  else pure ()
  if w.wout = 4 then
    (upto w.tokens).forM fun t =>
      let codes := (upto b.count).map fun r => toBits 4 (requant 7 (sat32 ((row r).getD t 0)) (scs.getD r (0, 0)).2)
      let d : Int := (Int.ofNat b.first - w.tagBase) + Int.ofNat t * w.tokStride
      wr m p none (toBits 48 ((w.outBase : Int) + d / 2)) ((upto (cdiv b.count 2)).map (nibbles codes))
  else
    (upto b.count).forM fun r => (upto w.tokens).forM fun t =>
      wr m p none (woutAddr w (b.first + r) t) (woutResult w f ecb ((row r).getD t 0) t (scs.getD r (0, 0)))
  if w.wout = 0 then pure () else modify (bumpCell c k 4 sat)

/-- The worst error among the accumulators of a lane's row (R108). -/
def rowEcc (v : Cell) (l : Nat) (r : LaneRow) : Nat :=
  (upto r.tokens).foldl (fun m t => max m (mget 0 v.accEcc (16 * l + t))) 0

/-- ROW_RETIRE: lane l passes its row to the reorder unit; the block's last row releases and writes the block. An error in an
accumulator or in the reorder unit is met here (R91 to R93, R108). -/
def execRowRetire (c k l : Nat) (s : State) : Out :=
  if 96 ≤ c ∨ 32 ≤ k ∨ 64 ≤ l then .fault .noSuchUnit
  else
    let v := cellOf s c k
    match mget none v.lanes l, v.run with
    | some r, some w =>
      let bad := rowEcc v l r
      if bad = 2 then .next (cellUnc c k w.x w.task w.pc 0x05_0007 s)
      else
        let s := if bad = 1 then sramCorr c s else s
        let sums := (upto r.tokens).map fun t => mget 0 v.acc (16 * l + t)
        let op := v.opened.map fun o => if o.blk.no = r.block then { o with rows := mset [] o.rows r.tag sums } else o
        let full (o : OpenBlock) : Bool := o.blk.no == r.block && o.rows.length == o.blk.count
        let s1 := modCell c k (fun v => { v with
          lanes := mset none v.lanes l none, opened := op.filter (fun o => !full o),
          accEcc := (upto r.tokens).foldl (fun m t => merase m (16 * l + t)) v.accEcc }) s
        match op.find? full, fmtOf w.wtag with
        | some o, some f =>
          if o.ecc = 2 then .next (cellUnc c k w.x w.task w.pc 0x05_0007 s1)
          else
            let s1 := if o.ecc = 1 then sramCorr c s1 else s1
            match runEM (writeOut c k w f o) s1 with
            | .good _ s2 => .next s2
            -- a block is wholly written or not written at all (R93)
            | .stop e s2 => .next (cellStop c k w.x w.task w.pc e { s2 with mem := s1.mem, banks := s1.banks, ecc := s1.ecc })
        | _, _ => .next s1
    | _, _ => .next s

/-! ### Codebook and accumulators (R175, R176) -/

/-- CBLOAD. -/
def execCbload (c k x : Nat) (s : State) : Out :=
  engineOp 0x34 c k x (fun w t s =>
    let a := ((ctxOf s c k x).reg w.a).toNat
    if a % 2 ≠ 0 then ctxFault c k x 0x01 0x05_0003 s
    else ctxRun c k x (do
      if badAddr a then throw (.viol 0 (a % 2 ^ 48)) else pure ()
      let l ← rd (.cell c k) (taskOf s t).part none a 32
      let ws := (upto 16).map fun i => leNat ((l.drop (2 * i)).take 2)
      match convCodebook ws with
      | none => throw (.fail 0x01 0x03_0006)
      | some (ks, e) =>
        modify fun s =>
          let err := max (creg s c Reg.QNT_CB_MAXERR) (codebookErr ws ks e)
          ctxNext c k x id (setCreg c Reg.QNT_CB_MAXERR err (modCell c k (fun v => { v with cb := some ⟨ks, e⟩ }) s))) s) s

/-- Read an accumulator by R82, counting a saturated read. -/
def readAcc (c k lane n : Nat) (s : State) : Int × State :=
  let a := mget 0 (cellOf s c k).acc (16 * lane + n)
  (sat32 a, if sat32 a = a then s else bumpCell c k 4 1 s)

/-- ACCRD: an accumulator in error ends the task (R108, R176). -/
def execAccrd (c k x : Nat) (s : State) : Out :=
  engineOp 0x35 c k x (fun w t s =>
    let lane := ((ctxOf s c k x).reg w.a).toNat % 64
    let key := 16 * lane + w.imm % 16
    let e := mget 0 (cellOf s c k).accEcc key
    if e = 2 then cellUnc c k x t (ctxOf s c k x).pc 0x05_0007 s
    else
      let s := if e = 1 then sramCorr c (modCell c k (fun v => { v with accEcc := merase v.accEcc key }) s) else s
      let r := readAcc c k lane (w.imm % 16) s
      ctxNext c k x (fun q => q.setLate w.d (BitVec.ofInt 64 r.1)) r.2) s

/-! ### Tongue requests (R96 to R98, R351) -/

/-- The cell runs sweep idx of task t. -/
def runsSweep (s : State) (n t idx : Nat) : Bool :=
  let v := cellOf s (n / 32) (n % 32)
  match v.run with
  | some w => w.task == t && w.idx == idx && !v.frozen && !v.quiet
  | none => false

/-- Unstarted blocks of a cell's running sweep. -/
def unstarted (v : Cell) : List Block :=
  match v.run with
  | some w => v.rq.filter fun b => b.sweep == w.ord && b.taken == 0
  | none => []

/-- Victims in the order of R351: cells 32 c + k of the own cluster, then 4096 + c for each other cluster. -/
def victims (s : State) (c k : Nat) (w : Sweep) : List Nat :=
  let own := ((upto 31).map fun i => 32 * c + (k + 1 + i) % 32).filter fun n => runsSweep s n w.task w.idx
  let t := taskOf s w.task
  let after := (t.clus.filter fun d => decide (c < d)) ++ t.clus.filter fun d => decide (d < c)
  own ++ if t.xsteal then after.map fun d => 4096 + d else []

/-- The cell a victim number stands for now: in another cluster the one with the most unstarted blocks (R351). -/
def victimCell (s : State) (w : Sweep) (n : Nat) : Option Nat :=
  if n < 4096 then some n
  else
    let cs := ((upto 32).map fun k => 32 * (n - 4096) + k).filter fun m => runsSweep s m w.task w.idx
    let load (m : Nat) : Nat := (unstarted (cellOf s (m / 32) (m % 32))).length
    cs.foldl (fun b m => match b with | none => some m | some b => if load b < load m then some m else some b) none

/-- TONGUE_REQUEST: a cell with no rows left sends its request to the next victim, or ends its search (R96, R351). -/
def execTongueRequest (c k : Nat) (s : State) : Out :=
  if 96 ≤ c ∨ 32 ≤ k then .fault .noSuchUnit
  else
    let v := cellOf s c k
    match v.run with
    | none => .next s
    | some w =>
      if !w.steal || w.openRows || w.searchDone || v.tongue.isSome || v.quiet || v.frozen || !awake s c ||
          (v.rq.any fun b => b.sweep == w.ord) then .next s
      else
        let set (f : Sweep → Sweep) (v : Cell) : Cell := { v with run := v.run.map f }
        match s.pool.find? fun q => q.task == w.task && q.idx == w.idx with
        | some q =>
          .next { s with pool := s.pool.erase q, given := s.given ++ [{ thief := 32 * c + k, blk := some q.blk }] }
        | none =>
          match (victims s c k w).find? fun n => !w.tried.contains n with
          | none => .next (modCell c k (set fun w => { w with searchDone := true }) s)
          | some n =>
            let s := bumpCell c k 8 1 (modCell c k (fun v => { v with tongue := some n }) s)
            .next (if 4096 ≤ n then bumpC c Reg.DSP_STEAL 0 1 s else s)

/-- What a victim gives: its last unstarted block, if R97 lets it. -/
def giveBlock (v : Cell) : Option Block :=
  let u := unstarted v
  match u.getLast? with
  | some b =>
    let begun : Bool := v.ldGot != 0 && (nextToStage v).any fun i => v.rq.getD i {} == b && !(v.rq.drop (i + 1)).contains b
    if 2 ≤ u.length ∧ !b.pin ∧ b.staged.isNone ∧ !begun then some b else none
  | none => none

/-- Take a block out of a cell's row queue: its last occurrence. -/
def dropBlock (b : Block) (v : Cell) : Cell := { v with rq := ((v.rq.reverse).erase b).reverse }

/-- TONGUE_ANSWER: the victim of the request of cell k answers it (R97). -/
def execTongueAnswer (c k : Nat) (s : State) : Out :=
  if 96 ≤ c ∨ 32 ≤ k then .fault .noSuchUnit
  else
    let v := cellOf s c k
    match v.tongue, v.run with
    | some n, some w =>
      if s.given.any fun g => g.thief == 32 * c + k then .next s
      else
        let refuse := { s with given := s.given ++ [{ thief := 32 * c + k, blk := none }] }
        match victimCell s w n with
        | none => .next refuse
        | some m =>
          let vv := cellOf s (m / 32) (m % 32)
          let same := runsSweep s m w.task w.idx && (vv.run.map fun q => q.steal).getD false
          match giveBlock vv with
          | some b =>
            if same then
              let s := bumpCell (m / 32) (m % 32) 10 1 (modCell (m / 32) (m % 32) (dropBlock b) s)
              .next { s with given := s.given ++ [{ thief := 32 * c + k, blk := some b }] }
            else .next refuse
          | none => .next refuse
    | _, _ => .next s

/-- STOLEN_BLOCK_RECEIVE: the thief queues the given block as its own, or passes the victim over (R98, R351). -/
def execStolenBlockReceive (c k : Nat) (s : State) : Out :=
  if 96 ≤ c ∨ 32 ≤ k then .fault .noSuchUnit
  else
    let v := cellOf s c k
    match s.given.find? (fun g => g.thief == 32 * c + k), v.run with
    | some g, some w =>
      let cross := match v.tongue with | some n => decide (4096 ≤ n) | none => false
      let s1 := { s with given := s.given.erase g }
      match g.blk with
      | none => .next (modCell c k (fun v =>
          { v with tongue := none, run := v.run.map fun w => { w with tried := w.tried ++ v.tongue.toList } }) s1)
      | some b =>
        if 32 ≤ v.rq.length then .next s
        else
          let s2 := bumpCell c k 9 1 (modCell c k (fun v =>
            { v with tongue := none, rq := v.rq ++ [{ b with sweep := w.ord, staged := none, taken := 0, ecc := 0 }],
                     run := v.run.map fun w => { w with tried := [], searchDone := false } }) s1)
          .next (if cross then bumpC c Reg.DSP_STEAL 32 1 s2 else s2)
    | _, _ => .next s

/-! ### Time -/

/-- Add n cycles to a counter of a cell. -/
def addCnt (i n : Nat) (v : Cell) : Cell :=
  if n = 0 then v else { v with cnt := mset 0 v.cnt i (satAdd 32 (mget 0 v.cnt i) n) }

/-- Lanes that a cell's running sweep keeps idle, each waiting for a row: for unstaged weights, and for room in the reorder
unit (R89, R92, Table 3.10; log 25). -/
def stalledLanes (v : Cell) : Nat × Nat :=
  match v.run with
  | none => (0, 0)
  | some w =>
    match headBlock v w with
    | none => (0, 0)
    | some (b, _) =>
      let idle := ((upto 64).filter fun l => (mget none v.lanes l).isNone).length
      let rows := ((v.rq.filter fun b => b.sweep == w.ord).map fun b => b.count - b.taken).sum
      let n := if slotsAwaited v w then 0 else min idle rows
      if b.staged.isNone then (n, 0) else if b.taken = 0 ∧ 8 ≤ v.opened.length then (0, n) else (0, 0)

/-- n cycles pass on a cell: its counters of lost cycles count (Tables 3.10 and 5.16), and results return (log 61). -/
def cellTick (n : Nat) (idle : Bool) (v : Cell) : Cell :=
  let held := match v.builds with | b :: _ => buildHeld v b | [] => false
  let st := stalledLanes v
  let v := addCnt 5 (if held then n else 0) (addCnt 6 (n * st.1) (addCnt 7 (n * st.2) (addCnt 12 (if idle then n else 0) v)))
  { v with ctx := mmap {} (fun _ x => x.land) v.ctx }

/-- One tick of 40 ns passes (log 2). -/
def tick (s : State) : State :=
  { s with
    now := s.now + 1
    cells := mmap {} (fun i v =>
      if awake s (i / 32) && !v.frozen then cellTick ((clu s (i / 32)).cellMHz / 25) (noReady s (i / 32) (i % 32)) v
      else v) s.cells }

end Sys2Proof.Machine
end

