-- ==== Sys2Proof/Machine/Quant.lean ====
section
/-!
DEFINITION. The quantizer (chapter 4): jobs, scale finding (R117), conversion (R118), statistics (R121), the range
monitor and combine slots (R124 to R127), result records (R114, R115).
-/
namespace Sys2Proof.Machine

/-! ### Sums in no fixed order -/

/-- Take the element at place i out of a list. -/
def takeAt (l : List Nat) (i : Nat) : Nat × List Nat := (l.getD i 0, l.take i ++ l.drop (i + 1))

/-- FP32 sum of words in an order that is free: each of n steps adds two words that free values pick (R121, log 5). -/
def freeSum : Nat → List Nat → State → Nat × State
  | 0, l, s => (l.headD 0, s)
  | n + 1, l, s =>
    let a := takeFree s
    let p := takeAt l (a.1 % l.length)
    let b := takeFree a.2
    let q := takeAt p.2 (b.1 % p.2.length)
    freeSum n (add32 p.1 q.1 :: q.2) b.2

/-- The free-order sum of a list onto a starting word. -/
def freeSumOn (acc : Nat) (l : List Nat) (s : State) : Nat × State :=
  if l.isEmpty then (acc, s) else freeSum l.length (acc :: l) s

/-! ### Finding the scales (R116, R117) -/

/-- Largest finite magnitude Q of a destination (Table 4.3). -/
def quantQ : Fmt → Dyad
  | .t2 | .i2 => ⟨1, 0⟩
  | .i3 => ⟨3, 0⟩
  | .i4 => ⟨7, 0⟩
  | .i8 => ⟨127, 0⟩
  | .l4 => ⟨64, 0⟩
  | .f4 => ⟨6, 0⟩
  | .f8a => ⟨448, 0⟩
  | .f8b => ⟨57344, 0⟩
  | _ => ⟨1, 0⟩

/-- floor(log2) of a positive dyadic number. -/
def dlog2 (d : Dyad) : Int := d.e + Nat.log2 d.m.natAbs

/-- The smallest e with M <= Q * 2^e (R117). -/
def groupExp (q m : Dyad) : Int :=
  let c := dlog2 m - dlog2 q
  if dle m ⟨q.m, q.e + c⟩ then c else c + 1

/-- Finite magnitude of an element; none for NaN and infinity. -/
def finMag : FVal → Option Dyad
  | .fin _ m e => some ⟨Int.ofNat m, e⟩
  | _ => none

/-- Insert into a list of (magnitude, index) ranked in descending order, equals by ascending index (R117). -/
def rankIns (x : Dyad × Nat) : List (Dyad × Nat) → List (Dyad × Nat)
  | [] => [x]
  | y :: r => if dlt y.1 x.1 then x :: y :: r else y :: rankIns x r

/-- The finite magnitudes of a block, ranked (R117). -/
def ranked (xs : List (FVal × Nat)) : List (Dyad × Nat) :=
  xs.foldl (fun l x => match finMag x.1 with | none => l | some d => rankIns (d, x.2) l) []

/-- The outliers that pass 1 marks in one block (R117). -/
def blockOutliers (budget clip : Nat) (xs : List (FVal × Nat)) : List Nat :=
  let r := ranked xs
  let rb := match r[budget]? with | none => (⟨0, 0⟩ : Dyad) | some q => q.1
  if rb.m ≤ 0 then []
  else ((r.take budget).filter fun q => dlt ⟨rb.m, rb.e + clip⟩ q.1).map fun q => q.2

/-- Split a list into runs of n. -/
def runsOf (n : Nat) : Nat → List (FVal × Nat) → List (List (FVal × Nat))
  | 0, _ => []
  | f + 1, l => if l.isEmpty then [] else l.take n :: runsOf n f (l.drop n)

/-- The outliers of a row (R117). -/
def rowOutliers (budget clip : Nat) (xs : List (FVal × Nat)) : List Nat :=
  if budget = 0 then [] else (runsOf 128 (xs.length + 1) xs).flatMap (blockOutliers budget clip)

/-- The magnitudes of a group that count: finite and unmarked. -/
def groupMags (marks : List Nat) (g : List (FVal × Nat)) : List Dyad :=
  g.filterMap fun x => if marks.contains x.2 then none else finMag x.1

/-- The largest of a list of magnitudes; 0 for none. -/
def maxMag (l : List Dyad) : Dyad := l.foldl (fun a d => if dlt a d then d else a) ⟨0, 0⟩

/-- floor(log2 of the mean), plus 1 if the mean is at least 1.5 * 2^floor (the B1 rule of R117). -/
def meanExp (l : List Dyad) : Int :=
  let sum := l.foldl dadd ⟨0, 0⟩
  let n := Int.ofNat l.length
  let atLeast (num den : Int) (x : Int) : Bool := dle ⟨n * num, x⟩ ⟨sum.m * den, sum.e⟩
  let c := dlog2 sum - Int.ofNat (Nat.log2 l.length)
  let fl := if atLeast 1 1 c then c else c - 1
  if atLeast 3 2 fl then fl + 1 else fl

/-- A group's exponent; none for a group whose magnitudes are all 0 (R117). -/
def groupE (f : Fmt) (q : Dyad) (mags : List Dyad) : Option Int :=
  let m := maxMag mags
  if m.m ≤ 0 then none else if f = .b1 then some (meanExp mags) else some (groupExp q m)

/-- Row exponent and offsets from the group exponents (R117). -/
def rowScaleOf (offsEn : Bool) (es : List (Option Int)) : Int × List Nat :=
  let vs := es.filterMap id
  match vs with
  | [] => (0, es.map fun _ => 0)
  | v :: r =>
    let mx := r.foldl max v
    let mn := r.foldl min v
    let er := clampI (-128) 127 (if offsEn then max mn (mx - 7) else mx)
    (er, es.map fun e => match e with
      | none => 0
      | some e => (clampI 0 7 (e - er)).toNat * (if offsEn then 1 else 0))

/-! ### Job descriptors (Table 4.1) -/

/-- A quantizer job's settings. -/
structure QSet where
  stag : Fmt := .fp32
  dtag : Fmt := .i8
  s : Nat := 32
  offsEn : Bool := true
  sr : Bool := false
  rmEn : Bool := false
  budget : Nat := 0
  clip : Nat := 0
  stat : Nat := 0
  layer : Nat := 0
  src : Nat := 0
  dst : Nat := 0
  scale : Nat := 0
  work : Nat := 0
  side : Nat := 0
  res : Nat := 0
  rows : Nat := 1
  len : Nat := 1
  slot : Nat := 0
  parts : Nat := 1
  snr : Nat := 0
  cap : Nat := 0
  deriving DecidableEq, Repr

/-- Descriptor words into settings; the tags have been checked. -/
def qsetOf (w : Nat → Nat) : QSet :=
  { stag := (fmtOf (bits (w 0) 3 0)).getD .fp32, dtag := (fmtOf (bits (w 0) 7 4)).getD .i8,
    s := groupSize (bits (w 0) 9 8), offsEn := bitAt (w 0) 10, sr := bitAt (w 0) 11, rmEn := bitAt (w 0) 12,
    budget := bits (w 0) 15 13, clip := bits (w 0) 18 16, stat := bits (w 0) 21 19, layer := bits (w 0) 27 22,
    src := bits (w 1) 47 0, dst := bits (w 2) 47 0, scale := bits (w 3) 47 0, work := bits (w 4) 47 0,
    side := bits (w 5) 47 0, res := bits (w 6) 47 0, rows := bits (w 7) 16 0, len := bits (w 7) 33 17,
    slot := bits (w 7) 39 34, parts := bits (w 7) 46 40, snr := bits (w 7) 52 47, cap := bits (w 7) 63 53 }

/-- The fault of a job's settings, if any (R113, Table 4.7). -/
def qsetFault (w : Nat → Nat) (nclu : Nat) : Option (Nat × Nat) :=
  let q := qsetOf w
  let st := fmtOf (bits (w 0) 3 0)
  let dt := fmtOf (bits (w 0) 7 4)
  let dOk : Bool := match dt with
    | some f => isCode f || ((f == .f8a || f == .f8b) && q.sr && st == some .fp32)
    | none => false
  let srOk : Bool := !q.sr || q.dtag == .f8a || q.dtag == .f8b || q.dtag == .i8
  let narrow : Bool := q.dtag == .b1 || q.dtag == .c4 || q.dtag == .f8a || q.dtag == .f8b || q.sr
  if !complOk 32 (bits (w 0) 31 0) (bits (w 0) 63 32) then some (0x0D, 0x04_0003)
  else if (st ≠ some .fp32 ∧ st ≠ some .bf16 ∧ st ≠ some .fp16) ∨ !dOk ∨ !srOk ∨
      (q.rmEn ∧ q.dtag ≠ .i4 ∧ q.dtag ≠ .i8) then some (0x01, 0x04_0001)
  else if bits (w 0) 9 8 = 3 ∨ q.rows = 0 ∨ 65536 < q.rows ∨ q.len = 0 ∨ 65536 < q.len ∨ 4 < q.budget ∨
      (q.budget ≠ 0 ∧ narrow) ∨ q.parts = 0 ∨ nclu < q.parts then some (0x01, 0x04_0002)
  else none

/-! ### Conversion (R118) -/

/-- What pass 2 carries from element to element. -/
structure QAcc where
  codes : List Nat := []
  side : List (Nat × Nat) := []
  /-- Escapes taken in the present block of 128. -/
  escIn : Nat := 0
  sideN : Nat := 0
  clamped : Nat := 0
  nonfin : Nat := 0
  esc : Nat := 0
  /-- FP32 squared errors of the row's elements. -/
  errs : List Nat := []

/-- Stochastic rounding of a scaled element into a destination of a quantizer job; the range monitor's choice of I4 rounds as I8
does, within ±7 (R62, R118; log 70). -/
def srTo (f : Fmt) (v : FVal) (u : Nat) : Nat :=
  match f, v with
  | .i8, _ => srI8 v u
  | .i4, .fin neg m e => srCode .i4 neg m e u
  | .i4, .inf neg => clampCode .i4 neg
  | .i4, .nan => 0
  | f, _ => srFloat f v u

/-- An infinity is clamped by a stochastic write: it is kept in F8B alone (Table 2.6; log 70). -/
def srClamps (f : Fmt) : Bool := f != .f8b

/-- The squared error of a converted element in FP32 (R121). -/
def sqErr (x : Nat) (xhat : FVal) : Nat :=
  let d := fenc .fp32 (faddX (fdec .fp32 x) (fneg (fround .fp32 xhat)))
  mul32 d d

/-- The decoded value of a code of a destination at an exponent (R56). -/
def decodeAt (f : Fmt) (cb : List Nat) (code : Nat) (e : Int) : FVal :=
  match f with
  | .f8a | .f8b => fscale (fdec f code) e
  | .c4 => fscale (fdec .bf16 (cb.getD code 0)) e
  | _ => fscale (codeVal f code) e

/-- Convert one element (R118). `p` is its place in the row, `k` its flat index, `u` its draw when SR = 1. -/
def convElem (q : QSet) (f : Fmt) (cb : List Nat) (e : Int) (p k u : Nat) (v : FVal) (a : QAcc) : QAcc :=
  let a := if p % 128 = 0 then { a with escIn := 0 } else a
  let x32 := fenc .fp32 v
  let emit (c : Nat) (a : QAcc) : QAcc := { a with codes := a.codes ++ [c] }
  let good (c : Nat) (a : QAcc) : QAcc := { emit c a with errs := a.errs ++ [sqErr x32 (decodeAt f cb c e)] }
  let room : Bool := (escCode f).isSome && !q.sr && decide (a.escIn < 4) && decide (a.sideN < 1024 * q.cap)
  let escape (a : QAcc) : QAcc :=
    { emit ((escCode f).getD 0) a with
      side := a.side ++ [(k, fenc .bf16 v)], escIn := a.escIn + 1, sideN := a.sideN + 1, esc := a.esc + 1 }
  match v with
  | .nan =>
    let a := { a with nonfin := a.nonfin + 1 }
    if q.sr then emit (srTo f .nan 0) a
    else if room then escape a
    else if f = .b1 ∨ f = .c4 then emit 0 a
    else { emit (zeroCode f) a with clamped := a.clamped + 1 }
  | .inf neg =>
    let a := { a with nonfin := a.nonfin + 1 }
    if q.sr then { emit (srTo f v 0) a with clamped := a.clamped + b2n (srClamps f) }
    else if f = .b1 then emit (b2n neg) a
    else if f = .c4 then emit (extremeC4 cb neg) a
    else if room then escape a
    else { emit (clampCode f neg) a with clamped := a.clamped + 1 }
  | .fin neg m ex =>
    let me := ex - e
    if q.sr then
      let a := good (srTo f (.fin neg m me) u) a
      if dlt (quantQ f) ⟨Int.ofNat m, me⟩ then { a with clamped := a.clamped + 1 } else a
    else if f = .b1 then good (b2n neg) a
    else if f = .c4 then good (nearestC4 cb e ⟨fmant neg m, ex⟩) a
    else match roundCode f neg m me with
      | some c => good c a
      | none =>
        if room then escape a
        else let a := good (clampCode f neg) a; { a with clamped := a.clamped + 1 }

/-- Convert a row's elements in ascending order, each taking a draw when SR = 1 (R62, R118, R135). -/
def convRow (q : QSet) (f : Fmt) (c : Nat) (cb : List Nat) (er : Int) (offs : List Nat) (base : Nat) :
    List (FVal × Nat) → QAcc → State → QAcc × State
  | [], a, s => (a, s)
  | (v, p) :: r, a, s =>
    let d := if q.sr then draw (192 + c) (p % 128) s else (0, s)
    let e := er + Int.ofNat (offs.getD (p / q.s) 0)
    convRow q f c cb er offs base r (convElem q f cb e p (base + p) d.1 v a) d.2

/-- Bytes of one source row. -/
def srcRow (c p : Nat) (q : QSet) (r : Nat) : EM (List (FVal × Nat)) := do
  let n := fmtBits q.stag / 8
  let l ← rd (.vec c) p none (q.src + r * q.len * n) (q.len * n)
  pure ((upto q.len).map fun i => (fdec q.stag (codeAt q.stag (byteOf l) i), i))

/-- The codebook of a C4 job; NaN or infinity fails it (R113). -/
def jobCodebook (c p : Nat) (q : QSet) : EM (List Nat) := do
  if q.dtag ≠ .c4 then pure []
  else
    let l ← rd (.vec c) p none q.work 32
    let ws := (upto 16).map fun i => leNat ((l.drop (2 * i)).take 2)
    match convCodebook ws with
    | none => throw (.fail 0x01 0x04_0008)
    | some _ => pure ws

/-- Q of a C4 codebook; none when it is all zero (Table 4.3). -/
def codebookQ (ws : List Nat) : Option Dyad :=
  let m := maxMag (ws.filterMap fun w => finMag (fdec .bf16 w))
  if m.m ≤ 0 then none else some m

/-- Row exponent and offsets of a row from its group magnitudes (R117). -/
def scaleOfMags (q : QSet) (f : Fmt) (cb : List Nat) (gs : List (List Dyad)) : Int × List Nat :=
  if f = .c4 then
    match codebookQ cb with
    | none => (0, gs.map fun _ => 0)
    | some m => rowScaleOf q.offsEn (gs.map (groupE f m))
  else rowScaleOf q.offsEn (gs.map (groupE f (quantQ f)))

/-- Clear statistic slots (R122). -/
def clearSlots (c mask : Nat) (s : State) : State :=
  modClu c (fun q => { q with stats := (upto 8).foldl (fun m i => if bitAt mask i then mset {} m i {} else m) q.stats }) s

/-- A row boundary of the running job: the clears that wait take effect (R122). -/
def rowBoundary (c : Nat) (s : State) : State :=
  if (clu s c).statClr = 0 then s else modClu c (fun q => { q with statClr := 0 }) (clearSlots c (clu s c).statClr s)

/-- Add a job's row to its statistic slot at the row's end (R121, R122; log 71). -/
def addStat (c : Nat) (q : QSet) (a : QAcc) (s : State) : State :=
  let s := rowBoundary c s
  let st := mget {} (clu s c).stats q.stat
  let r := freeSumOn st.sum a.errs s
  let st := { st with sum := r.1, count := (st.count + q.len) % 2 ^ 64, esc := satAdd 32 st.esc a.esc,
                      clamped := satAdd 32 st.clamped a.clamped, nonfin := satAdd 32 st.nonfin a.nonfin }
  modClu c (fun v => { v with stats := mset {} v.stats q.stat st }) r.2

/-- Change the running job. -/
def modRun (c : Nat) (f : QRun → QRun) (s : State) : State := modClu c (fun v => { v with qrun := v.qrun.map f }) s

/-- Note the running job's counts of side-list entries and clamped elements (Table 4.2). -/
def noteRun (c sideN clamped : Nat) (s : State) : State :=
  modRun c (fun r => { r with sideN := sideN, clamped := clamped }) s

/-- Convert and write row r at known scales; returns the running counts (R118). -/
def pass2Row (c p : Nat) (q : QSet) (f : Fmt) (cb : List Nat) (r : Nat) (er : Int) (offs : List Nat)
    (sideN clamped : Nat) : EM (Nat × Nat) := do
  let xs ← srcRow c p q r
  let a ← liftS fun s => convRow q f c cb er offs (r * q.len) xs { sideN := sideN } s
  let g := cdiv q.len q.s
  wr (.vec c) p none (q.scale + r * scaleRowBytes g) (leBytes 2 (expWord er) ++ packCodes .i3 offs)
  wr (.vec c) p none (q.dst + r * packedBytes f q.len) (packCodes f a.codes)
  (a.side.zip (upto a.side.length)).forM fun e =>
    do
      wr (.vec c) p none (q.side + 8 * (sideN + e.2))
        (leBytes 4 e.1.1 ++ leBytes 2 e.1.2 ++ leBytes 2 (compl 16 e.1.2))
      modify (noteRun c (sideN + e.2 + 1) clamped)
  modify fun s => noteRun c a.sideN (clamped + a.clamped) (addStat c q a s)
  pure (a.sideN, clamped + a.clamped)

/-- The group magnitudes of a row after outlier marking (R117). -/
def rowMags (q : QSet) (xs : List (FVal × Nat)) : List (List Dyad) :=
  let marks := rowOutliers q.budget q.clip xs
  (runsOf q.s (xs.length + 1) xs).map (groupMags marks)

/-- Both passes, one row at a time (R119, RM_EN = 0). -/
def bothPasses (c p : Nat) (q : QSet) (cb : List Nat) : Nat → EM (Nat × Nat)
  | 0 => pure (0, 0)
  | n + 1 => do
    let a ← bothPasses c p q cb n
    let xs ← srcRow c p q n
    let sc := scaleOfMags q q.dtag cb (rowMags q xs)
    pass2Row c p q q.dtag cb n sc.1 sc.2 a.1 a.2

/-- A magnitude rounded up to BF16 (R119). -/
def roundUpBf16 (d : Dyad) : Nat :=
  let w := fenc .fp32 (fofDyad d)
  w / 65536 + (if w % 65536 = 0 then 0 else 1)

/-- Magnitude of a work-area word; a word rounded up past the largest finite value counts as 2^128. -/
def workMag (w : Nat) : Dyad :=
  match fdec .bf16 w with
  | .fin _ m e => ⟨Int.ofNat m, e⟩
  | _ => ⟨1, 128⟩

/-- Pass 1 over the whole tensor (R119, R124): the work area, and the terms of S2 and N4. -/
def pass1All (c p : Nat) (q : QSet) : Nat → EM (List Nat × List Nat)
  | 0 => pure ([], [])
  | n + 1 => do
    let a ← pass1All c p q n
    let xs ← srcRow c p q n
    let gs := rowMags q xs
    let g := gs.length
    let ms := gs.map fun m => roundUpBf16 (maxMag m)
    wr (.vec c) p none (q.work + 2 * n * g) (ms.flatMap (leBytes 2))
    let sc := rowScaleOf q.offsEn (gs.map (groupE .i4 (quantQ .i4)))
    let s2 := gs.flatten.map fun d => let w := fenc .fp32 (fofDyad d); mul32 w w
    let n4 := (gs.zip sc.2).map fun x =>
      let nz := (x.1.filter fun d => 0 < d.m).length
      fenc .fp32 (.fin false nz (2 * (sc.1 + Int.ofNat x.2)))
    pure (a.1 ++ s2.filter (· != 0), a.2 ++ n4.filter (· != 0))

/-- Pass 2 over the whole tensor from the work area, in the chosen format (R119). -/
def pass2All (c p : Nat) (q : QSet) (f : Fmt) : Nat → EM (Nat × Nat)
  | 0 => pure (0, 0)
  | n + 1 => do
    let a ← pass2All c p q f n
    let g := cdiv q.len q.s
    let l ← rd (.vec c) p none (q.work + 2 * n * g) (2 * g)
    let es := (upto g).map fun i =>
      let d := workMag (leNat ((l.drop (2 * i)).take 2))
      if d.m ≤ 0 then none else some (groupExp (quantQ f) d)
    let sc := rowScaleOf q.offsEn es
    pass2Row c p q f [] n sc.1 sc.2 a.1 a.2

/-- The decision of R125: I4 when 12 S2 >= 2^SNR N4. -/
def choosesI4 (s2 n4 snr : Nat) : Bool :=
  if n4 % 2 ^ 31 = 0 then true
  else !fltX (fmulX (fofInt 12) (fdec .fp32 s2)) (fscale (fdec .fp32 n4) snr)

/-- Count a decision in QNT_RM_COUNT of a layer (R125, R126). -/
def countRm (p layer : Nat) (i4 : Bool) (s : State) : State :=
  bumpP p (Reg.QNT_RM_COUNT + 8 * layer) (if i4 then 0 else 32) 1 s

/-- Partition of a cluster; 16 for none, a partition that does not exist. -/
def cluPart (s : State) (c : Nat) : Nat := ((clu s c).part).getD 16

/-- The job's own work up to its end or its post (R113, R117 to R119, R124). -/
def runQuant (c p : Nat) (r : QRun) : EM QRun := do
  let s ← get
  let w (i : Nat) : Nat := r.w.getD i 0
  match qsetFault w (clustersOf s p).length with
  | some f => throw (.fail f.1 f.2)
  | none => do
    let q := qsetOf w
    let cb ← jobCodebook c p q
    if q.rmEn then do
      let t ← pass1All c p q q.rows
      let s2 ← liftS (freeSumOn 0 t.1)
      let n4 ← liftS (freeSumOn 0 t.2)
      if q.parts = 1 then do
        let i4 := choosesI4 s2 n4 q.snr
        modify (countRm p q.layer i4)
        let f := if i4 then Fmt.i4 else Fmt.i8
        modify (modRun c fun r => { r with atag := fmtTag f })
        let n ← pass2All c p q f q.rows
        pure { r with atag := fmtTag f, sideN := n.1, clamped := n.2 }
      else pure { r with s2 := s2, n4 := n4, phase := 1 }
    else do
      let n ← bothPasses c p q cb q.rows
      pure { r with sideN := n.1, clamped := n.2 }

/-- The task of the running quantizer job. -/
def runTask (s : State) (c : Nat) : Option Nat := ((clu s c).qrun).bind fun r => r.job.task

/-- A stop of the running quantizer job: a violation freezes the vector domain, anything else ends the job (R110, R115). -/
def quantStop (c p : Nat) (e : Stop) (s : State) : State :=
  let fin (st dt : Nat) (w : Option (Nat × Nat)) : State :=
    modRun c (fun r => { r with status := st, detail := dt, phase := 0, bad := w }) s
  match e with
  | .viol kind a => freezeVec p c (runTask s c) kind a s
  | .fail st dt a => fin st dt (a.map fun a => (a, memOf a))
  | .unc a mem pw => fin 0x09 (uncDetail 0x06_0009 mem pw) (some (a, mem))

/-- Words 0 to 7 of the running job's descriptor: word 0 is checked against CTRL_N before anything else is read, RES apart,
which the result record of a job that fails there needs (R113, R115; log 70). -/
def readQuant (c p a : Nat) : EM (List Nat) := do
  let w0 ← rdN (.vec c) p none a 8
  if complOk 32 (bits w0 31 0) (bits w0 63 32) then do
    let l ← rd (.vec c) p none (a + 8) 56
    pure (w0 :: (upto 7).map fun i => leNat ((l.drop (8 * i)).take 8))
  else pure [w0, 0, 0, 0, 0, 0, 0, 0]

/-- RES of a descriptor that was not read whole, if it can be read: the job's record is then written there. -/
def onlyRes (c p a : Nat) (s : State) : State :=
  match runEM (rdN (.vec c) p none (a + 48) 8) s with
  | .good n s => modRun c (fun r => { r with w := (r.w ++ List.replicate 8 0).take 6 ++ [n, 0] }) s
  | .stop (.viol kind v) s => freezeVec p c (runTask s c) kind v s
  | .stop _ s => modRun c (fun r => { r with noRes := true }) s

/-- QUANT_JOB_START (R111, R113). -/
def execQuantJobStart (c : Nat) (s : State) : Out :=
  if 96 ≤ c then .fault .noSuchUnit
  else
    let q := clu s c
    let p := cluPart s c
    match q.qq with
    | [] => .next s
    | j :: rest =>
      if q.qrun.isSome || bitAt (creg s c Reg.QNT_CTRL) 0 || !awake s c || isFrozen s p (.vec c) then .next s
      else
        let s := modClu c (fun v => { v with qq := rest, qrun := some { job := j } }) s
        match runEM (readQuant c p j.addr) s with
        | .stop (.viol kind a) s => .next (freezeVec p c (runTask s c) kind a s)
        -- the format is not known: ATAG is a free value (log 70)
        | .stop e s =>
          let f := takeFree s
          .next (onlyRes c p j.addr (quantStop c p e (modRun c (fun r => { r with atag := f.1 % 16 }) f.2)))
        | .good w s =>
          let s := modRun c (fun r => { r with w := w, atag := bits (w.getD 0 0) 7 4 }) s
          let r := ((clu s c).qrun).getD {}
          match runEM (runQuant c p r) s with
          | .good r s => .next (modClu c (fun v => { v with qrun := some r }) s)
          | .stop (.viol kind a) s => .next (freezeVec p c (runTask s c) kind a s)
          | .stop e s =>
            let s := quantStop c p e s
            .next (if complOk 32 (bits (w.getD 0 0) 31 0) (bits (w.getD 0 0) 63 32) then s else onlyRes c p j.addr s)

/-- Combine slot i of a partition. -/
def combineOf (s : State) (p i : Nat) : Combine := mget {} (part s p).combine i

/-- Write a combine slot; the empty slot is free. -/
def setCombine (p i : Nat) (v : Combine) (s : State) : State :=
  modPart p (fun q => { q with combine := mset {} q.combine i v }) s

/-- Give every part that waits on a slot a result. -/
def toWaiting (p i : Nat) (f : QRun → QRun) (s : State) : State :=
  (clustersOf s p).foldl (fun s c =>
    match (clu s c).qrun with
    | some r => if r.phase = 2 ∧ bits (r.w.getD 7 0) 39 34 = i then modClu c (fun v => { v with qrun := some (f r) }) s else s
    | none => s) s

/-- Fail every waiting part of a slot (R127). -/
def failSlot (p i detail : Nat) (s : State) : State :=
  toWaiting p i (fun r => { r with status := 0x01, detail := detail, phase := 0 }) s

/-- COMBINE_POST: the running job posts its sums (R126, R127). -/
def execCombinePost (c : Nat) (s : State) : Out :=
  if 96 ≤ c then .fault .noSuchUnit
  else
    let p := cluPart s c
    match (clu s c).qrun with
    | none => .next s
    | some r =>
      if r.phase ≠ 1 then .next s
      else
        let q := qsetOf (fun i => r.w.getD i 0)
        let v := combineOf s p q.slot
        let n := v.arrived + 1
        let set (r : QRun) (s : State) : State := modClu c (fun v => { v with qrun := some r }) s
        if v.failed then
          let s := set { r with status := 0x01, detail := 0x04_0004, phase := 0 } s
          .next (setCombine p q.slot (if v.parts ≤ n then {} else { v with arrived := n }) s)
        else if 0 < v.arrived ∧ (v.parts ≠ q.parts ∨ v.snr ≠ q.snr) then
          let s := set { r with status := 0x01, detail := 0x04_0005, phase := 0 } (failSlot p q.slot 0x04_0005 s)
          .next (setCombine p q.slot (if v.parts ≤ n then {} else { v with arrived := n, failed := true, posts := [] }) s)
        else
          let v := { v with parts := q.parts, snr := q.snr, layer := q.layer, arrived := n,
                            posts := v.posts ++ [{ clu := c, s2 := r.s2, n4 := r.n4 }] }
          let s := set { r with phase := 2 } s
          if n < q.parts then .next (setCombine p q.slot v s)
          else
            let s2 := v.posts.foldl (fun a x => add32 a x.s2) 0
            let n4 := v.posts.foldl (fun a x => add32 a x.n4) 0
            let i4 := choosesI4 s2 n4 q.snr
            let s := toWaiting p q.slot (fun r => { r with atag := if i4 then 4 else 7, phase := 3 }) s
            .next (setCombine p q.slot {} (countRm p v.layer i4 s))

/-- COMBINE_TIMEOUT: QNT_RM_WAIT passes after a slot's first post (R127). -/
def execCombineTimeout (p i : Nat) (s : State) : Out :=
  if 16 ≤ p ∨ 64 ≤ i then .fault .noSuchUnit
  else
    let v := combineOf s p i
    when (decide (0 < v.arrived) && !v.failed)
      (fun s => setCombine p i { v with failed := true, posts := [] } (failSlot p i 0x04_0004 s)) s

/-- The result record's 16 bytes (Table 4.2). -/
def resultRecord (r : QRun) : List Byte :=
  leBytes 8 (r.atag % 16 + 0x80 + r.status * 2 ^ 8 + r.detail * 2 ^ 16) ++ leBytes 4 r.sideN ++ leBytes 4 r.clamped

/-- Status and detail of a job that faulted reach its task, or, for a host job, its registers and a record (R115). -/
def quantFault (c p : Nat) (r : QRun) (s : State) : State :=
  if r.status = 0 then s
  else match r.job.task with
    | some t =>
      let ts := taskTag s t
      report t r.status r.detail c
        (capture (.quant c)
          (if r.bad.isSome then wordErr s r.status r.detail p (cmpIsland s c) r.bad ts.1 ts.2
           else itemErr s r.status r.detail p (cmpIsland s c) (some r.job.addr) ts.1 ts.2) s)
    | none =>
      fwRecord { sev := sevOf r.status, cls := 0, detail := r.detail, part := some p, island := cmpIsland s c,
                 cycles := recCycles s (cmpIsland s c), subject := r.job.addr % 2 ^ 48, aux := cmpIsland s c }
        (flagC c Reg.QNT_ERR 2 s)

/-- The result record of the running job is written, and its fault, if any, reported; a record that its bank refuses is itself the
fault of a job that had none (R114, R115, R291). -/
def finishQuant (c p : Nat) (s : State) : State :=
  match (clu s c).qrun with
  | none => s
  | some r =>
    let gone := modClu c (fun v => { v with qrun := none })
    if r.noRes then quantFault c p r (gone s)
    else
      let fails (st dt : Nat) (w : Option (Nat × Nat)) : QRun :=
        if r.status = 0 then { r with status := st, detail := dt, bad := w } else r
      match runEM (wr (.vec c) p none (qsetOf (fun i => r.w.getD i 0)).res (resultRecord r)) s with
      | .good _ s => quantFault c p r (gone (setCreg c Reg.QNT_LAST_RESULT (leNat ((resultRecord r).take 8)) s))
      | .stop (.viol kind a) s => freezeVec p c (runTask s c) kind a s
      | .stop (.fail st dt a) s => quantFault c p (fails st dt (a.map fun a => (a, memOf a))) (gone s)
      | .stop (.unc a mem pw) s => quantFault c p (fails 0x09 (uncDetail 0x06_0009 mem pw) (some (a, mem))) (gone s)

/-- Status of what a reset ends. -/
def stReset : Nat := 0x06

/-- A reset completes the running job with its status, by its result record alone; the queue is emptied (R115, R141). -/
def resetQuant (c : Nat) (s : State) : State :=
  let gone := modClu c (fun v => { v with qrun := none, qq := [], statClr := 0 })
  match (clu s c).qrun with
  | none => gone s
  | some r =>
    let r := { r with status := stReset, detail := 0 }
    if r.noRes then gone s
    else match runEM (wr (.vec c) (cluPart s c) none (qsetOf (fun i => r.w.getD i 0)).res (resultRecord r)) s with
      | .good _ s => gone (setCreg c Reg.QNT_LAST_RESULT (leNat ((resultRecord r).take 8)) s)
      | .stop _ s => gone s

/-- QUANT_JOB_END: a decided job runs its pass 2; then the result record is written (R114, R126). -/
def execQuantJobEnd (c : Nat) (s : State) : Out :=
  if 96 ≤ c then .fault .noSuchUnit
  else
    let p := cluPart s c
    match (clu s c).qrun with
    | none => .next s
    | some r =>
      if r.phase = 1 ∨ r.phase = 2 then .next s
      else if r.phase = 3 then
        let q := qsetOf (fun i => r.w.getD i 0)
        match runEM (pass2All c p q (if r.atag = 4 then Fmt.i4 else Fmt.i8) q.rows) s with
        | .good n s => .next (finishQuant c p (modRun c (fun r => { r with phase := 0, sideN := n.1, clamped := n.2 }) s))
        | .stop (.viol kind a) s => .next (freezeVec p c (runTask s c) kind a s)
        | .stop e s => .next (finishQuant c p (quantStop c p e s))
      else .next (finishQuant c p s)

/-- QPUSH: the quantizer clears VALID in the job's result record and takes the job (R177). -/
def execQpush (c k x : Nat) (s : State) : Out :=
  cellOp 0x36 c k x (fun w s =>
    let cx := ctxOf s c k x
    let a := (cx.reg w.a).toNat
    let t := cx.task.getD 0
    let p := (taskOf s t).part
    if a % 8 ≠ 0 then ctxFault c k x 0x01 0x05_0003 s
    else
      let m : EM Nat := do
        if badAddr a then throw (.viol 1 (a % 2 ^ 48)) else pure ()
        let n ← rdN (.vec c) p none (a + 48) 8
        let res := bits n 47 0
        let b ← rdN (.vec c) p none res 1
        wrN (.vec c) p none res 1 (b % 128)
        pure res
      match runEM m s with
      | .good res s =>
        let s := modClu c (fun v => { v with
          qq := v.qq ++ [{ addr := a, task := some t, ctx := some (4 * (32 * c + k) + x) }] }) s
        ctxNext c k x (fun v => { v with qrec := some res }) s
      | .stop (.viol kind b) s => freezeVec p c (some t) kind b s
      | .stop e s => cellStopAs 0x06_0009 c k x t cx.pc e s) s

end Sys2Proof.Machine
end

