-- ==== Sys2Proof/Machine/Dense.lean ====
section
/-!
DEFINITION. Engine jobs (R193 to R197) and the dense unit (R198 to R203).
-/
namespace Sys2Proof.Machine

/-- An engine that runs jobs, by its number in Cluster.sig: 0 dense, 1 vector. -/
def engUnit (c e : Nat) : UnitId := if e = 0 then .dense c else .vector c

/-- Engine e of a cluster, by its number in Cluster.sig, as a bank's giver (R278). -/
def engGiver (c e : Nat) : Nat := 2 ^ 20 + 8 * c + e

/-- A GIVE job of an engine awaits its owner write (R209, R242, R278). -/
def engGives (s : State) (c e : Nat) : Bool := s.banks.any fun b => b.2.giver == some (engGiver c e) && b.2.pending.isSome

/-- The engine is free for its next job: the last job's owner write is made and its DONE flag signalled (R193, R194). -/
def engFree (s : State) (c e : Nat) : Bool := (mget none (clu s c).sig e).isNone && !engGives s c e

/-- A fault of a dense or vector job ends its task (R197): the queues lose the task's jobs. -/
def jobFault (c e t status detail : Nat) (addr : Option (Nat × Nat)) (s : State) : State :=
  let ts := taskTag s t
  let p := (taskOf s t).part
  let err := wordErr s status detail p (cmpIsland s c) addr ts.1 ts.2
  let s := modClu c (Cluster.dropJobs t) s
  report t status detail c (capture (engUnit c e) err s)

/-- What a Stop does to a dense or vector job (R191, R197, R219). -/
def jobStop (c e t : Nat) (x : Stop) (s : State) : State :=
  match x with
  | .viol kind a => freezeVec (taskOf s t).part c (some t) kind a s
  | .fail st dt a => jobFault c e t st dt (a.map fun a => (a, memOf a)) s
  | .unc a mem pw => jobFault c e t 0x09 (uncDetail 0x06_0009 mem pw) (some (a, mem)) s

/-- The job's sync word lets it start (R194). -/
def syncMet (s : State) (c w7 : Nat) : Bool := !bitAt w7 38 || flagMet (flagOf s c (bits w7 37 32)) (bits w7 31 0)

/-- The end of a job whose writes are acknowledged: its DONE flag waits to be signalled (R194). -/
def jobEnd (c e t w7 : Nat) (s : State) : State :=
  if bitAt w7 45 then modClu c (fun q => { q with sig := mset none q.sig e (some (bits w7 44 39 + 1, t)) }) s else s

/-- Eight 64-bit words of a 64-byte structure. -/
def words8 (l : List Byte) : Nat → Nat := fun i => leNat ((l.drop (8 * i)).take 8)

/-- JOB_DONE_SIGNAL: the engine adds 1 to the DONE flag of its ended job, a GIVE job's after its owner write (R194, R209). -/
def execJobDoneSignal (c e : Nat) (s : State) : Out :=
  if 96 ≤ c ∨ 7 ≤ e then .fault .noSuchUnit
  else match mget none (clu s c).sig e with
    | none => .next s
    | some (f, _) =>
      if engGives s c e then .next s
      else
      let s := modClu c (fun q => { q with sig := mset none q.sig e none }) s
      .next (setFlag c (f - 1) (flagOf s c (f - 1) + 1) s)

/-- Read one element of a format, aligned to its size (R157, R199). -/
def rdElem (c p : Nat) (f : Fmt) (a : Nat) : EM Nat := do
  let n := fmtBits f / 8
  if a % n ≠ 0 then throw (.fail 0x01 0x06_000A) else rdN (.vec c) p none a n

/-- Write one element of a format, aligned to its size. -/
def wrElem (c p : Nat) (f : Fmt) (a v : Nat) : EM Unit := do
  let n := fmtBits f / 8
  if a % n ≠ 0 then throw (.fail 0x01 0x06_000A) else wrN (.vec c) p none a n v

/-- A dense job's settings (Table 6.5). -/
structure DSet where
  at' : Fmt := .bf16
  bt : Fmt := .bf16
  ot : Fmt := .fp32
  ta : Bool := false
  tb : Bool := false
  acc : Bool := false
  scaled : Bool := false
  a : Nat := 0
  b : Nat := 0
  c : Nat := 0
  m : Nat := 1
  n : Nat := 1
  k : Nat := 1
  cst : Nat := 0
  lda : Nat := 0
  ldb : Nat := 0
  ldc : Nat := 0
  iscale : Nat := 0
  isu : Nat := 0
  deriving DecidableEq, Repr

/-- The settings of a dense job, if its formats are permitted (R198). -/
def dsetOf (w : Nat → Nat) : Option DSet :=
  match fmtOf (bits (w 0) 7 4), fmtOf (bits (w 0) 11 8), fmtOf (bits (w 0) 15 12) with
  | some fa, some fb, some fo =>
    let acc := bitAt (w 0) 18
    let sc := bitAt (w 0) 19
    let fp8 (f : Fmt) : Bool := f == .f8a || f == .f8b
    let fl : Bool := (fa == .bf16 && fb == .bf16) || (fa == .fp16 && fb == .fp16) || (fp8 fa && fp8 fb)
    let ok : Bool :=
      (fl && !sc && (fo == .fp32 || fo == .bf16 || fo == .fp16 || fp8 fo)) ||
      (fa == .i8 && fb == .i8 && !sc && fo == .i32) ||
      (fa == .i8 && fb == .i8 && sc && (fo == .fp32 || fo == .bf16))
    if !ok || (acc && fo != .fp32 && fo != .i32) then none
    else some {
      at' := fa, bt := fb, ot := fo, ta := bitAt (w 0) 16, tb := bitAt (w 0) 17, acc := acc, scaled := sc,
      a := bits (w 1) 47 0, b := bits (w 2) 47 0, c := bits (w 3) 47 0,
      m := bits (w 4) 15 0 + 1, n := bits (w 4) 31 16 + 1, k := bits (w 4) 47 32 + 1, cst := bits (w 4) 61 48,
      lda := bits (w 5) 20 0, ldb := bits (w 5) 41 21, ldc := bits (w 5) 62 42,
      iscale := bits (w 6) 47 0, isu := bits (w 6) 63 48 }
  | _, _, _ => none

/-- Addresses of the elements of A, B and C (R199). -/
def DSet.aAt (d : DSet) (m k : Nat) : Nat := d.a + (if d.ta then k * d.lda + m else m * d.lda + k) * (fmtBits d.at' / 8)
def DSet.bAt (d : DSet) (k n : Nat) : Nat := d.b + (if d.tb then n * d.ldb + k else k * d.ldb + n) * (fmtBits d.bt / 8)
def DSet.cAt (d : DSet) (m n : Nat) : Nat := d.c + (m * d.ldc + n) * (fmtBits d.ot / 8)

/-- An element of C shares a byte with an element of A or B (R199). -/
def DSet.overlaps (d : DSet) : Bool :=
  let cs := (upto d.m).flatMap fun m => (upto d.n).map fun n => d.cAt m n
  let co := fmtBits d.ot / 8
  let hit (x n : Nat) : Bool := cs.any fun y => decide (x < y + co) && decide (y < x + n)
  ((upto d.m).any fun m => (upto d.k).any fun k => hit (d.aAt m k) (fmtBits d.at' / 8)) ||
    ((upto d.k).any fun k => (upto d.n).any fun n => hit (d.bAt k n) (fmtBits d.bt / 8))

/-- The float sum over k of R200: each exact product added with one rounding to FP32. -/
def dotF (c p : Nat) (d : DSet) (m n : Nat) (s0 : Nat) : Nat → EM Nat
  | 0 => pure s0
  | k + 1 => do
    let s ← dotF c p d m n s0 k
    let a ← rdElem c p d.at' (d.aAt m k)
    let b ← rdElem c p d.bt (d.bAt k n)
    pure (fenc .fp32 (faddX (fdec .fp32 s) (fmulX (fdec d.at' a) (fdec d.bt b))))

/-- The integer sum over k of R200, escapes as 0. -/
def dotI (c p : Nat) (d : DSet) (m n : Nat) : Nat → EM Int
  | 0 => pure 0
  | k + 1 => do
    let s ← dotI c p d m n k
    let a ← rdElem c p .i8 (d.aAt m k)
    let b ← rdElem c p .i8 (d.bAt k n)
    pure (s + codeInt .i8 a * codeInt .i8 b)

/-- A channel-scale entry's EW for an engine job (R201). -/
def jobScale (c i : Nat) : EM Int := do
  let s ← get
  if 16384 ≤ i then throw (.fail 0x01 0x04_0007)
  else match cstOf (mget 0xFFFF_0000 (clu s c).cst i) with
    | none => throw (.fail 0x0D 0x04_0009)
    | some q => pure q.1

/-- The row exponent of a scale block row, with its complement checked (R57, R201). -/
def jobExp (c p a : Nat) : EM Int := do
  let l ← rd (.vec c) p none a 2
  match expOf (byteOf l 0) (byteOf l 1) with
  | none => throw (.fail 0x0D 0x04_0009 (some a))
  | some e => pure e

/-- One element of C (R200 to R202). -/
def denseElem (c p : Nat) (d : DSet) (ea : Int) (m n : Nat) : EM Nat := do
  if d.at' = .i8 then do
    let t ← dotI c p d m n d.k
    if d.scaled then do
      let ew ← jobScale c (d.cst + n)
      let v := fenc .fp32 (fscale (fround .fp32 (fofInt t)) (ea + ew))
      let old ← if d.acc then rdElem c p .fp32 (d.cAt m n) else pure 0
      pure (fenc d.ot (fdec .fp32 (if d.acc then add32 old v else v)))
    else do
      let old ← if d.acc then rdElem c p .i32 (d.cAt m n) else pure 0
      pure (toBits 32 (if d.acc then sat32 (sext 32 old + t) else t))
  else do
    let old ← if d.acc then rdElem c p .fp32 (d.cAt m n) else pure 0
    let t ← dotF c p d m n old d.k
    pure (fenc d.ot (fdec .fp32 t))

/-- The row exponent of row m of A, its group offsets checked to be 0 (R201). -/
def denseRowExp (c p : Nat) (d : DSet) (m : Nat) : EM Int := do
  if !d.scaled then pure 0
  else
    let a := d.iscale + m * (2 + 3 * d.isu)
    let e ← jobExp c p a
    let o ← rd (.vec c) p none (a + 2) (3 * d.isu)
    if o.any fun b => b != 0 then throw (.fail 0x01 0x06_0005) else pure e

/-- A dense job's rows; where C overlaps an operand each element is a free value (R199, log 6). -/
def runDense (c p : Nat) (d : DSet) : EM Unit := do
  let ov := d.overlaps
  (upto d.m).forM fun m => do
    let ea ← denseRowExp c p d m
    (upto d.n).forM fun n => do
      let v ← denseElem c p d ea m n
      let u ← if ov then liftS takeFree else pure 0
      wrElem c p d.ot (d.cAt m n) (if ov then u % 2 ^ fmtBits d.ot else v)

/-- DENSE_JOB: the first job of the dense queue runs once its sync wait is met (R193 to R202). -/
def execDenseJob (c : Nat) (s : State) : Out :=
  if 96 ≤ c then .fault .noSuchUnit
  else
    let q := clu s c
    match q.dq with
    | [] => .next s
    | j :: rest =>
      let p := (taskOf s j.task).part
      if !awake s c || isFrozen s p (.vec c) || !engFree s c 0 then .next s
      else
        let pop (s : State) : State := modClu c (fun q => Cluster.refill { q with dq := rest }) s
        match runEM (rd (.vec c) p none j.addr 64) s with
        | .stop e s => .next (jobStop c 0 j.task e (pop s))
        | .good l s =>
          let w := words8 l
          if !complOk 32 (bits (w 0) 31 0) (bits (w 0) 63 32) then .next (jobFault c 0 j.task 0x0D 0x06_0002 (some (j.addr, memOf j.addr)) (pop s))
          else if bits (w 0) 3 0 ≠ 1 then .next (jobFault c 0 j.task 0x01 0x06_0004 none (pop s))
          else if !syncMet s c (w 7) then .next s
          else match dsetOf w with
            | none => .next (jobFault c 0 j.task 0x01 0x06_0001 none (pop s))
            | some d =>
              match runEM (runDense c p d) (pop s) with
              | .good _ s => .next (jobEnd c 0 j.task (w 7) s)
              | .stop e s => .next (jobStop c 0 j.task e s)

end Sys2Proof.Machine
end

