-- ==== Sys2Proof/Machine/Vector.lean ====
section
/-!
DEFINITION. The vector engine (R204 to R212): job checks, element operations, reductions, masks, conversions, narrow-state
rows, record combination, the outlier adder and GIVE.
-/
namespace Sys2Proof.Machine

/-! ### Functions given to within 2 ulp (R206) -/

/-- ln 2 times 2^128. -/
def ln2fix : Nat := 235865763225513294137944142764154484399

/-- Terms of the exponential series at fixed point 2^128: sum of x^n / n! from the highest term down. -/
def expSeries (x : Nat) : Nat → Nat → Nat
  | 0, _ => 0
  | f + 1, n => 2 ^ 128 + (x * expSeries x f (n + 1) / 2 ^ 128) / n

/-- e^x for a finite x, rounded to FP32: exact to far below half a unit in the last place. -/
def expRn (neg : Bool) (m : Nat) (e : Int) : Nat :=
  if m = 0 then 0x3F80_0000
  else if 8 < e + Nat.log2 m then (if neg then 0 else 0x7F80_0000)
  else
    let x := if 0 ≤ e + 128 then m <<< (e + 128).toNat else m >>> (-(e + 128)).toNat
    let k := x / ln2fix
    let r := x % ln2fix
    -- x = k ln2 + r, or -x = -(k+1) ln2 + (ln2 - r)
    if neg then
      if r = 0 then magWord (fspec .fp32) 1 (-(k : Int))
      else magWord (fspec .fp32) (2 * expSeries (ln2fix - r) 40 1 + 1) (-(k : Int) - 1 - 129)
    else magWord (fspec .fp32) (2 * expSeries r 40 1 + 1) ((k : Int) - 129)

/-- Integer square root, bit by bit from bit n down. -/
def isqrt : Nat → Nat → Nat → Nat
  | 0, _, r => r
  | n + 1, v, r => let t := r + 2 ^ n; isqrt n v (if t * t ≤ v then t else r)

/-- 1 / (m * 2^e) for m > 0 as a magnitude with a sticky bit. -/
def recipMag (m : Nat) (e : Int) : Nat × Int :=
  let k := 64 + Nat.log2 m
  (2 * (2 ^ k / m) + (if 2 ^ k % m = 0 then 0 else 1), -(k : Int) - 1 - e)

/-- 1 / sqrt(m * 2^e) for m > 0 as a magnitude with a sticky bit. -/
def rsqrtMag (m : Nat) (e : Int) : Nat × Int :=
  let (m, e) := if e % 2 = 0 then (m, e) else (2 * m, e - 1)
  let k := 64 + Nat.log2 m
  let v := 2 ^ (2 * k) / m
  let r := isqrt (k + 2) v 0
  (2 * r + (if r * r * m = 2 ^ (2 * k) then 0 else 1), -(k : Int) - 1 - e / 2)

/-- A normal FP32 magnitude moved by a free offset of at most 2 ulp; a result that is not normal, other than an
overflow, is a free value (R206, log 7). -/
def near (w u : Nat) : Nat :=
  if 0x7F80_0000 ≤ w then 0x7F80_0000
  else if w < 0x0080_0000 then u % 2 ^ 32
  else min 0x7F80_0000 (w + u % 5 - 2)

/-- EXP, RECIP and RSQRT of an FP32 value, with a free number u (R206). -/
def specialOp (op : Nat) (v : FVal) (u : Nat) : Nat :=
  match op, v with
  | _, .nan => 0x7FC0_0000
  | 9, .inf neg => if neg then 0 else 0x7F80_0000
  | 9, .fin neg m e => near (expRn neg m e) u
  | 10, .inf neg => signBit (fspec .fp32) neg
  | 10, .fin neg m e =>
    if m = 0 then signBit (fspec .fp32) neg + 0x7F80_0000
    else
      let r := recipMag m e
      let w := magWord (fspec .fp32) r.1 r.2
      if 0x0080_0000 ≤ w then signBit (fspec .fp32) neg + near w u else near w u
  | _, .inf neg => if neg then 0x7FC0_0000 else 0
  | _, .fin neg m e =>
    if m = 0 then (if neg then u % 2 ^ 32 else 0x7F80_0000)
    else if neg then 0x7FC0_0000
    else let r := rsqrtMag m e; near (magWord (fspec .fp32) r.1 r.2) u

/-! ### Element operations (R205, R206) -/

/-- A result of the FP32 arithmetic in a float element format. -/
def fout (f : Fmt) (v : FVal) : Nat := if f = .bf16 then fenc .bf16 (fround .fp32 v) else fenc .fp32 v

/-- Float element operations; u is a free number (R206). -/
def floatOp (op : Nat) (f : Fmt) (a b c u : Nat) : Nat :=
  let x := fdec f a
  let y := fdec f b
  match op with
  | 0 => fout f x
  | 1 => fout f (faddX x y)
  | 2 => fout f (faddX x (fneg y))
  | 3 => fout f (fmulX x y)
  | 4 => fout f (faddX (fmulX x y) (fdec f c))
  | 5 =>
    if x = .nan ∨ y = .nan then fout f .nan
    else if fltX x y then b else if fltX y x then a else if u % 2 = 0 then a else b
  | 6 =>
    if x = .nan ∨ y = .nan then fout f .nan
    else if fltX x y then a else if fltX y x then b else if u % 2 = 0 then a else b
  | 7 => fout f (fabs x)
  | 8 => fout f (fneg x)
  | _ => fout f (fdec .fp32 (specialOp op x u))

/-- Integer element operations before narrowing. -/
def intOp (op : Nat) (x y : Int) : Int :=
  match op with
  | 0 => x
  | 1 => x + y
  | 2 => x - y
  | 3 => x * y
  | 5 => max x y
  | 6 => min x y
  | 7 => Int.ofNat x.natAbs
  | _ => -x

/-- An element as an integer: I32, or I8 with 0x80 as 0 (R206). -/
def intElem (f : Fmt) (a : Nat) : Int := if f = .i8 then codeInt .i8 (a % 256) else sext 32 a

/-- An integer result as an element: I32 wraps, but ABS of -2^31 gives 2^31 - 1; I8 saturates (R206). -/
def intOut (op : Nat) (f : Fmt) (v : Int) : Nat :=
  if f = .i8 then toBits 8 (clampI (-127) 127 v)
  else if op = 7 then toBits 32 (min v (2 ^ 31 - 1)) else toBits 32 v

/-- One element operation. -/
def elemOp (op : Nat) (f : Fmt) (a b c u : Nat) : Nat :=
  if f = .fp32 ∨ f = .bf16 then floatOp op f a b c u
  else intOut op f (intOp op (intElem f a) (intElem f b))

/-- A > B (CMPGT) or A = B (CMPEQ) (Table 6.7); false with a NaN. -/
def elemCmp (op : Nat) (f : Fmt) (a b : Nat) : Bool :=
  if f = .fp32 ∨ f = .bf16 then
    (if op = 0x0C then fltX (fdec f b) (fdec f a) else feqX (fdec f a) (fdec f b))
  else if op = 0x0C then decide (intElem f b < intElem f a) else intElem f a == intElem f b

/-- An operation takes a free number for each element: MAX and MIN of equal values, EXP, RECIP, RSQRT. -/
def needsFree (op : Nat) (f : Fmt) : Bool :=
  (f == .fp32 || f == .bf16) && (op == 5 || op == 6 || op == 9 || op == 10 || op == 11)

/-! ### Jobs (R204) -/

/-- A vector job's settings (Table 6.6). -/
structure VSet where
  op : Nat := 0
  f : Fmt := .fp32
  maskEn : Bool := false
  maskZero : Bool := false
  bscalar : Bool := false
  arg : Nat := 0
  w : List Nat := []
  count : Nat := 1
  rows : Nat := 1
  cst : Nat := 0
  deriving DecidableEq, Repr

/-- Word i of the job. -/
def VSet.word (v : VSet) (i : Nat) : Nat := v.w.getD i 0

/-- The addresses of words 1 to 5. -/
def VSet.addr (v : VSet) (i : Nat) : Nat := bits (v.word i) 47 0

/-- OP values that Table 6.7 lists. -/
def vopListed (o : Nat) : Bool :=
  o ≤ 0x0E || (0x10 ≤ o && o ≤ 0x12) || (0x18 ≤ o && o ≤ 0x1B) || o == 0x20 || o == 0x21 || o == 0x30

/-- Formats a row of Table 6.7 permits. -/
def vopFmt (o : Nat) (f : Option Fmt) : Bool :=
  let all : Bool := f == some .fp32 || f == some .bf16 || f == some .i32 || f == some .i8
  let fl : Bool := f == some .fp32 || f == some .bf16
  if o = 0x04 ∨ o = 0x09 ∨ o = 0x0A ∨ o = 0x0B ∨ o = 0x12 then fl
  else if o = 0x1B ∨ o = 0x20 ∨ o = 0x21 then f == some .fp32
  else if o = 0x30 then true
  else all

/-- Bits of an address word. -/
def adrBits : Nat := 2 ^ 48 - 1

/-- The bits each operation uses in words 0 to 6, beyond ENGINE, OP, MASK_EN and MASK_ZERO (R204, Table 6.8). An OADD job with
KIND 0 uses no scale block and one with KIND 1 no channel scale (R211). -/
def vopUses (v : VSet) : List Nat :=
  let fmt := 2 ^ 14 - 2 ^ 10
  let arg (hi lo : Nat) : Nat := 2 ^ (hi + 1) - 2 ^ lo
  let cr := 2 ^ 40 - 1
  let rows := 2 ^ 40 - 2 ^ 24
  let cst := 2 ^ 62 - 2 ^ 48
  let msk := if v.maskEn then adrBits else 0
  let b := if v.bscalar then 2 ^ 32 - 1 else adrBits
  let o := v.op
  if o = 0x04 then [fmt + 2 ^ 16, adrBits, b, adrBits, adrBits, msk, cr]
  else if o = 1 ∨ o = 2 ∨ o = 3 ∨ o = 5 ∨ o = 6 ∨ o = 0x0C ∨ o = 0x0D ∨ o = 0x0E then
    [fmt + 2 ^ 16, adrBits, b, 0, adrBits, msk, cr]
  else if o ≤ 0x12 then [fmt, adrBits, 0, 0, adrBits, msk, cr]
  else if o = 0x18 then [fmt, adrBits, 0, adrBits, adrBits, msk, cr]
  else if o = 0x19 then [fmt, adrBits, 0, 0, adrBits, msk, cr]
  else if o = 0x1A then [fmt + arg 25 17, adrBits, 0, 0, adrBits, msk, cr]
  else if o = 0x1B then [fmt + arg 19 17, adrBits, 0, adrBits, adrBits, msk, cr]
  else if o = 0x20 then [fmt + arg 26 17, adrBits, 2 ^ 56 - 1, 0, adrBits, 0, rows + cst]
  else if o = 0x21 ∧ bitAt v.arg 0 then
    [fmt + arg 31 17, adrBits, 2 ^ 56 - 1, 2 ^ 64 - 1, 2 ^ 64 - 1, 2 ^ 64 - 1, cr + 3 * 2 ^ 40]
  else if o = 0x21 then
    [fmt + arg 21 17, adrBits, 2 ^ 56 - 1, 2 ^ 64 - 2 ^ 48, 2 ^ 64 - 1, 2 ^ 64 - 1, cr + cst]
  else [0, adrBits, 2 ^ 16 - 1, 0, 0, 0, 0]

/-- An operation that uses no mask. -/
def vopNoMask (o : Nat) : Bool := o == 0x20 || o == 0x21 || o == 0x30

/-- Nothing outside the bits in use is set: word 0 also holds ENGINE, OP, MASK_EN and, for an operation with a mask, MASK_ZERO;
word 7 is the sync word (Table 6.3). -/
def vopClean (v : VSet) : Bool :=
  let used := vopUses v
  let base := 2 ^ 10 - 1 + 2 ^ 14 + (if vopNoMask v.op then 0 else 2 ^ 15)
  bits (v.word 7) 63 46 == 0 && (upto 7).all fun i =>
    let m := used.getD i 0 + if i = 0 then base else 0
    let x := if i = 0 then v.word 0 % 2 ^ 32 else v.word i
    Nat.land x m == x

/-- Settings of a vector job whose control word is good. -/
def vsetOf (w : Nat → Nat) : VSet :=
  { op := bits (w 0) 9 4, f := (fmtOf (bits (w 0) 13 10)).getD .fp32, maskEn := bitAt (w 0) 14, maskZero := bitAt (w 0) 15,
    bscalar := bitAt (w 0) 16, arg := bits (w 0) 31 17, w := (upto 8).map w, count := bits (w 6) 23 0 + 1,
    rows := bits (w 6) 39 24 + 1, cst := bits (w 6) 61 48 }

/-- The fault of a vector job's fields, if any (R204, R205, R209). -/
def vsetFault (v : VSet) : Option Nat :=
  let fo := fmtOf (bits (v.word 0) 13 10)
  if (v.op = 0x18 ∨ v.op = 0x19 ∨ v.op = 0x0E) ∧ !v.maskEn then some 0x06_0004
  else if vopNoMask v.op && v.maskEn then some 0x06_0004
  else if !vopClean v then some 0x06_0004
  else if !vopFmt v.op fo then some 0x06_0001
  else none

/-- Bit i of a bit string in memory (R49, R207). -/
def rdBit (c p a i : Nat) : EM Bool := do
  let b ← rdN (.vec c) p none (a + i / 8) 1
  pure (bitAt b (i % 8))

/-- Element i of row r is active (R207). -/
def vactive (c p : Nat) (v : VSet) (r i : Nat) : EM Bool :=
  if v.maskEn then rdBit c p (v.addr 5) (r * v.count + i) else pure true

/-- Address of element n of an operand of format f. -/
def eAddr (base n : Nat) (f : Fmt) : Nat := base + n * (fmtBits f / 8)

/-- The scalar of BSCALAR, in the element format (Table 6.6). -/
def vscalar (v : VSet) : Nat := v.word 2 % 2 ^ fmtBits v.f

/-- Operand B of element n. -/
def vB (c p : Nat) (v : VSet) (n : Nat) : EM Nat :=
  if v.bscalar then pure (vscalar v) else rdElem c p v.f (eAddr (v.addr 2) n v.f)

/-- An element-wise operation over every row (R205, R207). -/
def vElementwise (c p : Nat) (v : VSet) : EM Unit :=
  let two : Bool := v.op == 1 || v.op == 2 || v.op == 3 || v.op == 4 || v.op == 5 || v.op == 6
  (upto v.rows).forM fun r => (upto v.count).forM fun i => do
    let n := r * v.count + i
    let act ← vactive c p v r i
    if act then do
      let a ← rdElem c p v.f (eAddr (v.addr 1) n v.f)
      let b ← if two then vB c p v n else pure 0
      let x ← if v.op = 4 then rdElem c p v.f (eAddr (v.addr 3) n v.f) else pure 0
      let u ← if needsFree v.op v.f then liftS takeFree else pure 0
      wrElem c p v.f (eAddr (v.addr 4) n v.f) (elemOp v.op v.f a b x u)
    else if v.maskZero then wrElem c p v.f (eAddr (v.addr 4) n v.f) 0
    else pure ()

/-- CMPGT and CMPEQ: the mask bits of every row as one bit string, pad bits 0 (R207). -/
def vCompare (c p : Nat) (v : VSet) : EM Unit := do
  let bs ← (upto (v.rows * v.count)).mapM fun n => do
    let act ← vactive c p v (n / v.count) (n % v.count)
    if act then do
      let a ← rdElem c p v.f (eAddr (v.addr 1) n v.f)
      let b ← vB c p v n
      pure (b2n (elemCmp v.op v.f a b))
    else pure 0
  wr (.vec c) p none (v.addr 4) (packCodes .b1 bs)

/-- SELECT: A where the mask bit is 1, B where it is 0 (Table 6.7), as COPY writes it (R48, R206). -/
def vSelect (c p : Nat) (v : VSet) : EM Unit :=
  (upto (v.rows * v.count)).forM fun n => do
    let act ← vactive c p v (n / v.count) (n % v.count)
    let x ← if act then rdElem c p v.f (eAddr (v.addr 1) n v.f) else vB c p v n
    wrElem c p v.f (eAddr (v.addr 4) n v.f) (elemOp 0 v.f x 0 0 0)

/-- The active elements of row r, in ascending order. -/
def vRow (c p : Nat) (v : VSet) (r : Nat) : EM (List Nat) := do
  let l ← (upto v.count).mapM fun i => do
    let act ← vactive c p v r i
    if act then do
      let a ← rdElem c p v.f (eAddr (v.addr 1) (r * v.count + i) v.f)
      pure [a]
    else pure []
  pure l.flatten

/-- The maximum of a row's active elements in the row's format (R206, R207). -/
def rowMax (f : Fmt) (l : List Nat) (u : Nat) : Nat :=
  match l with
  | [] => match f with
    | .fp32 => 0xFF80_0000
    | .bf16 => 0xFF80
    | .i32 => 0x8000_0000
    | _ => 0x81
  | a :: r => r.foldl (fun m x => elemOp 5 f m x 0 u) (elemOp 0 f a 0 0 0)

/-- RSUM, RMAX and RSUMSQ (R206, R207). -/
def vReduce (c p : Nat) (v : VSet) : EM Unit :=
  (upto v.rows).forM fun r => do
    let l ← vRow c p v r
    let fl : Bool := v.f == .fp32 || v.f == .bf16
    if v.op = 0x11 then do
      let u ← if fl then liftS takeFree else pure 0
      wrElem c p v.f (eAddr (v.addr 4) r v.f) (rowMax v.f l u)
    else if fl then do
      let ws := l.map fun a => let w := fenc .fp32 (fdec v.f a); if v.op = 0x12 then mul32 w w else w
      let x ← liftS (freeSum (ws.length - 1) ws)
      wrElem c p .fp32 (eAddr (v.addr 4) r .fp32) x
    else wrElem c p .i32 (eAddr (v.addr 4) r .i32) (toBits 32 (l.map (intElem v.f)).sum)

/-- COMPRESS (R208). -/
def vCompress (c p : Nat) (v : VSet) : EM Unit :=
  (upto v.rows).forM fun r => do
    let l ← vRow c p v r
    (l.zip (upto l.length)).forM fun q => 
      wrElem c p v.f (eAddr (v.addr 4) (r * v.count + q.2) v.f) (elemOp 0 v.f q.1 0 0 0)
    wrElem c p .i32 (v.addr 3 + 4 * r) l.length

/-- EXPAND of one row: position i onward, with the next packed element at place j (R208). -/
def expandRow (c p : Nat) (v : VSet) (r : Nat) : Nat → Nat → Nat → EM Unit
  | 0, _, _ => pure ()
  | f + 1, i, j => do
    let act ← vactive c p v r i
    if act then do
      let a ← rdElem c p v.f (eAddr (v.addr 1) (r * v.count + j) v.f)
      wrElem c p v.f (eAddr (v.addr 4) (r * v.count + i) v.f) (elemOp 0 v.f a 0 0 0)
      expandRow c p v r f (i + 1) (j + 1)
    else do
      if v.maskZero then wrElem c p v.f (eAddr (v.addr 4) (r * v.count + i) v.f) 0 else pure ()
      expandRow c p v r f (i + 1) j

/-- A NaN met by a stochastic-rounding write (Table 4.4). -/
def countSrNan (c : Nat) (v : FVal) (s : State) : State :=
  if v = .nan then bumpC c Reg.QNT_SR_NAN 0 1 s else s

/-- A pair of CVT along the vector-engine rows of Table 2.6. -/
def cvtOk (f : Fmt) (d : Option Fmt) : Bool :=
  match f, d with
  | .fp32, some .bf16 => true
  | .fp32, some .fp16 => true
  | .fp32, some .i8 => true
  | .i32, some .i8 => true
  | .i32, some .i4 => true
  | .i32, some .fp32 => true
  | .i8, some .fp32 => true
  | .bf16, some .fp32 => true
  | _, _ => false

/-- One CVT result; u is the draw of an FP32 to I8 conversion (R209). -/
def cvtElem (f d : Fmt) (shift a u : Nat) : Nat :=
  match f, d with
  | .fp32, .i8 => srI8 (fdec .fp32 a) u
  | .fp32, d => fenc d (fdec .fp32 a)
  | .i32, .i8 => toBits 8 (requant 127 (sext 32 a) shift)
  | .i32, .i4 => toBits 4 (requant 7 (sext 32 a) shift)
  | .i32, _ => fenc .fp32 (fofInt (sext 32 a))
  | .i8, _ => fenc .fp32 (fofInt (codeInt .i8 a))
  | _, _ => fenc .fp32 (fdec .bf16 a)

/-- Write a 4-bit element; the last byte's pad is written 0 (R50). -/
def wrNibble (c p base n total v : Nat) : EM Unit := do
  let a := base + n / 2
  let old ← rdN (.vec c) p none a 1
  let w := if n % 2 = 0 then v + (if n + 1 = total then 0 else old / 16 * 16) else old % 16 + 16 * v
  wrN (.vec c) p none a 1 w

/-- CVT (R209). -/
def vCvt (c p : Nat) (v : VSet) : EM Unit := do
  let dt := fmtOf (bits (v.word 0) 20 17)
  let shift := bits (v.word 0) 25 21
  let d := dt.getD .fp32
  if !cvtOk v.f dt then throw (.fail 0x01 0x06_0001) else pure ()
  if shift ≠ 0 ∧ !(v.f = .i32 ∧ d ≠ .fp32) then throw (.fail 0x01 0x06_0004) else pure ()
  let put (n x : Nat) : EM Unit :=
    if d = .i4 then wrNibble c p (v.addr 4) n (v.rows * v.count) x else wrElem c p d (eAddr (v.addr 4) n d) x
  (upto v.rows).forM fun r => (upto v.count).forM fun i => do
    let n := r * v.count + i
    let act ← vactive c p v r i
    if act then do
      let a ← rdElem c p v.f (eAddr (v.addr 1) n v.f)
      let sr : Bool := v.f == .fp32 && d == .i8
      let u ← if sr then liftS (draw (96 + c) (i % 128)) else pure 0
      if sr then modify (countSrNan c (fdec .fp32 a)) else pure ()
      put n (cvtElem v.f d shift a u)
    else if v.maskZero then put n 0
    else pure ()

/-- QROW: narrow-state rows (R136, R209). -/
def vQrow (c p : Nat) (v : VSet) : EM Unit := do
  let sg := bits (v.word 0) 18 17
  if sg = 3 ∨ 65536 < v.count then throw (.fail 0x01 0x06_0003) else pure ()
  let sz := groupSize sg
  (upto v.rows).forM fun r => do
    let xs ← (upto v.count).mapM fun i => do
      let act ← vactive c p v r i
      if act then do
        let a ← rdElem c p .fp32 (eAddr (v.addr 1) (r * v.count + i) .fp32)
        pure (some (fdec .fp32 a))
      else pure none
    let mags := xs.zip (upto v.count) |>.map fun q => ((q.1.getD (.fin false 0 0)), q.2)
    let gs := (runsOf sz (v.count + 1) mags).map (groupMags [])
    let sc := rowScaleOf (bitAt (v.word 0) 19) (gs.map (groupE .i8 (quantQ .i8)))
    let g := cdiv v.count sz
    wr (.vec c) p none (v.addr 3 + r * scaleRowBytes g) (leBytes 2 (expWord sc.1) ++ packCodes .i3 sc.2)
    (xs.zip (upto v.count)).forM fun q =>
      match q.1 with
      | some x => do
        let u ← liftS (draw (96 + c) (q.2 % 128))
        modify (countSrNan c x)
        wrElem c p .i8 (v.addr 4 + r * v.count + q.2) (srI8 (fscale x (-(sc.1 + Int.ofNat (sc.2.getD (q.2 / sz) 0)))) u)
      | none => if v.maskZero then wrElem c p .i8 (v.addr 4 + r * v.count + q.2) 0 else pure ()

/-- RCOMBINE (R210). -/
def vRcombine (c p : Nat) (v : VSet) : EM Unit := do
  let wtag := bits (v.word 0) 20 17
  let adig := bits (v.word 0) 21 21
  let parts := bits (v.word 0) 26 22 + 1
  match fmtOf wtag with
  | none => throw (.fail 0x01 0x06_0001)
  | some f => do
    if !isWeight f then throw (.fail 0x01 0x06_0001) else pure ()
    let et ← jobExp c p (v.addr 2)
    let ecb := sext 8 (bits (v.word 2) 55 48)
    -- no row is written unless every record has the job's tags (R36, R210)
    let ls ← (upto v.rows).mapM fun r => (upto parts).mapM fun i => rdN (.vec c) p none (v.addr 1 + 8 * (r * parts + i)) 8
    if ls.any fun l => l.any fun w => bits w 51 48 != wtag || bits w 52 52 != adig then throw (.fail 0x01 0x06_0006) else pure ()
    (ls.zip (upto v.rows)).forM fun q => do
      let ew ← jobScale c (v.cst + q.2)
      let total := (q.1.map fun w => sext 48 w).sum
      wrElem c p .fp32 (v.addr 4 + 4 * q.2)
        (fenc .fp32 (fscale (fround .fp32 (fofInt total)) (et + ew + eFmt f ecb)))

/-! ### The outlier adder (R54, R134, R211) -/

/-- The 128-element block of a tensor that an index lies in (R53, R54). -/
def sideBlock (red i : Nat) : Nat × Nat := (i / red, i % red / 128)

/-- Where an OADD job stands in its side list: the index before, the indices and products taken, the entries ignored. -/
structure OaddScan where
  prev : Option Nat := none
  seen : List Nat := []
  terms : List (Nat × Nat) := []
  deriving DecidableEq, Repr

/-- A code of the other operand: format, base of its row, element. -/
def otherCode (c p : Nat) (f : Fmt) (row k : Nat) : EM Nat := do
  match f with
  | .i3 => do
    let l ← rd (.vec c) p none (row + 3 * (k / 8)) 3
    pure (codeAt .i3 (byteOf l) (k % 8))
  | _ => do
    let w := fmtBits f
    let l ← rd (.vec c) p none (row + w * k / 8) 1
    pure (if w < 8 then bits (byteOf l 0).toNat (w * k % 8 + w - 1) (w * k % 8) else (byteOf l 0).toNat)

/-- The free values of an OADD job, numbered from `base`: entry j of the C4 codebook, and the side-list VALUE of the activation at
element k of token t, neither of which the job's fields name (R134, R211; log 8). -/
def freeCode (base code : Nat) : Int := Int.ofNat (Config.freeNat (base + code % 16) % 255) - 127
def freeSide (base red t k : Nat) : Nat := Config.freeNat (base + 16 + t * red + k) % 2 ^ 16

/-- v(code) of the other operand (Table 3.6). -/
def otherVal (f : Fmt) (code base : Nat) : Int := if f = .c4 then freeCode base code else codeInt f code

/-- The address and FP32 product of one escaped pair: an entry's index and value, and row or token r (R134, R211). -/
def oaddTerm (c p : Nat) (v : VSet) (f : Fmt) (red base : Nat) (e : Nat × Nat) (r : Nat) : EM (Nat × Nat) := do
  let kind := bitAt (v.word 0) 17
  let ost := bits (v.word 5) 31 0
  let tst := bits (v.word 5) 63 32
  let ecb := sext 8 (bits (v.word 2) 55 48)
  let isu := bits (v.word 0) 31 22
  let q := e.1 / red
  let k := e.1 % red
  let code ← otherCode c p f (v.addr 2 + r * ost) k
  let val := fdec .bf16 e.2
  if !kind then do
    let ew ← jobScale c (v.cst + r)
    let w := fscale (fofInt (otherVal f code base)) (ew + eFmt f ecb)
    pure (v.addr 4 + 4 * r + q * tst, fenc .fp32 (fmulX val w))
  else do
    let row := v.addr 3 + r * (2 + 3 * isu)
    let et ← jobExp c p row
    let sz := groupSize (bits (v.word 6) 41 40)
    let g := k / sz
    let ol ← rd (.vec c) p none (row + 2 + 3 * (g / 8)) 3
    let o := offAt (byteOf ol) (g % 8)
    let x := if isEsc f code then fdec .bf16 (freeSide base red r k)
      else fscale (fofInt (codeInt f code)) (et + Int.ofNat o + codeExp f)
    pure (v.addr 4 + 4 * q + r * tst, fenc .fp32 (fmulX val x))

/-- Entry i of the side list is read and checked, and its products are formed (R54, R211). -/
def oaddEntry (c p : Nat) (v : VSet) (f : Fmt) (red own base : Nat) (z : OaddScan) (i : Nat) : EM OaddScan := do
  let w ← rdN (.vec c) p none (v.addr 1 + 8 * i) 8
  let x := bits w 31 0
  if !complOk 16 (bits w 47 32) (bits w 63 48) then throw (.fail 0x0D 0x06_0008 (some (v.addr 1 + 8 * i)))
  else if decide (own * red ≤ x) || (z.prev.map fun q => decide (x ≤ q)).getD false then throw (.fail 0x01 0x06_0007)
  else if 4 ≤ (z.seen.filter fun y => sideBlock red y == sideBlock red x).length then do
    modify (bumpC c Reg.QNT_OA_CLAMP 0 1)
    pure { z with prev := some x }
  else do
    let ts ← (upto v.rows).mapM fun r => oaddTerm c p v f red base (x, bits w 47 32) r
    pure { prev := some x, seen := z.seen ++ [x], terms := z.terms ++ ts }

/-- The entries from i on, n of them; a fault keeps what was read before it. -/
def oaddScan (c p : Nat) (v : VSet) (f : Fmt) (red own base : Nat) : Nat → Nat → OaddScan → EM (OaddScan × Option Stop)
  | 0, _, z => pure (z, none)
  | n + 1, i, z => fun s =>
    match oaddEntry c p v f red own base z i s with
    | .ok z s => oaddScan c p v f red own base n (i + 1) z s
    | .error e s => .ok (z, some e) s

/-- A list in an order that free values pick. -/
def freeOrder {α : Type} : Nat → List α → State → List α × State
  | 0, l, s => (l, s)
  | n + 1, l, s =>
    let a := takeFree s
    let i := a.1 % l.length
    match l.drop i with
    | [] => (l, a.2)
    | x :: r =>
      let q := freeOrder n (l.take i ++ r) a.2
      (x :: q.1, q.2)

/-- An FP32 atomic add at the bank (R134, R211). -/
def oaddAdd (c p : Nat) (q : Nat × Nat) : EM Unit := do
  if q.1 % 4 ≠ 0 then throw (.fail 0x01 0x06_000A)
  else do
    let old ← rdAtomic (.vec c) p none q.1 4
    wrN (.vec c) p none q.1 4 (add32 old q.2)

/-- The tag of the other operand is one that it accepts: a LUT weight format for activation entries, a LUT activation format for
weight entries (R36, R37). -/
def oaddFmt (kind : Bool) (f : Fmt) : Bool := if kind then f == .i4 || f == .i8 else isWeight f

/-- OADD: each product is one atomic add, in no fixed order; of a job that a fault ends, some of the products of the entries read
before it are added (R54, R134, R197, R211; log 8). -/
def vOadd (c p : Nat) (v : VSet) : EM Unit := do
  let kind := bitAt (v.word 0) 17
  match fmtOf (bits (v.word 0) 21 18) with
  | none => throw (.fail 0x01 0x06_0001)
  | some f => do
    if !oaddFmt kind f then throw (.fail 0x01 0x06_0001) else pure ()
    if kind ∧ bits (v.word 6) 41 40 = 3 then throw (.fail 0x01 0x06_0003) else pure ()
    let red := bits (v.word 3) 63 48 + 1
    let own := bits (v.word 4) 63 48 + 1
    let s ← get
    let base := s.fresh
    modify fun s => { s with fresh := base + 16 + v.rows * red }
    let r ← oaddScan c p v f red own base v.count 0 {}
    let ts ← liftS (freeOrder r.1.terms.length r.1.terms)
    match r.2 with
    | none => ts.forM (oaddAdd c p)
    | some e => do
      let n ← liftS takeFree
      (ts.take (n % (ts.length + 1))).forM (oaddAdd c p)
      throw e

/-- GIVE: the bank's owner register takes the code after the domain's accesses (R209, R276). -/
def vGive (c p : Nat) (v : VSet) : EM Unit := do
  let ks ← keysOf (.vec c) p none (v.addr 1) 1
  let s ← get
  let cb := bankOfKey (ks.headD 0)
  let code := bits (v.word 2) 15 0
  if codeOk s cb.1 cb.2 code then modify (startHandover cb.1 cb.2 code (some (engGiver c 1)))
  else do
    modify (flagP p Reg.BNK_ERR 0)
    throw (.viol 1 (v.addr 1))

/-- An event of the vector engine: the first job of its queue is an operation `op` and runs (R193 to R197, R204). -/
def vecOp (op c : Nat) (run : Nat → Nat → VSet → EM Unit) (s : State) : Out :=
  if 96 ≤ c then .fault .noSuchUnit
  else
    let q := clu s c
    match q.vq with
    | [] => .next s
    | j :: rest =>
      let p := (taskOf s j.task).part
      if !awake s c || isFrozen s p (.vec c) || !engFree s c 1 then .next s
      else
        let pop (s : State) : State := modClu c (fun q => Cluster.refill { q with vq := rest }) s
        match runEM (rd (.vec c) p none j.addr 64) s with
        | .stop e s => .next (jobStop c 1 j.task e (pop s))
        | .good l s =>
          let w := words8 l
          let v := vsetOf w
          if !complOk 32 (bits (w 0) 31 0) (bits (w 0) 63 32) then .next (jobFault c 1 j.task 0x0D 0x06_0002 (some (j.addr, memOf j.addr)) (pop s))
          else if bits (w 0) 3 0 ≠ 2 ∨ !vopListed v.op then .next (jobFault c 1 j.task 0x01 0x06_0004 none (pop s))
          else if v.op ≠ op ∨ !syncMet s c (w 7) then .next s
          else match vsetFault v with
            | some d => .next (jobFault c 1 j.task 0x01 d none (pop s))
            | none =>
              match runEM (run c p v) (pop s) with
              | .good _ s => .next (jobEnd c 1 j.task (w 7) s)
              | .stop e s => .next (jobStop c 1 j.task e s)

/-- VEC_COPY. -/
def execVecCopy (c : Nat) (s : State) : Out := vecOp 0x00 c vElementwise s
/-- VEC_ADD. -/
def execVecAdd (c : Nat) (s : State) : Out := vecOp 0x01 c vElementwise s
/-- VEC_SUB. -/
def execVecSub (c : Nat) (s : State) : Out := vecOp 0x02 c vElementwise s
/-- VEC_MUL. -/
def execVecMul (c : Nat) (s : State) : Out := vecOp 0x03 c vElementwise s
/-- VEC_FMA. -/
def execVecFma (c : Nat) (s : State) : Out := vecOp 0x04 c vElementwise s
/-- VEC_MAX. -/
def execVecMax (c : Nat) (s : State) : Out := vecOp 0x05 c vElementwise s
/-- VEC_MIN. -/
def execVecMin (c : Nat) (s : State) : Out := vecOp 0x06 c vElementwise s
/-- VEC_ABS. -/
def execVecAbs (c : Nat) (s : State) : Out := vecOp 0x07 c vElementwise s
/-- VEC_NEG. -/
def execVecNeg (c : Nat) (s : State) : Out := vecOp 0x08 c vElementwise s
/-- VEC_EXP. -/
def execVecExp (c : Nat) (s : State) : Out := vecOp 0x09 c vElementwise s
/-- VEC_RECIP. -/
def execVecRecip (c : Nat) (s : State) : Out := vecOp 0x0A c vElementwise s
/-- VEC_RSQRT. -/
def execVecRsqrt (c : Nat) (s : State) : Out := vecOp 0x0B c vElementwise s
/-- VEC_CMPGT. -/
def execVecCmpgt (c : Nat) (s : State) : Out := vecOp 0x0C c vCompare s
/-- VEC_CMPEQ. -/
def execVecCmpeq (c : Nat) (s : State) : Out := vecOp 0x0D c vCompare s
/-- VEC_SELECT. -/
def execVecSelect (c : Nat) (s : State) : Out := vecOp 0x0E c vSelect s
/-- VEC_RSUM. -/
def execVecRsum (c : Nat) (s : State) : Out := vecOp 0x10 c vReduce s
/-- VEC_RMAX. -/
def execVecRmax (c : Nat) (s : State) : Out := vecOp 0x11 c vReduce s
/-- VEC_RSUMSQ. -/
def execVecRsumsq (c : Nat) (s : State) : Out := vecOp 0x12 c vReduce s
/-- VEC_COMPRESS. -/
def execVecCompress (c : Nat) (s : State) : Out := vecOp 0x18 c vCompress s
/-- VEC_EXPAND. -/
def execVecExpand (c : Nat) (s : State) : Out :=
  vecOp 0x19 c (fun c p v => (upto v.rows).forM fun r => expandRow c p v r v.count 0 0) s
/-- VEC_CVT. -/
def execVecCvt (c : Nat) (s : State) : Out := vecOp 0x1A c vCvt s
/-- VEC_QROW. -/
def execVecQrow (c : Nat) (s : State) : Out := vecOp 0x1B c vQrow s
/-- VEC_RCOMBINE. -/
def execVecRcombine (c : Nat) (s : State) : Out := vecOp 0x20 c vRcombine s
/-- VEC_OADD. -/
def execVecOadd (c : Nat) (s : State) : Out := vecOp 0x21 c vOadd s
/-- VEC_GIVE. -/
def execVecGive (c : Nat) (s : State) : Out := vecOp 0x30 c vGive s

end Sys2Proof.Machine
end

