-- ==== Sys2Proof/Machine/Tables.lean ====
section
/-!
DEFINITION. Embedding tables (R220 to R230), row caches (R231 to R234), the row read protocol (R236 to R238), the
fabric side of reads (R445, R447) and the gather-pool engines (R240 to R245).
-/
namespace Sys2Proof.Machine

/-! ### Records, descriptors and shard maps -/

/-- Bytes of one code slot, and of a row record (R221). -/
def slotBytes (d : TabD) : Nat := 8 * cdiv (packedBytes d.f d.dim) 8
def recBytes (d : TabD) : Nat := 16 * cdiv (16 + 2 * slotBytes d) 16

/-- A table descriptor's words, if the table ID is defined (R225). -/
def tabOf (w : Nat → Nat) : Option TabD :=
  match fmtOf (bits (w 0) 3 0) with
  | none => none
  | some f =>
    let s := groupSize (bits (w 0) 5 4)
    let dim := bits (w 0) 15 6 + 1
    let rows := bits (w 1) 39 0
    let sl := bits (w 1) 45 40
    if !isCode f ∨ bits (w 0) 5 4 = 3 ∨ 768 < dim ∨ 6 * s < dim ∨ rows = 0 ∨ sl < 10 ∨ 40 < sl then none
    else some {
      f := f, s := s, dim := dim, cache := bitAt (w 0) 16, accOk := bitAt (w 0) 17, rows := rows, shlog := sl,
      smap := bits (w 2) 47 0, cbk := bits (w 3) 47 0, cmask := w 4 + bits (w 5) 31 0 * 2 ^ 64 }

/-- Read a table's descriptor (R225, R227). -/
def readTable (m : Master) (p t : Nat) : EM TabD := do
  let s ← get
  if bits (preg s p Reg.TBL_DIR_COUNT) 12 0 ≤ t then throw (.fail 0x01 0x07_0001) else pure ()
  let l ← rd m p none (bits (preg s p Reg.TBL_DIR_BASE) 47 0 + 64 * t) 64
  let w := words8 l
  if !complOk 32 (bits (w 0) 31 0) (bits (w 0) 63 32) then do
    modify (flagP p Reg.TBL_ERR 0)
    throw (.fail 0x0D 0x07_0002 (some (bits (preg s p Reg.TBL_DIR_BASE) 47 0 + 64 * t)))
  else match tabOf w with
    | none => throw (.fail 0x01 0x07_0001)
    | some d => pure d

/-- Read the shard-map entry of a row (R226). -/
def readShard (m : Master) (p : Nat) (d : TabD) (row : Nat) : EM Shard := do
  let n ← rdN m p none (d.smap + 16 * (row / 2 ^ d.shlog)) 16
  pure { tier := bits n 1 0, module := bits n 7 2, home := bits n 14 8, rep := bitAt n 15, replica := bits n 21 16,
         base := bits n 111 64 }

/-- Address of a row's record (R226). -/
def rowAddr (d : TabD) (sh : Shard) (row : Nat) : Nat := sh.base + row % 2 ^ d.shlog * recBytes d

/-- The table's codebook words (C4 only). -/
def readCodebook (m : Master) (p : Nat) (d : TabD) : EM (List Nat) := do
  if d.f ≠ .c4 then pure []
  else
    let l ← rd m p none d.cbk 32
    pure ((upto 16).map fun i => leNat ((l.drop (2 * i)).take 2))

/-- H0 of a header, and whether its complement matches (R222). -/
def hdr0 (h : Nat) : Nat := h % 2 ^ 64
def hdrOk (h : Nat) : Bool := complOk 64 (hdr0 h) (h / 2 ^ 64)

/-- Fields of H0 (Table 7.1). -/
def hVer (h : Nat) : Nat := bits h 31 0
def hExp (h : Nat) : Int := sext 8 (bits h 39 32)
def hTag (h : Nat) : Nat := bits h 43 40
def hSlot (h : Nat) : Nat := bits h 44 44
def hOff (h g : Nat) : Nat := bits h (48 + 3 * g) (46 + 3 * g)

/-- The header of a version, exponent, format, slot and offsets, with its complement (Table 7.1). -/
def mkHeader (ver : Nat) (e : Int) (f : Fmt) (slot : Nat) (offs : List Nat) : Nat :=
  let h := ver % 2 ^ 32 + toBits 8 e * 2 ^ 32 + fmtTag f * 2 ^ 40 + slot % 2 * 2 ^ 44 + packNat 3 (offs.take 6) * 2 ^ 46
  h + compl 64 h * 2 ^ 64

/-- The elements of a row as FP32 words, by its header and codes (R224). -/
def decodeRow (d : TabD) (cb : List Nat) (h : Nat) (codes : List Byte) : List Nat :=
  (upto d.dim).map fun k =>
    fenc .fp32 (decodeAt d.f cb (codeAt d.f (byteOf codes) k) (hExp h + Int.ofNat (hOff h (k / d.s))))

/-- Escape codes among a row's codes (R224). -/
def rowEscapes (d : TabD) (codes : List Byte) : Nat :=
  ((upto d.dim).filter fun k => isEsc d.f (codeAt d.f (byteOf codes) k)).length

/-! ### One attempt (R236) -/

/-- What one attempt on a record in memory gives. -/
inductive Attempt where
  | empty
  | pass (h : Nat) (codes : List Byte)
  /-- The complement or FTAG check failed, or else the version changed; with the header's VERSION. -/
  | bad (integ : Bool) (ver : Nat)

/-- One attempt; `ovr` says that another master rewrote the row between head and tail read. The first access to a record of at
most 64 bytes reads the header and both slots. -/
def tryRow (m : Master) (p : Nat) (d : TabD) (a : Nat) (ovr : Bool) : EM Attempt := do
  let whole : Bool := decide (recBytes d ≤ 64)
  let l ← rd m p none a (if whole then 16 + 2 * slotBytes d else 16)
  let h := leNat (l.take 16)
  if h = 0 then pure (if ovr then .bad true 0 else .empty)
  else if !hdrOk h ∨ hTag h ≠ fmtTag d.f then pure (.bad true (hVer h))
  else do
    let c ← if whole then pure ((l.drop (16 + hSlot h * slotBytes d)).take (slotBytes d))
      else rd m p none (a + 16 + hSlot h * slotBytes d) (slotBytes d)
    pure (if ovr then .bad false (hVer h) else .pass h c)

/-- Status and detail of a row whose four attempts failed (R238). -/
def rowFailCode (integ : Bool) : Nat × Nat := if integ then (0x0D, 0x07_0005) else (0x01, 0x07_0004)

/-- Run an operation and catch its Stop; what it did before the Stop stays. -/
def attemptEM {α : Type} (m : EM α) : EM (Except Stop α) := fun s =>
  match m s with
  | .ok a s => .ok (.ok a) s
  | .error e s => .ok (.error e) s

/-! ### Row caches (R231 to R234) -/

/-- Bytes of a line. -/
def lineBytes (s : State) (c : Nat) : Nat := 64 * 2 ^ bits (creg s c Reg.UPD_CACHE_CFG) 1 0

/-- Banks of the row cache, ascending. -/
def cacheBanks (s : State) (c : Nat) : List Nat := (upto 64).filter fun b => bitAt (creg s c Reg.UPD_CACHE_BANKS) b

/-- Lines of one bank. -/
def linesPerBank (s : State) (c : Nat) : Nat := 2 ^ 18 / lineBytes s c

/-- SETS (R231). -/
def cacheSets (s : State) (c : Nat) : Nat :=
  let n := (cacheBanks s c).length * linesPerBank s c / 4
  if n = 0 then 0 else 2 ^ Nat.log2 n

/-- The set of a row (R231). -/
def cacheSet (s : State) (c t row : Nat) : Nat := Nat.xor row (t * 2 ^ 20) % cacheSets s c

/-- Partition address of a line: the four ways of set x are lines 4x to 4x + 3 in bank order (log 21). -/
def lineAddr (s : State) (c i : Nat) : Nat :=
  c * 2 ^ 30 + (cacheBanks s c).getD (i / linesPerBank s c) 0 * 2 ^ 18 + i % linesPerBank s c * lineBytes s c

/-- A tag names (table, row) and is valid (Table 7.4). -/
def tagHits (tag t row : Nat) : Bool := bitAt tag 63 && bits tag 39 0 == row && bits tag 51 40 == t

/-- The ways of the row's set whose tag hits, read as the update domain. -/
def findLine (c p t row : Nat) : EM (List Nat) := do
  let s ← get
  if cacheSets s c = 0 then pure []
  else
    let x := cacheSet s c t row
    let l ← (upto 4).mapM fun w => do
      let tag ← rdN (.upd c) p none (lineAddr s c (4 * x + w)) 8
      pure (if tagHits tag t row then [4 * x + w] else [])
    pure l.flatten

/-- The row cache serves a table in a cluster: CACHE and the cluster's bit of CMASK. -/
def cachedIn (s : State) (c : Nat) (d : TabD) : Bool :=
  d.cache && bitAt d.cmask c && decide (24 + slotBytes d ≤ lineBytes s c) && cacheSets s c != 0

/-- A cache read: header and codes, or none for a miss (R236). -/
def cacheRead (c p : Nat) (d : TabD) (t row : Nat) : EM (Option (Nat × List Byte)) := do
  let l ← findLine c p t row
  match l with
  | [] => pure none
  | i :: _ => do
    let s ← get
    let h ← rdN (.upd c) p none (lineAddr s c i + 8) 16
    if !hdrOk h then pure none
    else do
      let cs ← rd (.upd c) p none (lineAddr s c i + 24) (slotBytes d)
      pure (some (h, cs))

/-- A miss asks the update engine to fill (R232). -/
def askFill (c p t row : Nat) (s : State) : State :=
  modClu c (fun q =>
    if q.fills.any fun f => f.part == p && f.table == t && f.row == row then q
    else { q with fills := q.fills ++ [{ part := p, table := t, row := row }] }) s

/-- The read of a pending fill has passed, or failed: the fill then ends. -/
def fillResult (c p t row : Nat) (data : Option (List Byte)) (s : State) : State :=
  modClu c (fun q => match data with
    | some l => { q with fills := q.fills.map fun f =>
        if f.part = p ∧ f.table = t ∧ f.row = row then { f with data := some l } else f }
    | none => { q with fills := q.fills.filter fun f => !(f.part == p && f.table == t && f.row == row) }) s

/-! ### Freezing the update domain (Table 12.6) -/

/-- Number of entries of a batch not APPLIED, saturating (R260). -/
def notApplied (b : Batch) : Nat := min 0xFF_FFFF ((b.outc.filter fun q => q.2 != 1).length)

/-- The bytes a batch holds in its queue's receive buffer are free again (R436). -/
def freeHeld (b : Batch) (s : State) : State :=
  if b.kind = 1 then modNetq b.item (fun q => { q with used := q.used - b.held }) s else s

/-- A batch leaves the machine with a status: a command's record, an acknowledgement, its update job's end, or
nothing when its task has been stopped (R260). -/
def endBatch (id status detail : Nat) (s : State) : State :=
  let b := mget {} s.batches id
  let s := if b.checked then s else freeHeld b s
  let s := { s with
    batches := merase s.batches id
    remotes := s.remotes.filter fun r => !(r.gather == none && r.batch == id) }
  let s := modClu b.clu (fun q => { q with
    bq := q.bq.filter (· != id), ujRun := if q.ujRun = some id then none else q.ujRun }) s
  match b.kind with
  | 0 => addDue { b.due with status := status, detail := detail, rlen := b.n } s
  | 1 => { s with acks := s.acks ++ [(b, status, detail)] }
  | 3 => s
  | _ =>
    if status = 0 then jobEnd b.clu 6 b.item b.w7 s
    else report b.item status detail b.clu (modClu b.clu (Cluster.dropJobs b.item) s)

/-- The row reads of gather engines that satisfy a test are given up: their answers find nothing waiting. -/
def dropReads (f : Nat → Nat → Bool) (s : State) : State :=
  { s with remotes := s.remotes.filter fun r => match r.gather with
      | some (c, j, _) => !f c j
      | none => true }

/-- Freeze the update domain of a cluster: its jobs stop, and the batches of what it holds end. -/
def freezeUpd (p c kind addr : Nat) (s : State) : State :=
  if isFrozen s p (.upd c) then freezeMark p (.upd c) kind addr 0 (0, 0) s
  else
    let q := clu s c
    let mid := masterId (.upd c)
    let ts := ((upto 4).flatMap (fun j => (mget [] q.gq j).map fun e => e.task) ++
      (upto 4).filterMap (fun j => (mget none q.gRun j).map fun r => r.job.task) ++ (q.gw ++ q.uj ++ q.uw).map fun e => e.task).eraseDups
    let bs := (q.bq ++ (q.uq ++ q.redo).map (fun e => e.batch) ++ q.infl.map (fun m => m.ent.batch) ++ q.ujRun.toList).eraseDups
    let bs := bs.filter fun b => s.batches.any fun x => x.1 == b
    let id := (ts.head?.map fun t => taskTag s t).getD (0, 0)
    let s := freezeMark p (.upd c) kind addr (cmpIsland s c) id s
    let s := dropReads (fun d _ => d == c) (modClu c (fun q => { q with
      gq := [], gw := [], gRun := [], uj := [], uw := [], fills := [], uq := [], infl := [], redo := [] }) s)
    let s := bs.foldl (fun s b => endBatch b 0x07 mid s) s
    ts.foldl (fun s t => report t 0x07 mid c s) s

/-- What a Stop does to a fill or an invalidation: it belongs to no item, so an uncorrectable word and a bank without an owner's
matching pair are only recorded (R279, R291). -/
def updStop (c p : Nat) (e : Stop) (s : State) : State :=
  match e with
  | .viol kind a => freezeUpd p c kind a s
  | .fail st dt a => capture (.update c) (itemErr s st dt p (cmpIsland s c) a 0 0) s
  | .unc a mem pw =>
    capture (.update c) (memErr s 0x09 (uncDetail 0x07_000D mem pw) p (cmpIsland s c) a mem 0 0) s

/-! ### Failed rows (R238) -/

/-- Gather engine register. -/
def gpeReg (j o : Nat) : Nat := o + 0x80 * j

/-- A row has failed: counters, latches and error records of its requester and its owner. -/
def failRow (c j p own t row status detail ver : Nat) (tag : Nat × Nat) (s : State) : State :=
  let s := bumpP p Reg.TBL_ROW_FAILED 0 1 s
  let s := setPreg p Reg.TBL_LAST_FAILED (row % 2 ^ 40 + t % 2 ^ 12 * 2 ^ 40 + status % 256 * 2 ^ 52) s
  let s := bumpC c (gpeReg j Reg.GPE_RETRY) 32 1 (flagC c (gpeReg j Reg.GPE_ERR) 0 s)
  let e : ErrInfo := { sev := sevOf status, cls := 1, detail := detail, part := some p, island := cmpIsland s c,
                       cycles := recCycles s (cmpIsland s c), subject := row % 2 ^ 40 + t * 2 ^ 40, aux := ver,
                       tag := tag.1, iseq := tag.2 }
  let s := capture (.gpe c j) e s
  if own ≠ p ∧ (status = 0x0D ∨ status = 0x09) then
    fwRecord { e with part := some own, sev := 3, tag := 0, iseq := 0 } s
  else s

/-! ### Gather jobs (R241 to R245) -/

/-- A gather job's settings. -/
structure GSet where
  op : Nat := 0
  drop : Bool := false
  otag : Fmt := .fp32
  table : Nat := 0
  tp : Bool := false
  tpart : Nat := 0
  ids : Nat := 0
  boff : Nat := 0
  wts : Nat := 0
  dst : Nat := 0
  stride : Nat := 0
  bags : Nat := 1
  bstat : Nat := 0
  deriving DecidableEq, Repr

/-- Settings from a job's words (Table 7.8). -/
def gsetOf (w : Nat → Nat) : GSet :=
  { op := bits (w 0) 7 4, drop := bitAt (w 0) 12, otag := (fmtOf (bits (w 0) 11 8)).getD .fp32,
    table := bits (w 0) 24 13, tp := bitAt (w 0) 29, tpart := bits (w 0) 28 25, ids := bits (w 1) 47 0,
    boff := bits (w 2) 47 0, wts := bits (w 3) 47 0, dst := bits (w 4) 47 0, stride := bits (w 5) 31 0,
    bags := bits (w 5) 55 32 + 1, bstat := bits (w 6) 47 0 }

/-- Unused fields are 0 (R242). -/
def gunused (w : Nat → Nat) : Bool :=
  let z (i hi lo : Nat) : Bool := bits (w i) hi lo == 0
  if bits (w 0) 7 4 = 3 then
    z 0 31 8 && z 1 63 48 && z 2 63 16 && z 3 63 0 && z 4 63 0 && z 5 63 0 && z 6 63 0
  else
    z 0 31 30 && (bitAt (w 0) 29 || z 0 28 25) && z 1 63 48 && z 2 63 48 && z 3 63 48 && z 4 63 48 && z 5 63 56 &&
      z 6 63 48 && (bits (w 0) 7 4 == 2 || z 3 63 0)

/-- The row ID that is padding (R243). -/
def padRow : Nat := 0xFF_FFFF_FFFF

/-- A job in progress: cluster, engine, partition, settings, table. -/
structure GCtx where
  c : Nat
  j : Nat
  p : Nat
  g : GSet
  td : TabD
  shards : SMap (Option Shard)
  /-- HOST_TAG and SEQ a failed row's record carries: the request's under FAIL_REQUEST. -/
  tag : Nat × Nat
  deriving DecidableEq, Repr

/-- The partition that owns the job's table. -/
def GCtx.own (x : GCtx) : Nat := if x.g.tp then x.g.tpart else x.p

/-- The pending fill of a row of the requester's own table ends (R232). -/
def GCtx.endFill (x : GCtx) (row : Nat) (data : Option (List Byte)) : EM Unit :=
  if x.own = x.p then modify (fillResult x.c x.p x.g.table row data) else pure ()

/-- A row of the job fails and is reported. -/
def GCtx.fail (x : GCtx) (row status detail ver : Nat) : EM RowRes := do
  x.endFill row none
  modify (failRow x.c x.j x.p x.own x.g.table row status detail ver x.tag)
  pure (.failed row status detail)

/-- A row read meets a Stop: an uncorrectable word and a failed complement fail the row (R238, R263); a violation freezes the
requester's domain, or, under R230, that of the home that reads on its behalf, and then fails the row with BAD_TABLE (log 75). -/
def GCtx.rowStop (x : GCtx) (row : Nat) (home : Option Nat) (e : Stop) : EM RowRes :=
  match e with
  | .unc _ mem _ => x.fail row 0x09 (uncDetail 0x07_000A mem false) 0
  | .fail st dt _ => x.fail row st dt 0
  | .viol kind a =>
    if x.own = x.p then throw (.viol kind a)
    else do
      match home with
      | some c => modify (freezeUpd x.own c kind a)
      | none => pure ()
      x.fail row 0x01 0x07_0001 0

/-- The shard-map entry of a row, as it stood when the job arrived (R227). -/
def GCtx.shardOf (x : GCtx) (row : Nat) : EM Shard := do
  let sh ← readShard (if x.own = x.p then .upd x.c else .fw) x.own x.td row
  pure ((mget none x.shards (row / 2 ^ x.td.shlog)).getD sh)

/-- A row that passed, decoded, its escapes counted (R224). -/
def GCtx.got (x : GCtx) (cb : List Nat) (h : Nat) (codes : List Byte) : EM RowRes := do
  let n := rowEscapes x.td codes
  if n ≠ 0 then modify fun s => flagC x.c (gpeReg x.j Reg.GPE_ERR) 1 (bumpC x.c Reg.QNT_ROW_ESC 0 n s) else pure ()
  pure (.got (decodeRow x.td cb h codes))

/-- Attempt n of a row whose record lies in this module (R236, R230). -/
def GCtx.attempt (x : GCtx) (cb : List Nat) (sh : Shard) (row n : Nat) (ovr : Bool) : EM RowRes := do
  let reader := if x.own = x.p then x.c else sh.home
  let r ← attemptEM (tryRow (.upd reader) x.own x.td (rowAddr x.td sh row) ovr)
  match r with
  | .ok (.pass h codes) => do
    x.endFill row (some (leBytes 16 h ++ codes))
    x.got cb h codes
  | .ok .empty => do
    x.endFill row none
    modify (bumpC x.c (gpeReg x.j Reg.GPE_DROPPED) 32 1)
    pure (.got (List.replicate x.td.dim 0))
  | .ok (.bad integ ver) =>
    if n < 3 then do
      modify (bumpC x.c (gpeReg x.j Reg.GPE_RETRY) 0 1)
      pure (.retry row (n + 1) sh)
    else do
      if integ then modify (noteComplAt x.own (rowAddr x.td sh row)) else pure ()
      x.fail row (rowFailCode integ).1 (rowFailCode integ).2 ver
  | .error e => x.rowStop row (some reader) e

/-- Send a ROW_READ to a module, or fail the row at once (R440, R447). -/
def GCtx.sendRead (x : GCtx) (sh : Shard) (row pos : Nat) : EM RowRes := do
  let s ← get
  let msg := msgFor s x.own sh.module 0 x.g.table s.nextTag (row / 2 ^ x.td.shlog) (leBytes 8 row)
  let sent : Option State := if inDomain s then msg.bind fun m => sendMsg m none s else none
  match sent with
  | some s' => do
    let r : Remote := { tag := s.nextTag, part := x.p, gather := some (x.c, x.j, pos), own := x.own,
                        table := x.g.table, row := row, shard := sh }
    let s' : State := { s' with nextTag := (s.nextTag + 1) % 2 ^ 32, remotes := s'.remotes ++ [r] }
    set s'
    pure (.remote row s.nextTag)
  | none => do
    if inDomain s then modify countUnreach else pure ()
    x.fail row 0x01 0x07_0009 0

/-- A row that no cache holds: read in this module, on another partition's behalf, or over the fabric (R230, R243, R440). -/
def GCtx.fromShard (x : GCtx) (cb : List Nat) (caches : Bool) (sh : Shard) (row pos : Nat) (ovr : Bool) : EM RowRes := do
  if sh.tier = 3 then x.fail row 0x01 0x07_0001 0
  else if sh.tier = 2 then do
    modify (bumpC x.c (gpeReg x.j Reg.GPE_TIER) 32 1)
    x.sendRead sh row pos
  else do
    let s ← get
    if x.own ≠ x.p then modify (bumpC x.c (gpeReg x.j Reg.GPE_TIER) 32 1)
    else if sh.tier = 1 then modify (bumpC x.c (gpeReg x.j Reg.GPE_TIER) 0 1)
    else pure ()
    if x.own ≠ x.p ∧ (clu s sh.home).part ≠ some x.own then x.fail row 0x01 0x07_0001 0
    else if x.own ≠ x.p ∧ isFrozen s x.own (.upd sh.home) then x.fail row 0x01 0x07_0009 0
    else do
      if caches then modify (askFill x.c x.p x.g.table row) else pure ()
      x.attempt cb sh row 0 ovr

/-- The first handling of an ID (R243): padding, range, cache, record or remote. -/
def GCtx.first (x : GCtx) (cb : List Nat) (row pos : Nat) (ovr : Bool) : EM RowRes := do
  if row = padRow then pure .pad
  else if x.td.rows ≤ row then pure (.failed row 0x01 0x07_0003)
  else
    let s ← get
    let caches : Bool := x.own == x.p && cachedIn s x.c x.td
    let hit ← attemptEM (if caches then cacheRead x.c x.p x.td x.g.table row else pure none)
    match hit with
    | .error e => x.rowStop row none e
    | .ok (some (h, codes)) => do
      modify (bumpC x.c (gpeReg x.j Reg.GPE_HITS) 0 1)
      x.got cb h codes
    | .ok none => do
      if caches then modify (bumpC x.c (gpeReg x.j Reg.GPE_HITS) 32 1) else pure ()
      let sh ← attemptEM (x.shardOf row)
      match sh with
      | .error e => x.rowStop row none e
      | .ok sh => x.fromShard cb caches sh row pos ovr

/-- A row's state after one more event: a row waiting for attempt n makes it. -/
def GCtx.again (x : GCtx) (cb : List Nat) (ovr : Bool) (r : RowRes) : EM RowRes := do
  match r with
  | .retry row n sh => x.attempt cb sh row n ovr
  | r => pure r

/-- acc / n, rounded (R244). -/
def divN (w n : Nat) : Nat :=
  match fdec .fp32 w with
  | .fin neg m e =>
    let k := 64 + Nat.log2 n
    let q := m * 2 ^ k / n
    fenc .fp32 (.fin neg (2 * q + (if m * 2 ^ k % n = 0 then 0 else 1)) (e - k - 1))
  | v => fenc .fp32 v

/-- A bag's result and status word (R244). -/
def GCtx.pool (x : GCtx) (bag start : Nat) (rows : List RowRes) : EM Unit := do
  let m := Master.upd x.c
  let xs ← (rows.zip (upto rows.length)).mapM fun q =>
    match q.1 with
    | .got v => do
      if x.g.op = 2 then do
        let w ← rdN m x.p none (x.g.wts + 4 * (start + q.2)) 4
        pure [v.map (mul32 w)]
      else pure [v]
    | _ => pure []
  let xs := xs.flatten
  let n := xs.length
  let dropped := (rows.filter fun r => match r with | .failed _ _ _ => true | _ => false).length
  let acc ← (upto x.td.dim).mapM fun k => liftS (freeSumOn 0 (xs.map fun v => v.getD k 0))
  let acc := if x.g.op = 1 ∧ 0 < n then acc.map fun w => divN w n else acc
  let a := x.g.dst + bag * x.g.stride
  let out := acc.flatMap fun w => if x.g.otag = .bf16 then leBytes 2 (fenc .bf16 (fdec .fp32 w)) else leBytes 4 w
  wr m x.p none a out
  if x.g.bstat ≠ 0 then wrN m x.p none (x.g.bstat + 4 * bag) 4 (min n 0xFF_FFFF + min dropped 255 * 2 ^ 24) else pure ()
  modify fun s => bumpC x.c (gpeReg x.j Reg.GPE_DROPPED) 0 dropped (bumpC x.c (gpeReg x.j Reg.GPE_ROWS) 0 n s)

/-- How a gather job stands after an event. -/
inductive GOut where
  | waits (bag start : Nat) (rows : List RowRes)
  | done
  | rowFault (status detail : Nat)

/-- A row read that is outstanding (R246). -/
def RowRes.open' : RowRes → Bool
  | .retry _ _ _ => true
  | .remote _ _ => true
  | _ => false

/-- A failed attempt that waits for its next one. -/
def RowRes.retries : RowRes → Bool
  | .retry _ _ _ => true
  | _ => false

/-- A row result that is not final. -/
def RowRes.waits (r : RowRes) : Bool := r.open' || r == .todo

/-- Row reads outstanding in a list. -/
def readsOut (l : List RowRes) : Nat := (l.filter RowRes.open').length

/-- The rows of a bag after one more event: a row not yet begun begins while fewer than 64 reads are outstanding, and rows that
wait for an attempt make it where `re` holds. k counts the reads outstanding, i the place in IDS. -/
def GCtx.rowsOn (x : GCtx) (cb : List Nat) (ov : List Nat) (re : Bool) : Nat → Nat → Nat → List RowRes → EM (List RowRes)
  | _, _, _, [] => pure []
  | k, i, pos, r :: l => do
    let r' ← match r with
      | .todo => if 64 ≤ k then pure r else do
          let id ← rdN (.upd x.c) x.p none (x.g.ids + 8 * i) 8
          x.first cb (id % 2 ^ 40) pos (ov.contains i)
      | .retry _ _ _ => if re then x.again cb (ov.contains i) r else pure r
      | r => pure r
    let l' ← x.rowsOn cb ov re (k + b2n r'.open' - b2n r.open') (i + 1) (pos + 1) l
    pure (r' :: l')

/-- Status and detail of the failed rows. -/
def failures (l : List RowRes) : List (Nat × Nat) :=
  l.filterMap fun r => match r with | .failed _ s d => some (s, d) | _ => none

/-- A bag's offsets, and its rows, none of them begun (R243). -/
def GCtx.openBag (x : GCtx) (bag : Nat) : EM (Nat × List RowRes) := do
  let m := Master.upd x.c
  let b0 ← rdN m x.p none (x.g.boff + 4 * bag) 4
  let b1 ← rdN m x.p none (x.g.boff + 4 * bag + 4) 4
  if b1 < b0 then throw (.fail 0x01 0x07_0006) else pure (b0, List.replicate (b1 - b0) .todo)

/-- The bags from `bag` on; f counts those left (R243 to R245). -/
def GCtx.bags (x : GCtx) (cb : List Nat) (ov : List Nat) (re : Bool) :
    Nat → Nat → Option (Nat × List RowRes) → EM GOut
  | 0, _, _ => pure .done
  | f + 1, bag, at' => do
    let b ← match at' with
      | some b => pure b
      | none => x.openBag bag
    let rows ← x.rowsOn cb ov re (readsOut b.2) b.1 0 b.2
    let fs := failures rows
    if !x.g.drop && !fs.isEmpty then do
      let u ← liftS takeFree
      let q := fs.getD (u % fs.length) (0, 0)
      pure (.rowFault q.1 q.2)
    else if rows.any RowRes.waits then pure (.waits bag b.1 rows)
    else do
      x.pool bag b.1 rows
      x.bags cb ov re f (bag + 1) none

/-- The gather jobs of task t leave a cluster's engines, and their row reads are given up. -/
def dropGathers (c t : Nat) (s : State) : State :=
  let runs (j : Nat) : Bool := ((mget none (clu s c).gRun j).map fun r => r.job.task) == some t
  let s := dropReads (fun d j => d == c && runs j) s
  modClu c (fun q => { q with
    gq := (q.gq.map fun e => (e.1, e.2.filter fun x => x.task != t)).filter fun e => !e.2.isEmpty
    gw := q.gw.filter fun x => x.task != t
    gRun := q.gRun.filter fun e => (e.2.map fun r => r.job.task) != some t }) s

/-- A gather job's fault ends its task (R197). `captured` says that its error record is already latched, as a
failed row's is; `addr` is that of a value whose complement failed. -/
def gpeFault (c j t status detail : Nat) (addr : Option Nat) (captured : Bool) (s : State) : State :=
  let ts := taskTag s t
  let p := (taskOf s t).part
  let s := dropGathers c t (dropReads (fun d i => d == c && i == j) s)
  report t status detail c
    (if captured then s else capture (.gpe c j) (itemErr s status detail p (cmpIsland s c) addr ts.1 ts.2) s)

/-- What a Stop does to a gather job. -/
def gpeStop (c j t : Nat) (e : Stop) (s : State) : State :=
  match e with
  | .viol kind a => freezeUpd (taskOf s t).part c kind a s
  | .fail st dt a => gpeFault c j t st dt a false s
  | .unc a mem pw =>
    let ts := taskTag s t
    let p := (taskOf s t).part
    let dt := uncDetail 0x07_000A mem pw
    gpeFault c j t 0x09 dt none true (capture (.gpe c j) (memErr s 0x09 dt p (cmpIsland s c) a mem ts.1 ts.2) s)

/-- Set the running job of an engine. -/
def setGRun (c j : Nat) (r : Option GRun) (s : State) : State :=
  modClu c (fun q => { q with gRun := mset none q.gRun j r }) s

/-- The context of engine j's running job. -/
def gctxOf (c j : Nat) (r : GRun) (s : State) : GCtx :=
  let g := gsetOf fun i => r.w.getD i 0
  { c := c, j := j, p := (taskOf s r.job.task).part, g := g, td := r.td, shards := r.shards,
    tag := if g.drop then (0, 0) else taskTag s r.job.task }

/-- Carry a gather job on from where it stands, until it ends or waits; rows that wait for an attempt make it where `re`
holds. -/
def gatherGo (c j : Nat) (r : GRun) (ov : List Nat) (re : Bool) (s : State) : State :=
  let t := r.job.task
  let x := gctxOf c j r s
  match runEM (do
      let cb ← readCodebook (if x.own = x.p then .upd c else .fw) x.own r.td
      x.bags cb ov re (x.g.bags - r.bag) r.bag (r.rows.map fun l => (r.start, l))) (setGRun c j none s) with
  | .stop e s => gpeStop c j t e s
  | .good (.rowFault st dt) s => gpeFault c j t st dt none (decide (dt ≠ 0x07_0003)) s
  | .good .done s => jobEnd c (2 + j) t (r.w.getD 7 0) s
  | .good (.waits b i l) s => setGRun c j (some { r with bag := b, start := i, rows := some l }) s

/-- What an operation would answer, with nothing of it done. -/
def quiet {α : Type} (m : EM α) (s : State) : Option α :=
  match m s with
  | .ok a _ => some a
  | .error _ _ => none

/-- The shard-map entries that the rows of a job need, as they stand when it arrives (R227); their accesses are made as the rows
are handled (log 76). -/
def snapShards (c p : Nat) (g : GSet) (td : TabD) (s : State) : SMap (Option Shard) :=
  let own := if g.tp then g.tpart else p
  let off (i : Nat) : Nat := (quiet (rdN (.upd c) p none (g.boff + 4 * i) 4) s).getD 0
  (upto (off g.bags - off 0)).foldl (fun z i =>
    match quiet (rdN (.upd c) p none (g.ids + 8 * (off 0 + i)) 8) s with
    | none => z
    | some id =>
      let row := id % 2 ^ 40
      if td.rows ≤ row then z
      else mset none z (row / 2 ^ td.shlog) (quiet (readShard (if own = p then .upd c else .fw) own td row) s)) []

/-- The checks of a gather job that is not a GIVE (R243, R230). -/
def gatherTable (c p : Nat) (g : GSet) : EM TabD := do
  let s ← get
  if g.tp ∧ g.tpart ≠ p ∧ !bitAt (preg s g.tpart Reg.TBL_GRANT) p then throw (.fail 0x01 0x07_0008) else pure ()
  readTable (if g.tp ∧ g.tpart ≠ p then .fw else .upd c) (if g.tp then g.tpart else p) g.table

/-- The gather-pool engine with the fewest queued jobs, the lowest-numbered on a tie (R241). -/
def fewest (q : Cluster) : Nat :=
  (upto 4).foldl (fun b j => if (mget [] q.gq j).length < (mget [] q.gq b).length then j else b) 0

/-- The dispatcher deals waiting gather jobs while a queue of 16 has room (R241). -/
def dealJobs : Nat → Cluster → Cluster
  | 0, q => q
  | n + 1, q =>
    match q.gw with
    | [] => q
    | e :: r =>
      let j := fewest q
      let l := mget [] q.gq j
      if 16 ≤ l.length then q else dealJobs n { q with gw := r, gq := mset [] q.gq j (l ++ [e]) }

/-- Deal every waiting gather job that finds room. -/
def dealGather (c : Nat) (s : State) : State := modClu c (fun q => dealJobs q.gw.length q) s

/-- An event of gather-pool engine j: the first job of its queue is operation `op` and runs (R241, R242). -/
def gatherOp (op c j : Nat) (run : Nat → Nat → (Nat → Nat) → EJob → State → State) (s : State) : Out :=
  if 96 ≤ c ∨ 4 ≤ j then .fault .noSuchUnit
  else
    let q := clu s c
    match mget [] q.gq j with
    | [] => .next s
    | e :: rest =>
      let p := (taskOf s e.task).part
      if !awake s c || isFrozen s p (.upd c) || (mget none q.gRun j).isSome || (mget none q.sig (2 + j)).isSome ||
          engGives s c (2 + j) || bitAt (creg s c (gpeReg j Reg.GPE_CTRL)) 0 then .next s
      else
        let pop (s : State) : State := dealGather c (modClu c (fun q => { q with gq := mset [] q.gq j rest }) s)
        match runEM (rd (.upd c) p none e.addr 64) s with
        | .stop x s => .next (gpeStop c j e.task x (pop s))
        | .good l s =>
          let w := words8 l
          let o := fmtOf (bits (w 0) 11 8)
          if !complOk 32 (bits (w 0) 31 0) (bits (w 0) 63 32) then .next (gpeFault c j e.task 0x0D 0x07_000B (some e.addr) false (pop s))
          else if bits (w 0) 3 0 ≠ 3 ∨ 3 < bits (w 0) 7 4 ∨ !gunused w ∨
              (bits (w 0) 7 4 ≠ 3 ∧ o ≠ some .fp32 ∧ o ≠ some .bf16) then
            .next (gpeFault c j e.task 0x01 0x07_0007 none false (pop s))
          else if bits (w 0) 7 4 ≠ op ∨ !syncMet s c (w 7) then .next s
          else .next (run c j w e (pop s))

/-- Start a pooling job. -/
def gatherStart (ov : List Nat) (c j : Nat) (w : Nat → Nat) (e : EJob) (s : State) : State :=
  let p := (taskOf s e.task).part
  match runEM (gatherTable c p (gsetOf w)) s with
  | .stop x s => gpeStop c j e.task x s
  | .good td s =>
    gatherGo c j { job := e, w := (upto 8).map w, td := td, shards := snapShards c p (gsetOf w) td s } ov true s

/-- GATHER_SUM; `ov` lists the ID positions whose attempt another master overtakes. -/
def execGatherSum (c j : Nat) (ov : List Nat) (s : State) : Out := gatherOp 0 c j (gatherStart ov) s
/-- GATHER_MEAN. -/
def execGatherMean (c j : Nat) (ov : List Nat) (s : State) : Out := gatherOp 1 c j (gatherStart ov) s
/-- GATHER_WSUM. -/
def execGatherWsum (c j : Nat) (ov : List Nat) (s : State) : Out := gatherOp 2 c j (gatherStart ov) s

/-- GATHER_GIVE: the bank that holds IDS changes owner (R242, R276). -/
def execGatherGive (c j : Nat) (s : State) : Out :=
  gatherOp 3 c j (fun c j w e s =>
    let p := (taskOf s e.task).part
    match runEM (do
        let a := bits (w 1) 47 0
        let ks ← keysOf (.upd c) p none a 1
        let s ← get
        let k := ks.headD 0
        if 2 ^ 37 ≤ k then throw (.viol 1 a) else pure ()
        let cb := bankOfKey k
        if codeOk s cb.1 cb.2 (bits (w 2) 15 0) then modify (startHandover cb.1 cb.2 (bits (w 2) 15 0) (some (engGiver c (2 + j))))
        else do
          modify (flagP p Reg.BNK_ERR 0)
          throw (.viol 1 a)) s with
    | .good _ s => jobEnd c (2 + j) e.task (w 7) s
    | .stop x s => gpeStop c j e.task x s) s

/-- ROW_READ_RETRY: after their waits the failed rows of the present bag attempt again (R236). -/
def execRowReadRetry (c j : Nat) (ov : List Nat) (s : State) : Out :=
  if 96 ≤ c ∨ 4 ≤ j then .fault .noSuchUnit
  else match mget none (clu s c).gRun j with
    | none => .next s
    | some r => .next (if awake s c then gatherGo c j r ov true s else s)

/-! ### Fills and invalidations (R232, R233) -/

/-- A commit of the update engine enters the bank's staging register; at two entries the oldest drains first (R284). A partial
write of an uncorrectable word is not performed (R291). -/
def commitBytes (c p a : Nat) (l : List Byte) : EM Unit := do
  let ks ← keysOf (.upd c) p none a l.length
  let k := ks.headD 0
  let s ← get
  if mget 0 s.ecc (wordKey k) = 2 ∧ !covers ks (wordKey k) then do
    modify (countUnc p a k)
    throw (.unc a (memKind k) true)
  else modify fun s =>
    let cb := bankOfKey k
    let e : Staged := { word := wordKey k, data := ks.zip l }
    let st := (bankOf s cb.1 cb.2).staged
    let s := if 2 ≤ st.length then
        match st with
        | o :: r => bumpC cb.1 Reg.BNK_COLLIDE 32 1 (modBank cb.1 cb.2 (fun b => { b with staged := r }) (drainEntry o s))
        | [] => s
      else s
    modBank cb.1 cb.2 (fun b => { b with staged := b.staged ++ [e] }) s

/-- Commit bytes word by word. -/
def commitRun (c p : Nat) : Nat → Nat → List Byte → EM Unit
  | 0, _, _ => pure ()
  | f + 1, a, l =>
    if l.isEmpty then pure ()
    else do
      let n := 64 - a % 64
      commitBytes c p a (l.take n)
      commitRun c p f (a + n) (l.drop n)

/-- The way a fill takes: an invalid one first, otherwise the way filled longest ago (R231). -/
def fillWay (c p x : Nat) : EM (Nat × Bool) := do
  let s ← get
  let tags ← (upto 4).mapM fun w => rdN (.upd c) p none (lineAddr s c (4 * x + w)) 8
  match (upto 4).find? fun w => !bitAt (tags.getD w 0) 63 with
  | some w => pure (4 * x + w, false)
  | none =>
    let age (w : Nat) : Nat := mget 0 (clu s c).cacheAge (4 * x + w)
    pure (4 * x + (upto 4).foldl (fun b w => if age w < age b then w else b) 0, true)

/-- CACHE_FILL: the oldest fill whose read has passed writes its line in three acknowledged writes (R232). -/
def execCacheFill (c : Nat) (s : State) : Out :=
  if 96 ≤ c then .fault .noSuchUnit
  else
    let q := clu s c
    let p := cluPart s c
    match q.fills.find? fun f => f.data.isSome with
    | none => .next s
    | some f =>
      if !awake s c || isFrozen s p (.upd c) || cacheSets s c == 0 then .next s
      else
        let s := modClu c (fun q => { q with fills := q.fills.erase f }) s
        let tag := f.row + f.table * 2 ^ 40
        match runEM (do
            let s ← get
            let w ← fillWay c p (cacheSet s c f.table f.row)
            let a := lineAddr s c w.1
            if w.2 then do
              let old ← rdN (.upd c) p none a 8
              commitBytes c p a (leBytes 8 (old % 2 ^ 63))
            else pure ()
            commitBytes c p a (leBytes 8 tag)
            let d := f.data.getD []
            commitRun c p (d.length + 1) (a + 8) d
            commitBytes c p a (leBytes 8 (tag + 2 ^ 63))
            modify fun s => bumpC c Reg.UPD_FILL 0 1 (modClu c (fun q =>
              { q with cacheOrd := q.cacheOrd + 1, cacheAge := mset 0 q.cacheAge w.1 (q.cacheOrd + 1) }) s)) s with
        | .good _ s => .next s
        | .stop e s => .next (updStop c p e s)

/-- One way of a set: its line becomes invalid if it holds the row (R233). -/
def invWay (c p t row i : Nat) (s : State) : State :=
  let a := lineAddr s c i
  match runEM (do
      let old ← rdN (.upd c) p none a 8
      if tagHits old t row then do
        commitBytes c p a (leBytes 8 (old % 2 ^ 63))
        modify (bumpC c Reg.UPD_INVAL 32 1)
      else pure ()) s with
  | .good _ s => s
  | .stop e s => updStop c p e s

/-- CACHE_INVALIDATE: the oldest invalidation clears VALID on the matching line and cancels a pending fill (R232, R233). -/
def execCacheInvalidate (c : Nat) (s : State) : Out :=
  if 96 ≤ c then .fault .noSuchUnit
  else
    let q := clu s c
    match q.invs with
    | [] => .next s
    | (p, t, row) :: rest =>
      let mine (f : Fill) : Bool := f.part == p && f.table == t && f.row == row
      let n := (q.fills.filter mine).length
      let s := modClu c (fun q => { q with invs := rest, fills := q.fills.filter fun f => !mine f }) s
      let s := bumpC c Reg.UPD_FILL 32 n s
      if cluPart s c ≠ p ∨ cacheSets s c = 0 then .next s
      else .next ((upto 4).foldl (fun s w => invWay c p t row (4 * cacheSet s c t row + w) s) s)

/-- Clear VALID of every line of cluster c whose tag satisfies a test (R234). -/
def clearTags (c : Nat) (f : Nat → Bool) (s : State) : State :=
  (upto (4 * cacheSets s c)).foldl (fun s i =>
    let k := lineAddr s c i
    let tag := leNat (peeks s k 8)
    if bitAt tag 63 ∧ f tag then bumpC c Reg.UPD_INVAL 32 1 (pokes k (leBytes 8 (tag % 2 ^ 63)) (drainWord k s)) else s) s

/-- Every line of one table in every cluster of the partition becomes invalid (R234). -/
def invTable (p t : Nat) (s : State) : State :=
  (clustersOf s p).foldl (fun s c =>
    let gone (f : Fill) : Bool := f.table == t % 4096
    let s := bumpC c Reg.UPD_FILL 32 ((clu s c).fills.filter gone).length s
    let s := modClu c (fun q => { q with fills := q.fills.filter fun f => !gone f }) s
    clearTags c (fun tag => bits tag 51 40 == t % 4096) s) s

/-! ### Fabric responses to reads (R440, R445, R253) -/

/-- The row of a job that waits for a tag takes a result, and the job goes on. -/
def gatherAnswer (r : Remote) (f : GCtx → List Nat → EM RowRes) (ov : List Nat) (s : State) : State :=
  match r.gather with
  | none => s
  | some (c, j, pos) =>
    match mget none (clu s c).gRun j with
    | none => s
    | some g =>
      let x := gctxOf c j g s
      match runEM (do
          let cb ← readCodebook (if x.own = x.p then .upd c else .fw) x.own g.td
          f x cb) s with
      | .stop e s => gpeStop c j g.job.task e (setGRun c j none s)
      | .good v s => gatherGo c j { g with rows := some ((g.rows.getD []).set pos v) } ov false s

/-- The first message of a list, if it is of a kind. -/
def headKind (l : List Msg) (k : Nat) : Option Msg :=
  match l with
  | [] => none
  | m :: _ => if m.kind = k then some m else none

/-- ROW_DATA: the response ends the wait of its tag (R445); one with no payload says that the home knows no such table (log 22). -/
def execRowData (ov : List Nat) (s : State) : Out :=
  match headKind s.rspIn 1 with
  | none => .next s
  | some m =>
    let s := { s with rspIn := s.rspIn.drop 1 }
    match s.remotes.find? fun r => r.tag == m.tag && r.gather.isSome with
    | none => .next s
    | some r =>
      let s := { s with remotes := s.remotes.erase r }
      .next (gatherAnswer r (fun x cb =>
        let h := leNat (m.payload.take 16)
        if m.payload.isEmpty then x.fail r.row 0x01 0x07_0001 0
        else if h ≠ 0 ∧ (!hdrOk h ∨ hTag h ≠ fmtTag x.td.f) then x.fail r.row 0x0D 0x07_0005 (hVer h)
        else if h = 0 then do
          modify (bumpC x.c (gpeReg x.j Reg.GPE_DROPPED) 32 1)
          pure (.got (List.replicate x.td.dim 0))
        else x.got cb h (m.payload.drop 16)) ov s)

end Sys2Proof.Machine
end

