-- ==== Sys2Proof/Machine/Molt.lean ====
section
/-!
DEFINITION. Molts (R247 to R255), update batches, their routes and outcomes (R258 to R261), and the fabric messages of
reads, molts and replicas (R253, R440, R445).
-/
namespace Sys2Proof.Machine

/-! ### Outcomes (R259) -/

/-- Batch b. -/
def batchOf (s : State) (b : Nat) : Batch := mget {} s.batches b

/-- Change a batch. -/
def modBatch (b : Nat) (f : Batch → Batch) (s : State) : State :=
  { s with batches := mset {} s.batches b (f (batchOf s b)) }

/-- The batch is still open. -/
def batchOpen (s : State) (b : Nat) : Bool := s.batches.any fun x => x.1 == b

/-- Who reads a batch's bytes and writes its outcome bytes: firmware's streams for host memory, else the intake engine. -/
def batchMaster (b : Batch) (a : Nat) : Master := if regionOf a = some 3 then .fw else .upd b.clu

/-- Write one outcome byte; a word that refuses a partial write loses it (R259), and a host that is gone takes none
(R396). -/
def writeOutcome (id idx code : Nat) (s : State) : State :=
  let b := batchOf s id
  let a := b.out + idx
  if b.kind = 1 ∨ (regionOf a = some 3 ∧ (part s b.part).st ≠ .active) then s
  else
    match runEM (wrN (batchMaster b a) b.part none a 1 code) s with
    | .good _ s => s
    | .stop (.viol kind x) s => freezeUpd b.part b.clu kind x s
    | .stop (.fail st dt x) s =>
      capture (.update b.clu) (itemErr s st dt b.part (cmpIsland s b.clu) x b.due.tag b.due.seq)
        (modBatch id (fun b => { b with lost := dt }) s)
    | .stop (.unc x mem pw) s =>
      let dt := uncDetail 0x07_000D mem pw
      capture (.update b.clu) (memErr s 0x09 dt b.part (cmpIsland s b.clu) x mem b.due.tag b.due.seq)
        (modBatch id (fun b => { b with lost := dt }) s)

/-- The batch ends once every entry has its outcome (R260). -/
def checkDone (id : Nat) (s : State) : State :=
  let b := batchOf s id
  if batchOpen s id ∧ b.checked ∧ b.outc.length = b.n then
    if b.lost ≠ 0 then endBatch id (if b.lost = 0x08_0001 then 0x0D else 0x09) b.lost s
    else endBatch id 0 (if b.kind = 0 then notApplied b else 0) s
  else s

/-- An outcome that is not APPLIED counts in UPD_REFUSED of the engine that gave it (Table 7.17). -/
def countRefused (c code : Nat) (s : State) : State :=
  if code = 0 then s else bumpC c Reg.UPD_REFUSED (if code = 1 then 0 else 32) 1 s

/-- Record the outcome of entry idx of a batch of this module. -/
def batchOutcome (id idx code : Nat) (s : State) : State :=
  if !batchOpen s id then s
  else checkDone id (writeOutcome id idx code (modBatch id (fun b => { b with outc := mset 0 b.outc idx (code + 1) }) s))

/-- An entry gets its outcome at engine c: recorded in its batch, or sent back to the module it came from (R445). A REPLICA
entry has none (R253). -/
def giveOutcome (c : Nat) (e : UEntry) (code ver : Nat) (s : State) : State :=
  if e.op = 3 then s
  else
  let s := countRefused c code s
  if e.module = 0 then batchOutcome e.batch e.idx code s
  else match msgFor s e.own (e.module - 1) 3 e.table e.tag (e.row / 2 ^ e.td.shlog)
      (leBytes 8 (code + ver * 2 ^ 32)) with
    | none => s
    | some m => trySend m s

/-! ### Taking a batch in (R258) -/

/-- Payload bytes of an entry, padded; none when its size cannot be found (Table 7.14). -/
def payloadSize (d : TabD) (ptag : Nat) : Option Nat :=
  if ptag = 12 then some (cdiv (4 * d.dim) 8 * 8)
  else if ptag = 10 then some (cdiv (2 * d.dim) 8 * 8)
  else if ptag = fmtTag d.f then some (8 + slotBytes d)
  else none

/-- The partition that owns an entry's table. -/
def entryOwn (part w0 : Nat) : Nat := if bitAt w0 54 then bits w0 63 60 else part

/-- Check the sizes of n entries against the bytes left (R258). -/
def checkEntries (c p : Nat) : Nat → List Byte → EM Unit
  | 0, l => if l.isEmpty then pure () else throw (.fail 0x01 0x07_000C)
  | n + 1, l => do
    if l.length < 16 then throw (.fail 0x01 0x07_000C) else pure ()
    let w0 := leNat (l.take 8)
    let own := entryOwn p w0
    let d ← do
      let r ← attemptEM (readTable (if own = p then .upd c else .fw) own (bits w0 51 40))
      match r with
      | .ok d => pure d
      | .error (.fail 0x01 _ _) => throw (.fail 0x01 0x07_000C)
      | .error e => throw e
    match payloadSize d (bits w0 59 56) with
    | none => throw (.fail 0x01 0x07_000C)
    | some k =>
      if l.length < 16 + k then throw (.fail 0x01 0x07_000C) else checkEntries c p n (l.drop (16 + k))

/-- n bytes at offset o of a batch, in memory or in the receive buffer of its queue, which wraps (R436, log 30). -/
def batchBytes (b : Batch) (o n : Nat) : EM (List Byte) := do
  let m := batchMaster b b.addr
  let len := b.ring.2
  if len = 0 then rd m b.part none (b.addr + o) n
  else do
    let x := (b.addr + o) % len
    let k := min n (len - x)
    let l ← rd m b.part none (b.ring.1 + x) k
    let r ← rd m b.part none b.ring.1 (n - k)
    pure (l ++ r)

/-- The address of a batch's header. -/
def batchAt (b : Batch) : Nat := if b.ring.2 = 0 then b.addr else b.ring.1 + b.addr % b.ring.2

/-- Read a batch whole and check its structure; a queue's batch lies within the bytes held for it (R258, R433). -/
def readBatch (b : Batch) : EM Batch := do
  if b.kind = 1 ∧ b.held < 32 then throw (.fail 0x01 0x07_000C) else pure ()
  let h ← batchBytes b 0 32
  let w := words8 h
  if !complOk 32 (bits (w 0) 31 0) (bits (w 0) 63 32) then throw (.fail 0x0D 0x07_000B (some (batchAt b))) else pure ()
  let n := bits (w 1) 31 0
  let bytes := bits (w 1) 63 32
  if bits (w 0) 15 0 ≠ 1 ∨ n = 0 ∨ 65536 < n ∨ bytes < 32 ∨ (b.kind = 1 ∧ b.held < bytes) then
    throw (.fail 0x01 0x07_000C)
  else pure ()
  let l ← batchBytes b 32 (bytes - 32)
  checkEntries b.clu b.part n l
  pure { b with checked := true, tag := w 2, n := n, rest := l }

/-- The fault of a whole batch (R258). -/
def batchStop (id : Nat) (e : Stop) (s : State) : State :=
  let b := batchOf s id
  let tag := if b.kind = 2 then taskTag s b.item else (b.due.tag, b.due.seq)
  let cmd (e : ErrInfo) : ErrInfo := if b.kind = 0 ∧ e.cls = 5 then { e with subject := 0x0005 } else e
  match e with
  | .viol kind a => freezeUpd b.part b.clu kind a s
  | .fail st dt a =>
    endBatch id st dt (capture (.update b.clu) (cmd (itemErr s st dt b.part (cmpIsland s b.clu) a tag.1 tag.2)) s)
  | .unc a mem pw =>
    let dt := uncDetail 0x07_000D mem pw
    endBatch id 0x09 dt (capture (.update b.clu) (memErr s 0x09 dt b.part (cmpIsland s b.clu) a mem tag.1 tag.2) s)

/-- What routing one entry gives. -/
inductive Route where
  | outcome (code : Nat)
  | queue (home : Nat) (e : UEntry)
  | away (e : UEntry)

/-- Route entry idx of a batch (R228 to R230, R247, R259, R261). -/
def routeOf (b : Batch) (idx : Nat) (l : List Byte) : EM (Route × Nat) := do
  let s ← get
  let w0 := leNat (l.take 8)
  let w1 := leNat ((l.drop 8).take 8)
  let own := entryOwn b.part w0
  let m := if own = b.part then Master.upd b.clu else .fw
  let t := bits w0 51 40
  let row := bits w0 39 0
  let op := bits w0 53 52
  let d ← readTable m own t
  let k := (payloadSize d (bits w0 59 56)).getD 0
  let size := 16 + k
  if op = 3 ∨ (!bitAt w0 54 ∧ bits w0 63 60 ≠ 0) ∨ (op = 1 ∧ (!d.accOk ∨ d.f = .b1 ∨ d.f = .c4)) then
    pure (.outcome 0x02, size)
  else if own ≠ b.part ∧ !bitAt (preg s own Reg.TBL_GRANT) (16 + b.part) then pure (.outcome 0x06, size)
  else if d.rows ≤ row then pure (.outcome 0x03, size)
  else do
    let sh ← readShard m own d row
    let e : UEntry := { idx := idx, own := own, src := b.part, table := t, row := row, op := op, ptag := bits w0 59 56,
                        expect := bits w1 31 0, payload := (l.drop 16).take k, td := d, shard := sh }
    if sh.tier = 2 then pure (if inDomain s then .away e else .outcome 0x09, size)
    else if sh.tier = 3 ∨ (clu s sh.home).part ≠ some own then pure (.outcome 0x02, size)
    else pure (.queue sh.home e, size)

/-- An entry's bytes, as a MOLT message carries them (Table 7.14). -/
def entryBytes (e : UEntry) : List Byte :=
  leBytes 8 (e.row + e.table * 2 ^ 40 + e.op * 2 ^ 52 + e.ptag * 2 ^ 56) ++ leBytes 8 e.expect ++ e.payload

/-- Route the entries of a batch until it ends or a full queue holds it back; f bounds the entries (R261). -/
def routeBatch (id : Nat) : Nat → State → State
  | 0, s => s
  | f + 1, s =>
    let b := batchOf s id
    if !batchOpen s id ∨ b.n ≤ b.next then s
    else
      let step (size : Nat) (s : State) : State :=
        modBatch id (fun b => { b with next := b.next + 1, rest := b.rest.drop size }) s
      match runEM (routeOf b b.next b.rest) s with
      | .stop e s => batchStop id e s
      | .good (.outcome code, size) s => routeBatch id f (batchOutcome id b.next code (countRefused b.clu code (step size s)))
      | .good (.queue home e, size) s =>
        if isFrozen s e.own (.upd home) then endBatch id 0x07 (masterId (.upd home)) s
        else if 1024 ≤ (clu s home).uq.length then flagC home Reg.UPD_ERR 1 s
        else routeBatch id f (modClu home (fun q => { q with uq := q.uq ++ [{ e with batch := id }] }) (step size s))
      | .good (.away e, size) s =>
        let msg := msgFor s e.own e.shard.module 2 e.table s.nextTag (e.row / 2 ^ e.td.shlog) (entryBytes e)
        match msg.bind fun m => sendMsg m none s with
        | none => routeBatch id f (batchOutcome id b.next 0x09 (countRefused b.clu 0x09 (countUnreach (step size s))))
        | some s' =>
          let r : Remote := { tag := s.nextTag, part := b.part, batch := id, idx := b.next, own := e.own, table := e.table,
                              row := e.row, shard := e.shard }
          routeBatch id f (step size { s' with nextTag := (s.nextTag + 1) % 2 ^ 32, remotes := s'.remotes ++ [r] })

/-- Two batches came in by one command ring, one network queue, or one update job list (R252). -/
def sameRoute (a b : Batch) : Bool :=
  a.kind == b.kind && (if a.kind = 0 then a.due.mbx == b.due.mbx else a.item == b.item && (a.kind == 1 || a.clu == b.clu))

/-- A batch that came in earlier by the same route has entries that are not yet routed (R252). -/
def routeHeld (s : State) (id : Nat) : Bool :=
  s.batches.any fun x => decide (x.1 < id) && sameRoute x.2 (batchOf s id) && (!x.2.checked || decide (x.2.next < x.2.n))

/-- BATCH_INGEST: the engine takes in its next batch, checks its structure and routes its entries (R258, R261). -/
def execBatchIngest (c : Nat) (s : State) : Out :=
  if 96 ≤ c then .fault .noSuchUnit
  else match (clu s c).bq with
    | [] => .next s
    | id :: _ =>
      let b := batchOf s id
      if !awake s c || isFrozen s b.part (.upd c) || routeHeld s id then .next s
      else
        let fin (s : State) : State :=
          let s := routeBatch id ((batchOf s id).n + 1) s
          if batchOpen s id ∧ (batchOf s id).n ≤ (batchOf s id).next then
            modClu c (fun q => { q with bq := q.bq.filter (· != id) }) s
          else s
        if b.checked then .next (fin s)
        else match runEM (readBatch b) s with
          | .stop e s => .next (batchStop id e s)
          | .good b s => .next (fin (freeHeld b (modBatch id (fun _ => b) s)))

/-- Put a new batch before an update engine; its number. -/
def newBatch (b : Batch) (s : State) : State :=
  modClu b.clu (fun q => { q with bq := q.bq ++ [s.nextBatch] })
    { s with batches := mset {} s.batches s.nextBatch b, nextBatch := s.nextBatch + 1 }

/-- A fault of an update job ends its task (R197). -/
def updFault (c t status detail : Nat) (w : Option (Nat × Nat)) (s : State) : State :=
  let ts := taskTag s t
  let p := (taskOf s t).part
  report t status detail c (capture (.update c) (wordErr s status detail p (cmpIsland s c) w ts.1 ts.2)
    (modClu c (Cluster.dropJobs t) s))

/-- UPDATE_JOB: the first update job of the queue begins its batch (R260). -/
def execUpdateJob (c : Nat) (s : State) : Out :=
  if 96 ≤ c then .fault .noSuchUnit
  else
    let q := clu s c
    match q.uj with
    | [] => .next s
    | j :: rest =>
      let p := (taskOf s j.task).part
      if !awake s c || isFrozen s p (.upd c) || q.ujRun.isSome || (mget none q.sig 6).isSome then .next s
      else
        let pop (s : State) : State := modClu c (fun q => Cluster.refill { q with uj := rest }) s
        match runEM (rd (.upd c) p none j.addr 64) s with
        | .stop (.viol kind a) s => .next (freezeUpd p c kind a (pop s))
        | .stop (.fail st dt a) s => .next (updFault c j.task st dt (a.map fun a => (a, memOf a)) (pop s))
        | .stop (.unc a mem pw) s => .next (updFault c j.task 0x09 (uncDetail 0x07_000D mem pw) (some (a, mem)) (pop s))
        | .good l s =>
          let w := words8 l
          if !complOk 32 (bits (w 0) 31 0) (bits (w 0) 63 32) then .next (updFault c j.task 0x0D 0x07_000B (some (j.addr, memOf j.addr)) (pop s))
          else if bits (w 0) 3 0 ≠ 4 then .next (updFault c j.task 0x01 0x07_0007 none (pop s))
          else if !syncMet s c (w 7) then .next s
          else
            let s := pop s
            let b : Batch := { part := p, clu := c, kind := 2, item := j.task, w7 := w 7, addr := bits (w 1) 47 0,
                               out := bits (w 2) 47 0 }
            .next (newBatch b (modClu c (fun q => { q with ujRun := some s.nextBatch }) s))

/-! ### Molts (R247 to R251) -/

/-- Convert one element of a molted row: its code, and whether it clamped (R248, Table 2.6). -/
def moltElem (f : Fmt) (cb : List Nat) (e : Int) (u : Option Nat) (v : FVal) : Nat × Bool :=
  match v with
  | .nan => (if f = .b1 ∨ f = .c4 then 0 else zeroCode f, true)
  | .inf neg => (if f = .b1 then b2n neg else if f = .c4 then extremeC4 cb neg else clampCode f neg, true)
  | .fin neg m ex =>
    match u with
    | some u => (srCode f neg m (ex - e) u, dlt (quantQ f) ⟨Int.ofNat m, ex - e⟩)
    | none =>
      if f = .b1 then (b2n neg, false)
      else if f = .c4 then (nearestC4 cb e ⟨fmant neg m, ex⟩, false)
      else match roundCode f neg m (ex - e) with
        | some c => (c, false)
        | none => (clampCode f neg, true)

/-- Convert a row's elements in ascending order, each with a draw when it accumulates (R250); a NaN that an ACCUMULATE meets counts
in QNT_SR_NAN too (R62, R123). -/
def moltRow (c : Nat) (f : Fmt) (cb : List Nat) (acc : Bool) (er : Int) (offs : List Nat) (sz : Nat) :
    List (FVal × Nat) → List Nat × Nat → State → (List Nat × Nat) × State
  | [], a, s => (a, s)
  | (v, p) :: r, a, s =>
    let d := if acc then draw c (p % 16) (countSrNan c v s) else (0, s)
    let q := moltElem f cb (er + Int.ofNat (offs.getD (p / sz) 0)) (if acc then some d.1 else none) v
    moltRow c f cb acc er offs sz r (a.1 ++ [q.1], a.2 + b2n q.2) d.2

/-- A coded payload's pseudo-header: H0 bits [63:32] from the scale word (Table 7.14). -/
def scaleHdr (l : List Byte) : Nat := leNat (l.take 4) * 2 ^ 32

/-- A payload as FP32 words. -/
def payloadVals (d : TabD) (cb : List Nat) (ptag : Nat) (l : List Byte) : List Nat :=
  if ptag = 12 then (upto d.dim).map fun i => leNat ((l.drop (4 * i)).take 4)
  else if ptag = 10 then (upto d.dim).map fun i => leNat ((l.drop (2 * i)).take 2) * 65536
  else decodeRow d cb (scaleHdr l) (l.drop 8)

/-- What applying an entry gives before its commit. -/
inductive MoltRes where
  | outcome (code ver : Nat)
  | ready (m : Molt)

/-- Apply an entry up to its header write (R248); a header whose FTAG is not the table's is refused like one that fails its
complement (R36; DEDUCED, log 77). -/
def applyEntry (c : Nat) (e : UEntry) : EM MoltRes := do
  let m := Master.upd c
  let d := e.td
  let a := rowAddr d e.shard e.row
  let h ← rdN m e.own none a 16
  if h ≠ 0 ∧ (!hdrOk h ∨ hTag h ≠ fmtTag d.f) then pure (.outcome 0x04 (hVer h))
  else if e.op = 2 ∧ hVer h ≠ e.expect then pure (.outcome 0x01 0)
  else
    let coded : Bool := e.ptag == fmtTag d.f
    let sh := scaleHdr e.payload
    if coded && (hTag sh != fmtTag d.f || rowEscapes d (e.payload.drop 8) != 0) then pure (.outcome 0x02 0)
    else do
      let g := cdiv d.dim d.s
      let cb ← readCodebook m e.own d
      let s := 1 - hSlot h
      let v := if hVer h + 1 = 2 ^ 32 then 1 else hVer h + 1
      let r ← if coded && e.op != 1 then pure (e.payload.drop 8, hExp sh, (upto g).map (hOff sh))
        else do
          let old ← if e.op = 1 ∧ h ≠ 0 then do
              let l ← rd m e.own none (a + 16 + hSlot h * slotBytes d) (slotBytes d)
              pure (decodeRow d cb h l)
            else pure (List.replicate d.dim 0)
          let add := payloadVals d cb e.ptag e.payload
          let x := if e.op = 1 then (old.zip add).map fun q => add32 q.1 q.2 else add
          let xs := (x.map (fdec .fp32)).zip (upto d.dim)
          let gs := (runsOf d.s (d.dim + 1) xs).map (groupMags [])
          let sc := scaleOfMags {} d.f cb gs
          let q ← liftS (moltRow c d.f cb (e.op == 1) sc.1 sc.2 d.s xs ([], 0))
          modify (bumpC c Reg.UPD_CLAMPED 0 q.2)
          pure (packCodes d.f q.1, sc.1, sc.2)
      let codes := r.1 ++ List.replicate (slotBytes d - r.1.length) 0
      wr m e.own none (a + 16 + s * slotBytes d) codes
      pure (.ready { ent := e, addr := a, hdr := mkHeader v r.2.1 d.f s r.2.2, codes := codes })

/-- Apply a REPLICA entry: header and codes of the primary, written to the idle slot (R253). -/
def applyReplica (c : Nat) (e : UEntry) : EM MoltRes := do
  let m := Master.upd c
  let d := e.td
  let a := rowAddr d e.shard e.row
  let h ← rdN m e.own none a 16
  let h' := leNat (e.payload.take 16)
  if h ≠ 0 ∧ (!hdrOk h ∨ hTag h ≠ fmtTag d.f) then pure (.outcome 0x04 (hVer h))
  else if !hdrOk h' ∨ hTag h' ≠ fmtTag d.f then pure (.outcome 0x02 0)
  else if hVer h' ≤ hVer h then pure (.outcome 0x01 0)
  else do
    let s := 1 - hSlot h
    let codes := (e.payload.drop 16).take (slotBytes d)
    wr m e.own none (a + 16 + s * slotBytes d) codes
    pure (.ready { ent := e, addr := a, hdr := mkHeader (hVer h') (hExp h') d.f s ((upto 6).map (hOff h')), codes := codes })

/-- A molt that met a header failing its complement is recorded for the owner of the table (R249). -/
def hdrIntegrity (c : Nat) (e : UEntry) (ver : Nat) (s : State) : State :=
  capture (.update c)
    { sev := 3, cls := 1, detail := 0x07_0005, part := some e.own, island := cmpIsland s c,
      cycles := recCycles s (cmpIsland s c), subject := e.row + e.table * 2 ^ 40, aux := ver }
    (flagC c Reg.UPD_ERR 0 (noteComplAt e.own (rowAddr e.td e.shard e.row) s))

/-- A value of the present row's access that failed its complement is recorded for the owner of the table (R279, R494). -/
def rowCompl (c : Nat) (e : UEntry) (st dt : Nat) (a : Option Nat) (s : State) : State :=
  capture (.update c) (itemErr s st dt e.own (cmpIsland s c) a 0 0) s

/-- An uncorrectable word of the present row is recorded for the owner of the table (R291). -/
def rowUnc (c : Nat) (e : UEntry) (a mem : Nat) (pw : Bool) (s : State) : State :=
  capture (.update c) (memErr s 0x09 (uncDetail 0x07_000D mem pw) e.own (cmpIsland s c) a mem 0 0) s

/-- The batch of an entry that its engine's freeze ends (Table 12.6). -/
def endFrozen (c : Nat) (e : UEntry) (s : State) : State :=
  if e.module = 0 ∧ batchOpen s e.batch then endBatch e.batch 0x07 (masterId (.upd c)) s else s

/-- The shard of a queued entry as the shard map now gives it (R227, R254). -/
def freshShard (c : Nat) (e : UEntry) : EM UEntry := do
  let sh ← readShard (.upd c) e.own e.td e.row
  pure { e with shard := sh }

/-- A queued entry whose shard is homed elsewhere by now: on another cluster, or out of reach (R229, R254). -/
def rehomed (c : Nat) (e : UEntry) (s : State) : State :=
  if 2 ≤ e.shard.tier then giveOutcome c e 0x09 0 s
  else if (clu s e.shard.home).part ≠ some e.own then giveOutcome c e 0x02 0 s
  else modClu e.shard.home (fun q => { q with uq := q.uq ++ [e] }) s

/-- The home of an entry has a full queue, which holds the entry back (R261). -/
def homeFull (s : State) (e : UEntry) : Bool :=
  decide (e.shard.tier < 2) && (clu s e.shard.home).part == some e.own && decide (1024 ≤ (clu s e.shard.home).uq.length)

/-- The entry that a home engine takes next: one that a cluster reset interrupted, else, unless UPD_CTRL.HALT is set, the first
queued one. -/
def nextEntry (s : State) (c : Nat) : Option UEntry :=
  let q := clu s c
  match q.redo with
  | e :: _ => some e
  | [] => if bitAt (creg s c Reg.UPD_CTRL) 0 ∨ 128 ≤ q.infl.length then none else q.uq.head?

/-- That entry leaves its place. -/
def takeMolt (c : Nat) (s : State) : State :=
  modClu c (fun q => if q.redo.isEmpty then { q with uq := q.uq.drop 1 } else { q with redo := q.redo.drop 1 }) s

/-- An event of the home engine: the next entry has operation `op` and is applied (R248, R257). -/
def moltOp (op c : Nat) (apply : Nat → UEntry → EM MoltRes) (s : State) : Out :=
  if 96 ≤ c then .fault .noSuchUnit
  else match nextEntry s c with
    | none => .next s
    | some e =>
      let same (m : Molt) : Bool := m.ent.own == e.own && m.ent.table == e.table && m.ent.row == e.row
      if e.op ≠ op ∨ !awake s c ∨ isFrozen s e.own (.upd c) ∨ (clu s c).infl.any same then .next s
      else match runEM (do
            let e ← freshShard c e
            if 2 ≤ e.shard.tier ∨ e.shard.home ≠ c then pure (Sum.inr e)
            else do
              let r ← apply c e
              pure (Sum.inl r) : EM (MoltRes ⊕ UEntry)) (takeMolt c s) with
        | .good (.inr e) s' => .next (if homeFull s e then flagC e.shard.home Reg.UPD_ERR 1 s else rehomed c e s')
        | .good (.inl (.ready m)) s => .next (modClu c (fun q => { q with infl := q.infl ++ [m] }) s)
        | .good (.inl (.outcome code ver)) s =>
          .next (giveOutcome c e code 0 (if code = 4 then hdrIntegrity c e ver s else s))
        | .stop (.viol kind a) s => .next (freezeUpd e.own c kind a (endFrozen c e s))
        | .stop (.fail st dt a) s => .next (giveOutcome c e 0x04 0 (rowCompl c e st dt a s))
        | .stop (.unc a mem pw) s => .next (giveOutcome c e 0x05 0 (rowUnc c e a mem pw s))

/-- MOLT_REPLACE. -/
def execMoltReplace (c : Nat) (s : State) : Out := moltOp 0 c applyEntry s
/-- MOLT_ACCUMULATE. -/
def execMoltAccumulate (c : Nat) (s : State) : Out := moltOp 1 c applyEntry s
/-- MOLT_REPLACE_COND. -/
def execMoltReplaceCond (c : Nat) (s : State) : Out := moltOp 2 c applyEntry s
/-- MOLT_REPLICA. -/
def execMoltReplica (c : Nat) (s : State) : Out := moltOp 3 c applyReplica s

/-- Invalidations to the update engine of every cluster in the table's CMASK (R233). -/
def sendInvalidations (c : Nat) (e : UEntry) (s : State) : State :=
  let cs := (clustersOf s e.own).filter fun d => bitAt e.td.cmask d
  cs.foldl (fun s d => modClu d (fun q => { q with invs := q.invs ++ [(e.own, e.table, e.row)] }) s)
    (bumpC c Reg.UPD_INVAL 0 cs.length s)

/-- The primary sends the committed row to its replica (R253). -/
def sendReplica (m : Molt) (s : State) : State :=
  let e := m.ent
  if !e.shard.rep || e.op = 3 || !inDomain s then s
  else match msgFor s e.own e.shard.replica 4 e.table 0 (e.row / 2 ^ e.td.shlog)
      (entryBytes { e with op := 3, payload := leBytes 16 m.hdr ++ m.codes }) with
    | none => s
    | some msg => trySend msg s

/-- MOLT_COMMIT: the n-th molt in flight commits with its header write, sends invalidations and has its outcome (R248, R251). -/
def execMoltCommit (c n : Nat) (s : State) : Out :=
  if 96 ≤ c then .fault .noSuchUnit
  else match (clu s c).infl[n]? with
    | none => .next s
    | some m =>
      let e := m.ent
      let s := modClu c (fun q => { q with infl := q.infl.eraseIdx n }) s
      match runEM (wrN (.upd c) e.own none m.addr 16 m.hdr) s with
      | .stop (.viol kind a) s => .next (freezeUpd e.own c kind a (endFrozen c e s))
      | .stop (.fail st dt a) s => .next (giveOutcome c e 0x04 0 (rowCompl c e st dt a s))
      | .stop (.unc a mem pw) s => .next (giveOutcome c e 0x05 0 (rowUnc c e a mem pw s))
      | .good _ s =>
        let s := if e.op = 3 then s else bumpC c Reg.UPD_MOLTS (if e.op = 1 then 32 else 0) 1 s
        .next (giveOutcome c e 0 (hVer m.hdr) (sendReplica m (sendInvalidations c e s)))

/-- Molts of a cluster at a cluster reset: those in conversion restart once, a second reset ends them (Table 7.11). -/
def resetMolts (c : Nat) (s : State) : State :=
  let q := clu s c
  let es := q.redo ++ q.infl.map fun m => m.ent
  let again := (es.filter fun e => e.resets == 0).map fun e => { e with resets := 1 }
  let s := modClu c (fun q => { q with infl := [], redo := again }) s
  (es.filter fun e => e.resets != 0).foldl (fun s e => giveOutcome c e 0x07 0 s) s

/-! ### Fabric requests and responses (R440, R445) -/

/-- REFUSE a request. -/
def refuseMsg (m : Msg) (s : State) : State := trySend (reply m 5 [] s) s

/-- ROW_READ: the home reads the row by R236 and answers with ROW_DATA; `over` attempts are overtaken. -/
def readForFabric (c p : Nat) (d : TabD) (a ovr : Nat) : Nat → EM (Option (Nat × List Byte))
  | 0 => pure none
  | f + 1 => do
    let r ← tryRow (.upd c) p d a (decide (0 < ovr))
    match r with
    | .pass h l => pure (some (h, l))
    | .empty => pure (some (0, []))
    | .bad _ _ => readForFabric c p d a (ovr - 1) f

/-- ROW_READ: the first waiting request, a ROW_READ, is answered (R445); an undefined table gets an empty answer, and a row that
fails none (log 22). -/
def execRowRead (ovr : Nat) (s : State) : Out :=
  match headKind s.reqIn 0 with
  | none => .next s
  | some m =>
    let s := { s with reqIn := s.reqIn.drop 1 }
    match dpartLocal s m.dpart with
    | none => .next (refuseMsg m s)
    | some p =>
      let row := leNat (m.payload.take 8) % 2 ^ 40
      let prep : EM (TabD × Shard) := do
        let d ← readTable .fw p m.table
        if d.rows ≤ row then throw (.fail 0x01 0x07_0003) else pure ()
        let sh ← readShard .fw p d row
        let s ← get
        if 2 ≤ sh.tier ∨ (clu s sh.home).part ≠ some p then throw (.fail 0x01 0x07_0001) else pure (d, sh)
      match runEM prep s with
      | .stop (.fail 0x01 0x07_0001 _) s => .next (trySend (reply m 1 [] s) s)
      | .stop _ s => .next s
      | .good (d, sh) s =>
        match runEM (readForFabric sh.home p d (rowAddr d sh row) ovr 4) s with
        | .good (some (h, l)) s => .next (trySend (reply m 1 (leBytes 16 h ++ l) s) s)
        | .good none s => .next s
        | .stop (.viol kind a) s => .next (freezeUpd p sh.home kind a s)
        | .stop _ s => .next s

/-- An entry that a MOLT or REPLICA message carries, routed to its home. -/
def entryOfMsg (p : Nat) (m : Msg) : EM Route := do
  let w0 := leNat (m.payload.take 8)
  let w1 := leNat ((m.payload.drop 8).take 8)
  let row := bits w0 39 0
  let d ← readTable .fw p m.table
  let op := bits w0 53 52
  if (m.kind = 2 ∧ (op = 3 ∨ (op = 1 ∧ (!d.accOk ∨ d.f = .b1 ∨ d.f = .c4)))) then pure (.outcome 0x02)
  else if d.rows ≤ row then pure (.outcome 0x03)
  else do
    let sh ← readShard .fw p d row
    let s ← get
    if 2 ≤ sh.tier ∨ (clu s sh.home).part ≠ some p then pure (.outcome 0x02)
    else pure (.queue sh.home { own := p, src := p, table := m.table, row := row, op := if m.kind = 4 then 3 else op,
                                ptag := bits w0 59 56, expect := bits w1 31 0, payload := m.payload.drop 16, td := d,
                                shard := sh, module := m.src + 1, tag := m.tag })

/-- A fabric entry reaches its home's queue, or has its outcome at once. -/
def arriveEntry (m : Msg) (s : State) : State :=
  let s1 := { s with reqIn := s.reqIn.drop 1 }
  match dpartLocal s m.dpart with
  | none => refuseMsg m s1
  | some p =>
    let back (code : Nat) (s : State) : State :=
      if m.kind = 2 then trySend (reply m 3 (leBytes 8 code) s) s else s
    match runEM (entryOfMsg p m) s1 with
    | .stop _ s => back 0x02 s
    | .good (.queue home e) s2 =>
      if 1024 ≤ (clu s2 home).uq.length then flagC home Reg.UPD_ERR 1 s
      else if isFrozen s2 p (.upd home) then back 0x02 s2
      else modClu home (fun q => { q with uq := q.uq ++ [e] }) s2
    | .good (.outcome code) s => back code s
    | .good (.away _) s => back 0x02 s

/-- MOLT: the first waiting request, a MOLT, delivers its entry to its home (R445). -/
def execMolt (s : State) : Out :=
  match headKind s.reqIn 2 with
  | none => .next s
  | some m => .next (arriveEntry m s)

/-- REPLICA: the first waiting request, a REPLICA, delivers its row to the replica's engine (R253). -/
def execReplica (s : State) : Out :=
  match headKind s.reqIn 4 with
  | none => .next s
  | some m => .next (arriveEntry m s)

/-- OUTCOME: the response gives a remote molt its outcome (R445). -/
def execOutcome (s : State) : Out :=
  match headKind s.rspIn 3 with
  | none => .next s
  | some m =>
    let s := { s with rspIn := s.rspIn.drop 1 }
    match s.remotes.find? fun r => r.tag == m.tag && r.gather == none with
    | none => .next s
    | some r =>
      .next (batchOutcome r.batch r.idx (leNat (m.payload.take 1)) { s with remotes := s.remotes.erase r })

/-- A remote read or molt ends with no answer: the read with REMOTE_UNREACHABLE, the molt with an outcome. -/
def remoteFails (r : Remote) (outcome : Nat) (ov : List Nat) (s : State) : State :=
  let s := { s with remotes := s.remotes.erase r }
  match r.gather with
  | some _ => gatherAnswer r (fun x _ => x.fail r.row 0x01 0x07_0009 0) ov s
  | none => batchOutcome r.batch r.idx outcome (countRefused (batchOf s r.batch).clu outcome s)

/-- REFUSE: a remote read or molt ends at once (R440). -/
def execRefuse (ov : List Nat) (s : State) : Out :=
  match headKind s.rspIn 5 with
  | none => .next s
  | some m =>
    let s := { s with rspIn := s.rspIn.drop 1 }
    match s.remotes.find? fun r => r.tag == m.tag with
    | none => .next s
    | some r => .next (remoteFails r 0x09 ov s)

/-- REMOTE_WAIT_EXPIRY: TBL_REMOTE_WAIT lapses on the wait of a tag: a read goes to the replica once, else it fails;
a molt is UNCONFIRMED (R253, R259). -/
def execRemoteWaitExpiry (tag : Nat) (ov : List Nat) (s : State) : Out :=
  match s.remotes.find? fun r => r.tag == tag with
  | none => .next s
  | some r =>
    let s := flagP r.part Reg.TBL_ERR 1 s
    if r.gather.isNone then .next (remoteFails r 0x08 ov s)
    else
      let tag' := s.nextTag
      let shlog := match r.gather with
        | some (c, j, _) => ((mget none (clu s c).gRun j).map fun g => g.td.shlog).getD 10
        | none => 10
      let msg := msgFor s r.own r.shard.replica 0 r.table tag' (r.row / 2 ^ shlog) (leBytes 8 r.row)
      match if r.shard.rep && !r.fell then msg.bind (fun m => sendMsg m none s) else none with
      | some s' => .next { s' with nextTag := (tag' + 1) % 2 ^ 32,
                                   remotes := (s'.remotes.erase r) ++ [{ r with tag := tag', fell := true }] }
      | none => .next (remoteFails r 0x08 ov s)

end Sys2Proof.Machine
end

