-- ==== Sys2Proof/Machine/Records.lean ====
section
/-!
DEFINITION. Rings in host memory: completion records (R380, R381), error records and their routes (R485 to R487),
the drop of records and the LOST record that follows (R382, R543), and the head writes of R542.
-/
namespace Sys2Proof.Machine

/-! ### Mailboxes -/

/-- Mailbox f: 0 to 15 a partition's, 16 + port a management function's, 20 the sideband's. -/
def mbxOf (s : State) (f : Nat) : Mbx := mget {} s.mbx f

/-- Change mailbox f. -/
def modMbx (f : Nat) (g : Mbx → Mbx) (s : State) : State := { s with mbx := mset {} s.mbx f (g (mbxOf s f)) }

/-- Reset value of an MBX register (Table 11.16). -/
def mbxReset (o : Nat) : Nat := if o = Reg.MBX_CMD_CFG then 6 + 2 ^ 32 else if o = Reg.MBX_IRQ_MOD then 1 else 0

/-- MBX register at offset o of the page. -/
def mreg (s : State) (f o : Nat) : Nat := mget (mbxReset o) (mbxOf s f).regs o

/-- Write an MBX register. -/
def setMreg (f o v : Nat) (s : State) : State :=
  modMbx f (fun m => { m with regs := mset (mbxReset o) m.regs o v }) s

/-- Set a bit of MBX_ERR. -/
def flagM (f b : Nat) (s : State) : State := setMreg f Reg.MBX_ERR (orBit (mreg s f Reg.MBX_ERR) b) s

/-- Add to a 32-bit count of an MBX register. -/
def bumpM (f o lo n : Nat) (s : State) : State := setMreg f o (bump32 lo n (mreg s f o)) s

/-- MBX_CTRL.ENABLE. -/
def mbxEnabled (s : State) (f : Nat) : Bool := bitAt (mreg s f Reg.MBX_CTRL) 0

/-- MBX_STATUS.RUNNING (R373). -/
def mbxRunning (s : State) (f : Nat) : Bool := mbxEnabled s f || (!(mbxOf s f).gone && !(mbxOf s f).cmds.isEmpty)

/-- PF0 of the port is the management function (R367). -/
def mgmtOk (s : State) (port : Nat) : Bool := bitAt (dreg s (Reg.DEV_PORT_CFG + 8 * port)) 1

/-- The module serves its partitions: bring-up has ended READY or READY_DEGRADED (R472). -/
def served (s : State) : Bool := s.pwr == 2 && s.stage == 5 && (s.outcome == 1 || s.outcome == 2)

/-- Stage MGMT has ended, be it in a halt after it (R461, R475). -/
def mgmtEnded (s : State) : Bool := s.pwr == 2 && (s.stage != 0 || s.halted)

/-- The function of a mailbox answers: that of a bound partition once bring-up has ended, or a management function once
stage MGMT has ended (R367, R426, R461). -/
def mbxExists (s : State) (f : Nat) : Bool :=
  if f < 16 then (part s f).st != .unbound && ((part s f).st != .resetting || served s)
  else decide (f < 20) && mgmtOk s (f - 16) && mgmtEnded s

/-- Island of the primary management complex (Table 1.6). -/
def mgmtIsland (s : State) : Nat := coreIsland (dreg s Reg.ERR_MGMT % 2) + 1

/-- Host port whose I/O die serves the mailbox. -/
def mbxPort (s : State) (f : Nat) : Nat := if f < 16 then (part s f).port else if f < 20 then f - 16 else 0

/-- Island of the firmware that writes a mailbox's records: the port's control core, or the management complex
(Table 12.3). -/
def fwIsland (s : State) (f : Nat) : Nat := if f < 16 then coreIsland (dieOf s (mbxPort s f)) else mgmtIsland s

/-- The function through which the device error ring is written: the lowest port with a management function (log 12). -/
def ringFn (s : State) : Nat := 16 + ((upto 4).find? (mgmtOk s)).getD 0

/-! ### Folds -/

/-- XOR of the 32-bit halves of 64-bit words. -/
def foldXor (l : List Nat) : Nat := l.foldl (fun r w => Nat.xor r (Nat.xor (w % 2 ^ 32) (w / 2 ^ 32 % 2 ^ 32))) 0

/-- PHASE of a record in slot i of a ring of 2^log (R542). -/
def phaseOf (log i : Nat) : Nat := if i / 2 ^ log % 2 = 0 then 1 else 0

/-- Slots that hold unreturned records (R542). -/
def ringUsed (head tail : Nat) : Nat := (tail + 2 ^ 32 - head % 2 ^ 32) % 2 ^ 32

/-- A head value lies between the present head and TAIL, both included (R542). -/
def headOk (head tail v : Nat) : Bool := decide (ringUsed head v ≤ ringUsed head tail)

/-! ### Error records (Table 15.2) -/

/-- The eight words of an error record. -/
def errWords (e : ErrInfo) (ovf rseq phase : Nat) : List Nat :=
  let w0 := e.sev % 16 + e.cls % 16 * 2 ^ 4 + e.detail % 2 ^ 24 * 2 ^ 8 + (e.part.getD 0) % 16 * 2 ^ 32 +
    b2n e.part.isSome * 2 ^ 36 + e.island % 2 ^ 16 * 2 ^ 48
  let ws := [w0, rseq % 2 ^ 32 + ovf % 2 ^ 32 * 2 ^ 32, e.cycles % 2 ^ 48, e.subject % 2 ^ 64, e.tag % 2 ^ 64,
             e.aux % 2 ^ 64, e.iseq % 2 ^ 32]
  let top := phase % 2 * 2 ^ 63
  ws ++ [top + compl 32 (foldXor (ws ++ [top]))]

/-- Words as little-endian bytes. -/
def wordsBytes (ws : List Nat) : List Byte := ws.flatMap (leBytes 8)

/-- Count a record of the partition's ring by severity, and show it in ERR_PLAST. -/
def notePart (p : Nat) (e : ErrInfo) (ws : List Nat) (s : State) : State :=
  let s := if e.sev = 2 then bumpP p Reg.ERR_PCOUNT 0 1 s
    else if e.sev = 3 then bumpP p Reg.ERR_PCOUNT 32 1 s
    else if e.sev = 4 then bumpP p Reg.ERR_PCOUNT2 0 1 s
    else bumpP p Reg.ERR_PCOUNT2 32 1 s
  ((upto 8).zip ws).foldl (fun s q => setPreg p (Reg.ERR_PLAST + 8 * q.1) q.2 s) s

/-- An access to a ring of mailbox f: a VF's goes out as R369 gives, a management function's untranslated (R373). -/
def ringXlat (f a n : Nat) (s : State) : State := if f < 16 then translate f (2 ^ 47 + a % 2 ^ 47) n s else s

/-- The error ring of mailbox f has room and is set up (R382). -/
def errRoom (s : State) (f : Nat) : Bool :=
  mbxRunning s f &&
    decide (ringUsed (mreg s f Reg.MBX_ERR_HEAD) (mreg s f Reg.MBX_ERR_TAIL) < 2 ^ bits (mreg s f Reg.MBX_ERR_CFG) 4 0)

/-- Write a record into the error ring of mailbox f, which has room. -/
def ringWrite (f : Nat) (e : ErrInfo) (ovf : Nat) (s : State) : State :=
  let t := mreg s f Reg.MBX_ERR_TAIL
  let log := bits (mreg s f Reg.MBX_ERR_CFG) 4 0
  let ws := errWords e ovf t (phaseOf log t)
  let a := bits (mreg s f Reg.MBX_ERR_BASE) 46 0 + 64 * (t % 2 ^ log)
  let s := pokes (hostKey f a) (wordsBytes ws) (ringXlat f a 64 s)
  let s := setMreg f Reg.MBX_ERR_TAIL ((t + 1) % 2 ^ 32) s
  let s := modMbx f (fun m => { m with errs := m.errs + 1 }) s
  if f < 16 then notePart f e ws s else s

/-- The LOST record of a ring that dropped records (R543). -/
def lostRecord (s : State) (f n : Nat) : ErrInfo :=
  { sev := 4, cls := 9, part := if f < 16 then some f else none, island := fwIsland s f,
    cycles := recCycles s (fwIsland s f), subject := min n (2 ^ 32 - 1), aux := 1 }

/-- The LOST record is the first record a ring takes once it can take one again (R543). -/
def putLost (f : Nat) (s : State) : State :=
  let n := (mbxOf s f).lost
  if n = 0 ∨ !errRoom s f then s
  else ringWrite f (lostRecord s f n) 0 (modMbx f (fun m => { m with lost := 0 }) s)

/-- A record due for the error ring of mailbox f: written, or dropped and counted (R382). -/
def putErr (f : Nat) (e : ErrInfo) (ovf : Nat) (s : State) : State :=
  if errRoom s f then ringWrite f e ovf s
  else flagM f 4 (bumpM f Reg.MBX_ERR_LOST 0 1 (modMbx f (fun m => { m with lost := m.lost + 1 }) s))

/-- The device error ring has room and is enabled (R517). -/
def ringRoom (s : State) : Bool :=
  bitAt (dreg s Reg.ERR_RING_CTRL) 0 &&
    decide (ringUsed (dreg s Reg.ERR_RING_HEAD) (dreg s Reg.ERR_RING_TAIL) < 2 ^ bits (dreg s Reg.ERR_RING_CFG) 4 0)

/-- Write a record into the device error ring, which has room. -/
def dringWrite (e : ErrInfo) (ovf : Nat) (s : State) : State :=
  let t := dreg s Reg.ERR_RING_TAIL
  let log := bits (dreg s Reg.ERR_RING_CFG) 4 0
  let ws := errWords e ovf t (phaseOf log t)
  let s := pokes (hostKey (ringFn s) (bits (dreg s Reg.ERR_RING_BASE) 46 0 + 64 * (t % 2 ^ log))) (wordsBytes ws) s
  let s := setDreg Reg.ERR_RING_TAIL ((t + 1) % 2 ^ 32) s
  let s := ((upto 8).zip ws).foldl (fun s q => setDreg (Reg.ERR_DLAST + 8 * q.1) q.2 s) s
  { s with ringErrs := s.ringErrs + 1 }

/-- The device ring's LOST record (R543). -/
def dputLost (s : State) : State :=
  let n := s.ringLost
  if n = 0 ∨ !ringRoom s then s
  else dringWrite { lostRecord s 16 n with sev := 6, island := mgmtIsland s } 0 { s with ringLost := 0 }

/-- A record due for the device error ring (R517). -/
def dputErr (e : ErrInfo) (ovf : Nat) (s : State) : State :=
  if ringRoom s then dringWrite e ovf s
  else flagD Reg.ERR_DFLAGS 0 (bumpD Reg.ERR_RING_LOST 0 1 { s with ringLost := s.ringLost + 1 })

/-- Write a record to its rings (R487). -/
def routeErr (e : ErrInfo) (ovf : Nat) (s : State) : State :=
  let s := match e.part with
    | some p => putErr p e ovf s
    | none => s
  let s := match e.mgmtMbx with
    | some f => if f < 20 then putErr f e ovf s else s
    | none => s
  if 5 ≤ e.sev ∨ e.part = none ∨ e.mgmtMbx.isSome then dputErr e ovf s else s

/-- A record that firmware writes of its own, of a severity and a class, about no partition. -/
def devRecord (s : State) (sev cls detail subject aux : Nat) : ErrInfo :=
  { sev := sev, cls := cls, detail := detail, island := mgmtIsland s, cycles := recCycles s (mgmtIsland s),
    subject := subject, aux := aux }

/-- Held completion records are discarded and reported (R17, R399). -/
def loseRecords (n : Nat) (s : State) : State :=
  if n = 0 then s else bumpD Reg.DEV_ORPHAN_LOST 0 n (fwRecord (devRecord s 6 9 0 (min n (2 ^ 32 - 1)) 0) s)

/-! ### Completion records (Table 11.7) -/

/-- The four words of a completion record. -/
def cplWords (d : Due) (isl cycles phase : Nat) (vis : Bool) : List Nat :=
  let w3 := min d.rlen 0xFF_FFFF + b2n vis * 2 ^ 24 + d.kind % 2 * 2 ^ 25 + phase % 2 * 2 ^ 31
  let ws := [d.tag % 2 ^ 64, d.seq % 2 ^ 32 + d.status % 2 ^ 8 * 2 ^ 32 + d.detail % 2 ^ 24 * 2 ^ 40,
             isl % 2 ^ 16 + cycles % 2 ^ 48 * 2 ^ 16]
  ws ++ [w3 + compl 32 (foldXor (ws ++ [w3])) * 2 ^ 32]

/-- A record counts toward moderation (R403). -/
def countIrq (f : Nat) (s : State) : State :=
  modMbx f (fun m => { m with counted := m.counted + 1, since := if m.counted = 0 then s.now else m.since }) s

/-- A request whose record has been written may be freed later (R335). -/
def markWritten (f seq : Nat) (s : State) : State :=
  { s with reqs := mmap {} (fun _ q =>
      if q.mbx = f ∧ q.seq = seq ∧ q.st = .done then { q with written := true } else q) s.reqs }

/-- A command's record has been written: the command is closed. -/
def closeCmd (f : Nat) (d : Due) (s : State) : State :=
  if d.status = 0x08 ∨ d.kind = 1 then s
  else if d.old then markWritten f d.seq s
  else markWritten f d.seq (modMbx f (fun m => { m with cmds := m.cmds.filter fun c => c.seq != d.seq }) s)

/-- A path flush of a partition (R393). -/
def pathFlush (p : Nat) (s : State) : State := modPart p (fun q => { q with flushes := q.flushes + 1 }) s

/-- Write a record that is due into the completion ring of its mailbox (R381, R392). -/
def writeCpl (f : Nat) (d : Due) (s : State) : State :=
  let vis : Bool := d.fvis && d.status == 0
  let s := if vis then pathFlush f s else s
  let isl := if vis then coreIsland (dieOf s (mbxPort s f)) else d.island
  let t := mreg s f Reg.MBX_CPL_TAIL
  let log := bits (mreg s f Reg.MBX_CPL_CFG) 4 0
  let ws := cplWords d isl (recCycles s isl) (phaseOf log t) vis
  let a := bits (mreg s f Reg.MBX_CPL_BASE) 46 0 + 32 * (t % 2 ^ log)
  let s := pokes (hostKey f a) (wordsBytes ws) (ringXlat f a 32 s)
  let s := setMreg f Reg.MBX_CPL_TAIL ((t + 1) % 2 ^ 32) s
  let s := match (mbxOf s f).waitAt with
    | none => s
    | some w => bumpM f Reg.MBX_CPL_WAIT 0 ((s.now - w) / 25) (modMbx f (fun m => { m with waitAt := none }) s)
  closeCmd f d (if d.noirq then s else countIrq f s)

/-- The record of a sideband command, as the response carries it (R531): no ring, no PHASE. -/
def sendCpl (d : Due) (s : State) : State :=
  let ws := cplWords d d.island (recCycles s d.island) 0 false
  closeCmd 20 d { s with sent := s.sent ++ [(2, ws)] }

/-- The completion ring of a mailbox has room. -/
def cplRoom (s : State) (f : Nat) : Bool :=
  decide (ringUsed (mreg s f Reg.MBX_CPL_HEAD) (mreg s f Reg.MBX_CPL_TAIL) < 2 ^ bits (mreg s f Reg.MBX_CPL_CFG) 4 0)

/-- COMPLETION_RECORD_WRITE: the first record due for mailbox f is written, or waits for a slot (R381). -/
def execCompletionRecordWrite (f : Nat) (s : State) : Out :=
  if 20 < f then .fault .noSuchUnit
  else match s.due.find? fun d => d.mbx == f with
    | none => .next s
    | some d =>
      let s' := { s with due := s.due.erase d }
      if f = 20 then .next (sendCpl d s')
      else if !mbxRunning s f then .next s
      else if cplRoom s f then .next (writeCpl f d s')
      else if (mbxOf s f).waitAt = none then .next (modMbx f (fun m => { m with waitAt := some s.now }) s)
      else .next s

/-! ### Ring heads and interrupts -/

/-- The partition's host function is frozen: its writes are discarded (Table 12.6). -/
def hostFrozen (s : State) (f : Nat) : Bool := decide (f < 16) && isFrozen s f (.host f)

/-- The host returns completion slots (R542). -/
def putCplHead (f v : Nat) (s : State) : State :=
  if headOk (mreg s f Reg.MBX_CPL_HEAD) (mreg s f Reg.MBX_CPL_TAIL) (v % 2 ^ 32) then
    setMreg f Reg.MBX_CPL_HEAD (v % 2 ^ 32) s
  else flagM f 7 s

/-- MBX_CPL_HEAD_WRITE. -/
def execMbxCplHeadWrite (f v : Nat) (s : State) : Out :=
  if 20 ≤ f then .fault .noSuchUnit
  else if !mbxExists s f || hostFrozen s f then .next s
  else .next (putCplHead f v s)

/-- The host returns error record slots (R542, R543). -/
def putErrHead (f v : Nat) (s : State) : State :=
  if headOk (mreg s f Reg.MBX_ERR_HEAD) (mreg s f Reg.MBX_ERR_TAIL) (v % 2 ^ 32) then
    putLost f (setMreg f Reg.MBX_ERR_HEAD (v % 2 ^ 32) s)
  else flagM f 7 s

/-- MBX_ERR_HEAD_WRITE. -/
def execMbxErrHeadWrite (f v : Nat) (s : State) : Out :=
  if 20 ≤ f then .fault .noSuchUnit
  else if !mbxExists s f || hostFrozen s f then .next s
  else .next (putErrHead f v s)

/-- The host returns slots of the device error ring (R542, R543). -/
def putRingHead (v : Nat) (s : State) : State :=
  if headOk (dreg s Reg.ERR_RING_HEAD) (dreg s Reg.ERR_RING_TAIL) (v % 2 ^ 32) then
    dputLost (setDreg Reg.ERR_RING_HEAD (v % 2 ^ 32) s)
  else flagD Reg.ERR_DFLAGS 6 s

/-- ERR_RING_HEAD_WRITE. -/
def execErrRingHeadWrite (v : Nat) (s : State) : Out := when (served s) (putRingHead v) s

/-- ERR_RING_CTRL.ENABLE starts or stops the device error ring (R517, R542). -/
def enableRing (en : Bool) (s : State) : State :=
  let s' := setDreg Reg.ERR_RING_CTRL (b2n en) s
  if en && !bitAt (dreg s Reg.ERR_RING_CTRL) 0 then
    let s' := if s.ringNew then setDreg Reg.ERR_RING_HEAD 0 (setDreg Reg.ERR_RING_TAIL 0 s') else s'
    dputLost { s' with ringNew := false }
  else s'

/-- ERR_RING_ENABLE. -/
def execErrRingEnable (en : Bool) (s : State) : Out := when (served s) (enableRing en) s

/-- A vector leaves the module, or its Pending Bit is set while it is masked (R403). -/
def sendVec (f v : Nat) (masked : Bool) (s : State) : State :=
  if masked then modMbx f (fun m => { m with msixPend := mset false m.msixPend v true }) s
  else { modMbx f (fun m => { m with msixPend := mset false m.msixPend v false }) s with sent := s.sent ++ [(1, [f, v])] }

/-- MSIX_SEND: vector v of a function is sent when its count or timer is reached, for each error record, or on
its unmask (R402, R403); `masked` is the vector's mask bit. -/
def execMsixSend (f v : Nat) (masked : Bool) (s : State) : Out :=
  if 20 ≤ f ∨ 3 ≤ v then .fault .noSuchUnit
  else
    let m := mbxOf s f
    let w := mreg s f Reg.MBX_IRQ_MOD
    if v = 0 then
      if m.counted ≠ 0 ∧ (max 1 (bits w 15 0) ≤ m.counted ∨ bits w 31 16 ≠ 0) then
        .next (sendVec f 0 masked (modMbx f (fun m => { m with counted := 0, since := 0 }) s))
      else if mget false m.msixPend 0 && !masked then .next (sendVec f 0 false s)
      else .next s
    else if v = 1 then
      if m.errs ≠ 0 then .next (sendVec f 1 masked (modMbx f (fun m => { m with errs := m.errs - 1 }) s))
      else if mget false m.msixPend 1 && !masked then .next (sendVec f 1 false s)
      else .next s
    else if f = ringFn s ∧ s.ringErrs ≠ 0 then .next (sendVec f 2 masked { s with ringErrs := s.ringErrs - 1 })
    else if mget false m.msixPend 2 && !masked then .next (sendVec f 2 false s)
    else .next s

end Sys2Proof.Machine
end

