-- ==== Sys2Proof/Machine/Mailbox.lean ====
section
/-!
DEFINITION. Mailboxes (R373 to R379): doorbells, the fetch of command entries, their checks (R383, R398, R461), and
how a command ends.
-/
namespace Sys2Proof.Machine

/-- A field of ones from bit lo to bit hi. -/
def fm (hi lo : Nat) : Nat := 2 ^ (hi + 1) - 2 ^ lo

/-- Stores of the environment into a function's host memory. -/
def hostStores (f : Nat) (hs : List (Nat × Byte)) (s : State) : State :=
  hs.foldl (fun s q => poke (hostKey f q.1) q.2 s) s

/-! ### How a command ends -/

/-- An argument word of a command. -/
def Cmd.a (c : Cmd) (i : Nat) : Nat := c.args.getD i 0

/-- The error record of a command that a fault ended (R545). -/
def cmdErr (s : State) (f : Nat) (c : Cmd) (status detail rlen : Nat) : ErrInfo :=
  let cls := clsOf status
  { sev := sevOf status, cls := cls, detail := detail, part := if f < 16 then some f else none,
    island := fwIsland s f, cycles := recCycles s (fwIsland s f), subject := if cls = 5 then c.op else 0,
    aux := if cls = 5 then min rlen 0xFF_FFFF else 0, tag := c.tag, iseq := c.seq,
    mgmtMbx := if f < 16 then none else some f }

/-- The command is still open: its mailbox holds it. -/
def isOpen (s : State) (f seq : Nat) : Bool := (mbxOf s f).cmds.any fun x => x.seq == seq

/-- The record of a command becomes due; a command whose mailbox has been reset has none. -/
def dueCmd (f : Nat) (c : Cmd) (status detail rlen : Nat) (s : State) : State :=
  if !isOpen s f c.seq then s
  else
    addDue { mbx := f, tag := c.tag, seq := c.seq, status := status, detail := detail, island := fwIsland s f, rlen := rlen,
             fvis := c.fvis, noirq := c.noirq }
      (modMbx f (fun m => { m with cmds := m.cmds.map fun x => if x.seq = c.seq then { x with due := true } else x }) s)

/-- A status that is a fault of its item (R484, R545). -/
def isFault (status : Nat) : Bool :=
  status == 1 || status == 4 || status == 7 || status == 9 || status == 0x0A || status == 0x0D

/-- A command ends: its record is due, and a fault is recorded, with the value in memory that caused it (R17, R486, R545). -/
def endCmdAt (f : Nat) (c : Cmd) (status detail rlen : Nat) (w : Option (Nat × Nat)) (s : State) : State :=
  let e := cmdErr s f c status detail rlen
  let e := match w with
    | some (a, mem) => { e with subject := a % 2 ^ 48 + mem * 2 ^ 48, aux := memAux s f a }
    | none => e
  dueCmd f c status detail rlen (if isFault status then fwRecord e s else s)

/-- The same for a fault that concerns no value in memory. -/
def endCmd (f : Nat) (c : Cmd) (status detail rlen : Nat) (s : State) : State := endCmdAt f c status detail rlen none s

/-- A command ends by a Stop of an access made for it; `own` is the detail an uncorrectable word gives (R291, R420). -/
def stopCmd (f : Nat) (c : Cmd) (own rlen : Nat) (e : Stop) (s : State) : State :=
  match e with
  | .viol kind a =>
    dueCmd f c 0x07 0 rlen (fwRecord { cmdErr s f c 0x07 0 rlen with subject := kind * 2 ^ 16, aux := a } s)
  | .fail st dt _ => endCmdAt f c st dt rlen e.word s
  | .unc _ mem pw => endCmdAt f c 0x09 (uncDetail own mem pw) rlen e.word s

/-- ERR_MGMT.TAKING_OVER: command reading and admission are paused (R506). -/
def takingOver (s : State) : Bool := bitAt (dreg s Reg.ERR_MGMT) 2

/-- The command of mailbox f that the event of opcode `op` may start: the one not yet started, once its FENCE holds
(R374, R379). -/
def nextCmd (s : State) (f op : Nat) : Option Cmd :=
  let m := mbxOf s f
  if takingOver s then none
  else match m.cmds.find? fun c => !c.started with
  | none => none
  | some c =>
    if c.op ≠ op then none
    else if c.fence && (m.cmds.head?.map fun x => x.seq) != some c.seq then none
    else some c

/-- The command has started. -/
def startCmd (f : Nat) (c : Cmd) (s : State) : State :=
  modMbx f (fun m => { m with cmds := m.cmds.map fun x => if x.seq = c.seq then { x with started := true } else x }) s

/-- A command that ran before and has not ended. -/
def openCmd (s : State) (f op : Nat) : Option Cmd :=
  (mbxOf s f).cmds.find? fun c => c.op == op && c.started && !c.due

/-- An event that starts the next command of a mailbox, of one opcode, with a meaning. -/
def cmdEvent (f op : Nat) (run : Cmd → State → State) (s : State) : Out :=
  if 20 < f then .fault .noSuchUnit
  else match nextCmd s f op with
    | none => .next s
    | some c => .next (run c (startCmd f c s))

/-! ### Checks (R383) -/

/-- Argument bits of CMD_BIND by KIND (Table 12.2). -/
def bindA1 (kind : Nat) (move : Bool) : Nat :=
  match kind with
  | 0 => fm 1 0 + fm 6 2 + fm 32 16
  | 1 => fm 6 0 + if move then fm 11 8 else 0
  | 2 => fm 3 0 + fm 12 4 + fm 21 13 + fm 28 24 + fm 36 32
  | 3 => fm 2 0 + fm 7 4 + fm 27 16 + fm 43 32
  | 4 => fm 9 0
  | 5 => fm 3 0 + fm 15 8 + fm 23 16
  | 6 => fm 16 0
  | _ => 0

/-- Argument bits of CMD_UNBIND by KIND (Table 12.2). -/
def unbindA1 (kind : Nat) : Nat :=
  match kind with
  | 1 => fm 6 0
  | 2 => fm 3 0
  | 3 => fm 2 0
  | 4 => fm 9 0
  | 5 => fm 3 0
  | _ => 0

/-- Argument bits of CMD_SCRUB by kind (Table 12.4). -/
def scrubMask (kind : Nat) : Nat × Nat :=
  match kind with
  | 0 => (fm 43 0, fm 43 0)
  | 1 => (fm 43 0, fm 43 0)
  | 2 => (fm 6 0, 0)
  | 4 => (fm 12 4 + fm 21 13 + fm 28 24 + fm 36 32, 0)
  | 5 => (fm 7 4 + fm 27 16 + fm 43 32, 0)
  | _ => (0, 0)

/-- Bits that a command's arguments may set (Table 11.8); m is true on the management function. -/
def argMask (op : Nat) (m : Bool) (a0 : Nat) : List Nat :=
  let kind := bits a0 7 4
  match op with
  | 0x01 => [fm 9 0 + fm 63 32, fm 47 0]
  | 0x02 => [fm 47 0, fm 39 0]
  | 0x03 => [fm 8 0 + if kind = 1 then 2 ^ 9 else 0, bindA1 kind (bitAt a0 9)]
  | 0x04 => [fm 8 0, unbindA1 kind]
  | 0x05 => [fm 47 0, fm 47 0]
  | 0x07 => [if m then fm 11 0 else fm 7 0, fm 47 0, fm 31 0]
  | 0x08 => [fm 24 0]
  | 0x09 => [if m then fm 19 0 else fm 15 0]
  | 0x0A => [fm 63 0, fm 63 0, if m then fm 4 0 else 0]
  | 0x0C => [fm 7 0, (scrubMask kind).1, (scrubMask kind).2]
  | 0x0D => [fm 2 0 + fm 5 4]
  | 0x0E => [1 + fm 63 48, fm 63 0]
  | 0x0F => [fm 4 0 + fm 31 16]
  | 0x10 => [fm 47 0, fm 31 0, 1]
  | 0x11 => [fm 31 0]
  | _ => []

/-- No reserved bit of the arguments is set (R383). -/
def argsOk (op : Nat) (m : Bool) (a : List Nat) : Bool :=
  let ms := argMask op m (a.getD 0 0)
  (upto 5).all fun i => Nat.land (a.getD i 0) (compl 64 (ms.getD i 0)) == 0

/-- The function may send the command (Table 11.8). -/
def permitted (op : Nat) (m : Bool) : Bool :=
  if op = 0 ∨ op = 7 ∨ op = 9 ∨ op = 0x0A then true
  else if op = 3 ∨ op = 4 ∨ (0x0C ≤ op ∧ op ≤ 0x10) then m
  else !m

/-- The management mailbox's commands before the outcome, and after NOT_READY (R461, R472). -/
def bringupOk (op a0 : Nat) : Bool :=
  op == 0 || (op == 7 && bits a0 7 0 == 0) || op == 0x0D || op == 0x0E || op == 0x10

/-- Commands a sideband session accepts (Table 16.8). -/
def sidebandOk (op : Nat) (a2 : Nat) : Bool :=
  op == 0 || op == 7 || op == 0x0D || op == 0x0E || op == 0x0F || (op == 0x0A && bitAt a2 4)

/-- The detail with which firmware refuses a command at once; none if it may run. -/
def refuseDetail (s : State) (f : Nat) (c : Cmd) : Option Nat :=
  let m : Bool := decide (16 ≤ f)
  if 0x11 < c.op then some (if f = 20 then 0x0B_0003 else 0x0B_0002)
  else if !permitted c.op m || (f = 20 ∧ !sidebandOk c.op (c.a 2)) then some 0x0B_0003
  else if f < 16 ∧ (part s f).st = .orphan ∧ c.op ≠ 0 ∧ c.op ≠ 7 ∧ c.op ≠ 0x0A then some 0x0B_0006
  else if m && !served s && !bringupOk c.op (c.a 0) then some 0x0E_0004
  else if !argsOk c.op m c.args then some 0x0B_0004
  else none

/-! ### Doorbells and fetch (R376 to R379) -/

/-- H, S and the ring size of a mailbox. -/
def mbxH (s : State) (f : Nat) : Nat := bits (mreg s f Reg.MBX_CMD_HEAD) 31 0
def mbxS (s : State) (f : Nat) : Nat := bits (mreg s f Reg.MBX_CMD_HEAD) 63 32
def mbxN (s : State) (f : Nat) : Nat := 2 ^ bits (mreg s f Reg.MBX_CMD_CFG) 4 0

/-- The held records of a partition are due, in their order (R398, R399). -/
def deliverHeld (f : Nat) (s : State) : State :=
  (mbxOf s f).held.foldl (fun s d => addDue d s) (modMbx f (fun m => { m with held := [], letGo := false }) s)

/-- A 64-bit doorbell arrives (R376, R377). -/
def ringBell (f tail expseq : Nat) (s : State) : State :=
  let d := (expseq % 2 ^ 32 + 2 ^ 32 - mbxS s f) % 2 ^ 32
  if !mbxEnabled s f then s
  else if 2 ^ 31 ≤ d then flagM f 1 s
  else if mbxN s f ≤ d ∨ tail ≠ (mbxH s f + d) % mbxN s f then flagM f 2 (fwRecord (cmdErr s f {} 1 0 0) s)
  else
    let s := bumpM f Reg.MBX_COUNTS 32 1
      (modMbx f (fun m => { m with target := some (expseq % 2 ^ 32), ahead := false }) s)
    if (mbxOf s f).letGo then deliverHeld f s else s

/-- DOORBELL: the host stores `hs` and then writes MBX_DOORBELL (R376, R377). -/
def execDoorbell (f : Nat) (wide : Bool) (tail expseq : Nat) (hs : List (Nat × Byte)) (s : State) : Out :=
  if 20 ≤ f then .fault .noSuchUnit
  else
    let s := hostStores f hs s
    if !mbxExists s f || hostFrozen s f then .next s
    else .next (if wide then ringBell f tail expseq s else flagM f 0 s)

/-- Firmware has work in the ring: S has not passed the target. -/
def wantsFetch (s : State) (f : Nat) : Bool :=
  !takingOver s && mbxEnabled s f && mbxExists s f && !(decide (f < 16) && (part s f).st == .resetting) &&
    match (mbxOf s f).target with
    | none => false
    | some t => decide ((t + 2 ^ 32 - mbxS s f) % 2 ^ 32 < 2 ^ 31)

/-- The entry at H. -/
def entryAt (s : State) (f : Nat) : List Byte :=
  peeks s (hostKey f (bits (mreg s f Reg.MBX_CMD_BASE) 46 0 + 64 * mbxH s f)) 64

/-- H and S move past an entry. -/
def passEntry (f : Nat) (s : State) : State :=
  let h := (mbxH s f + 1) % mbxN s f
  let q := (mbxS s f + 1) % 2 ^ 32
  bumpM f Reg.MBX_COUNTS 0 1
    (modMbx f (fun m => { m with reads := 0 }) (setMreg f Reg.MBX_CMD_HEAD (h + q * 2 ^ 32) s))

/-- The command an entry holds (Table 11.5). -/
def cmdOf (s : State) (w : Nat → Nat) : Cmd :=
  { op := bits (w 0) 15 0, seq := bits (w 0) 63 32, tag := w 1, fvis := bitAt (w 0) 16, noirq := bitAt (w 0) 17,
    fence := bitAt (w 0) 18, args := [w 2, w 3, w 4, w 5, w 6], at0 := s.now }

/-- SEQs of the requests read, kept within the last 65,536 sequence numbers (R385). -/
def noteSeq (c : Cmd) (m : Mbx) : Mbx :=
  if c.op = 1 then
    { m with reqSeqs := c.seq :: m.reqSeqs.filter fun q => (c.seq + 2 ^ 32 - q) % 2 ^ 32 < 65536 }
  else m

/-- Put a command before firmware, refused at once if a check refuses it. -/
def takeEntry (f : Nat) (c : Cmd) (s : State) : State :=
  let s := modMbx f (fun m => { noteSeq c m with cmds := m.cmds ++ [c] }) s
  match refuseDetail s f c with
  | none => s
  | some dt => endCmd f c 1 dt 0 (startCmd f c s)

/-- One read of the entry at H; after the last read that does not match, fetching ends with CMD_COMPLEMENT or
DOORBELL_AHEAD (R378). -/
def readEntry (f : Nat) (s : State) : State :=
  let s := ringXlat f (bits (mreg s f Reg.MBX_CMD_BASE) 46 0 + 64 * mbxH s f) 64 s
  let w := words8 (entryAt s f)
  let ok := complOk 64 (w 0) (w 7)
  let same : Bool := bits (w 0) 63 32 == mbxS s f
  if same && ok then takeEntry f (cmdOf s w) (passEntry f s)
  else if (mbxOf s f).reads < 8 then modMbx f (fun m => { m with reads := m.reads + 1 }) s
  else if same then
    let c : Cmd := { seq := mbxS s f, tag := w 1, started := true }
    endCmd f c 0x0D 0x0B_0001 0 (modMbx f (fun m => { m with cmds := m.cmds ++ [c] }) (passEntry f s))
  else
    let s := addDue { mbx := f, tag := 0, seq := mbxS s f, status := 0x08, detail := 0x0B_0005,
                      island := fwIsland s f, rlen := mbxH s f } s
    flagM f 3 (modMbx f (fun m => { m with target := none, reads := 0, ahead := true }) s)

/-- COMMAND_FETCH: the first read of the entry at H, once every earlier command has started (R378, R379). -/
def execCommandFetch (f : Nat) (hs : List (Nat × Byte)) (s : State) : Out :=
  if 20 ≤ f then .fault .noSuchUnit
  else
    let s := hostStores f hs s
    if wantsFetch s f && (mbxOf s f).reads == 0 && (mbxOf s f).cmds.all fun c => c.started then .next (readEntry f s)
    else .next s

/-- ENTRY_REREAD: one of the re-reads 1 to 8 (R378). -/
def execEntryReread (f : Nat) (hs : List (Nat × Byte)) (s : State) : Out :=
  if 20 ≤ f then .fault .noSuchUnit
  else
    let s := hostStores f hs s
    if wantsFetch s f && (mbxOf s f).reads != 0 then .next (readEntry f s) else .next s

/-- MBX_CTRL.ENABLE takes a value (R373, R542). -/
def setEnable (f : Nat) (en : Bool) (s : State) : State :=
  if !en then modMbx f (fun m => { m with target := none, reads := 0 }) (setMreg f Reg.MBX_CTRL 0 s)
  else if mbxEnabled s f then s
  else
    let m := mbxOf s f
    let s := setMreg f Reg.MBX_CMD_HEAD (bits (mreg s f Reg.MBX_CMD_CFG) 63 32 * 2 ^ 32) (setMreg f Reg.MBX_CTRL 1 s)
    let s := if m.newCpl then setMreg f Reg.MBX_CPL_HEAD 0 (setMreg f Reg.MBX_CPL_TAIL 0 s) else s
    let s := if m.newErr then setMreg f Reg.MBX_ERR_HEAD 0 (setMreg f Reg.MBX_ERR_TAIL 0 s) else s
    putLost f (modMbx f (fun m => { m with newCpl := false, newErr := false, gone := false, target := none, reads := 0, ahead := false }) s)

/-- MAILBOX_ENABLE: a write of MBX_CTRL.ENABLE. -/
def execMailboxEnable (f : Nat) (en : Bool) (s : State) : Out :=
  if 20 ≤ f then .fault .noSuchUnit
  else if !mbxExists s f || hostFrozen s f then .next s
  else .next (setEnable f en s)

/-! ### Commands with no state of their own -/

/-- CMD_NOP. -/
def execCmdNop (f : Nat) (s : State) : Out := cmdEvent f 0x00 (fun c s => endCmd f c 0 0 0 s) s

/-- CMD_PATH_FLUSH (R393, R394): the record itself carries FABRIC_VISIBLE. -/
def execCmdPathFlush (f : Nat) (s : State) : Out :=
  cmdEvent f 0x0B (fun c s => endCmd f { c with fvis := true } 0 0 0 s) s

/-- PT_TOKEN_CTRL.COMMIT stores the pair last written, or refuses it (R397). -/
def commitToken (p : Nat) (s : State) : State :=
  modPart p (fun q =>
    if complOk 64 q.tokW q.tokWN then { q with token := q.tokW, tokenN := q.tokWN } else { q with tokBad := true }) s

/-- TOKEN_COMMIT: a write of 1 to PT_TOKEN_CTRL.COMMIT. -/
def execTokenCommit (p : Nat) (s : State) : Out :=
  if 16 ≤ p then .fault .noSuchUnit
  else if !mbxExists s p || hostFrozen s p then .next s
  else .next (commitToken p s)

/-- RECLAIM_LOCKOUT_EXPIRY: 1 s after a failed CMD_RECLAIM the next one is examined (R398). -/
def execReclaimLockoutExpiry (p : Nat) (s : State) : Out :=
  if 16 ≤ p then .fault .noSuchUnit else .next (modPart p (fun q => { q with lockout := false }) s)

/-- An access of the VF to host memory is outstanding: a grant that a stream slot has made and not yet seen acknowledged, of a
descriptor that reads or writes there. -/
def hostOut (s : State) (port vf : Nat) : Bool :=
  (upto 16).any fun p => (part s p).st != .unbound && (part s p).port == port && (part s p).vf == vf &&
    (clustersOf s p).any fun c => (clu s c).slots.any fun x =>
      x.2.old != 0 || (!x.2.out.isEmpty && [1, 2].any fun i => decide (8 ≤ bits (x.2.words.getD i 0) 47 44))

/-- ATS_INVALIDATE: an Invalidate Request of the host for n pages of a VF: their entries leave the port's cache, and the request is
completed once the accesses that used them have completed (R369). -/
def execAtsInvalidate (port vf page n : Nat) (s : State) : Out :=
  if 4 ≤ port ∨ vf = 0 ∨ 16 < vf then .fault .noSuchUnit
  else
    let gone (x : Xlat) : Bool := x.port == port && x.vf == vf && decide (page ≤ x.page) && decide (x.page < page + n)
    let s := { s with atc := s.atc.filter fun x => !gone x }
    .next (if hostOut s port vf then s else { s with sent := s.sent ++ [(3, [port, vf, page, n])] })

end Sys2Proof.Machine
end

