-- ==== Sys2Proof/Machine/Requests.lean ====
section
/-!
DEFINITION. Requests (R335 to R349): admission and autotomy, the queue's order, lapses, dispatch to lanes, tasks sent
to clusters, how a request ends, how a task is stopped, and the freeze of a host function (Table 12.6).
-/
namespace Sys2Proof.Machine

/-! ### Requests and tasks -/

/-- The request table holds entry r. -/
def hasReq (s : State) (r : Nat) : Bool := s.reqs.any fun q => q.1 == r

/-- A task has ended, or was stopped, on every cluster that runs it. -/
def taskOver (t : Task) : Bool := t.clus.all fun c => mget .unsent t.st c == .ended || mget .unsent t.st c == .stopped

/-- A request's entry may be freed: its record is written and every task of it has ended everywhere (R335). -/
def reqFree (s : State) (r : Nat) (q : Req) : Bool :=
  q.st == .done && q.written && s.tasks.all fun t => t.2.req != r || taskOver t.2

/-- Free the entries that may be freed, and their tasks. -/
def gcReqs (s : State) : State :=
  let gone := (s.reqs.filter fun q => reqFree s q.1 q.2).map fun q => q.1
  { s with reqs := s.reqs.filter fun q => !gone.contains q.1
           tasks := s.tasks.filter fun t => !gone.contains t.2.req }

/-- Entries of a partition in use (R335). -/
def inUse (s : State) (p : Nat) : Nat := (s.reqs.filter fun q => q.2.part == p && !reqFree s q.1 q.2).length

/-- Requests of a partition that are queued, or in service. -/
def reqsIn (s : State) (p : Nat) (st : ReqSt) : List Nat :=
  (s.reqs.filter fun q => q.2.part == p && q.2.st == st).map fun q => q.1

/-- The control core's present cycle (R336). -/
def nowCycles (s : State) : Nat := 80 * s.now

/-- Deadline of a request with a budget, in control-core cycles (R336). -/
def deadline (q : Req) : Nat := 80 * q.t0 + q.budget

/-- The order of queued requests (R337); entries are numbered in admission order. -/
def precedes (a b : Nat × Req) : Bool :=
  if a.2.cls ≠ b.2.cls then decide (a.2.cls < b.2.cls)
  else if a.2.cls < 2 then
    if a.2.budget = 0 ∧ b.2.budget = 0 then decide (a.1 < b.1)
    else if a.2.budget = 0 then false
    else if b.2.budget = 0 then true
    else if deadline a.2 = deadline b.2 then decide (a.1 < b.1)
    else decide (deadline a.2 < deadline b.2)
  else decide (a.1 < b.1)

/-- Insert into a list kept in an order. -/
def insertBy {α : Type} (lt : α → α → Bool) (x : α) : List α → List α
  | [] => [x]
  | y :: r => if lt x y then x :: y :: r else y :: insertBy lt x r

/-- A list in an order. -/
def sortBy {α : Type} (lt : α → α → Bool) (l : List α) : List α := l.foldl (fun r x => insertBy lt x r) []

/-- The queued requests of a partition, the one to be dispatched first in front (R337). -/
def queueOf (s : State) (p : Nat) : List (Nat × Req) :=
  sortBy precedes (s.reqs.filter fun q => q.2.part == p && q.2.st == .queued)

/-! ### How a request ends (R349) -/

/-- The error record of a fault that firmware found in a request (R545). -/
def reqErr (s : State) (q : Req) (status detail : Nat) (w : Option (Nat × Nat)) : ErrInfo :=
  wordErr s status detail q.part (fwIsland s q.part) w q.tag q.seq

/-- Request r completes: its record is due, and the counts of R338 to R340 are kept. -/
def finishReq (r status detail island rlen : Nat) (s : State) : State :=
  let q := reqOf s r
  if !hasReq s r || q.st == .done then s
  else
    let late : Bool := q.st == .service && decide (q.budget ≠ 0) && decide (deadline q < nowCycles s)
    let s := modReq r (fun q => { q with st := .done, nextTask := q.ntask }) s
    let s := addDue { mbx := q.mbx, tag := q.tag, seq := q.seq, status := status, detail := detail, island := island,
                      rlen := rlen, fvis := q.fvis, noirq := q.noirq } s
    let s := bumpP q.part Reg.DSP_ADMIT 32 1 s
    let s := if status = 3 then bumpP q.part Reg.DSP_SHED 32 1 s else s
    if late then bumpP q.part Reg.DSP_LATE 0 1 s else s

/-- The request's tasks that have not started on a cluster are not started there (R349). -/
def dropUnstarted (r : Nat) (s : State) : State :=
  { s with tasks := mmap {} (fun _ t =>
      if t.req = r then
        { t with st := mmap .unsent (fun _ x => if x = .queued then .stopped else x)
                   (t.clus.foldl (fun m c => if mget .unsent m c = .unsent then mset .unsent m c .stopped else m) t.st) }
      else t) s.tasks }

/-- A fault, reset or freeze ends a request; firmware writes its record (R349). -/
def endReq (r status detail : Nat) (s : State) : State :=
  dropUnstarted r (finishReq r status detail (fwIsland s (reqOf s r).part) 0 s)

/-! ### How a task is stopped (R182, R197) -/

/-- Discard what the engines and slots of a cluster hold of a task (R182, R197, R325). -/
def dropWork (t : Nat) (q : Cluster) : Cluster :=
  let q := q.dropJobs t
  { q with
    qq := q.qq.filter fun j => j.task != some t
    qrun := q.qrun.bind fun r => if r.job.task = some t then none else some r
    sig := mmap none (fun _ x => match x with
      | some v => if v.2 = t then none else some v
      | none => none) q.sig
    slots := mmap {} (fun _ x => if x.list = some t then x.clear else x) q.slots
    starting := q.starting.filter fun x => x.task != t }

/-- Task t is stopped on cluster c: its cells and engines drop it and its tokens are freed (R182, R348). -/
def stopTaskOn (c t : Nat) (s : State) : State :=
  let s := (upto 32).foldl (fun s k => stopOnCell c k t s) s
  let s := dropGathers c t s
  let s := { s with batches := mmap {} (fun _ b => if b.kind = 2 ∧ b.clu = c ∧ b.item = t then { b with kind := 3 } else b)
                      s.batches }
  let s := modClu c (fun q => dropWork t
    { q with ujRun := match q.ujRun with
        | some id => if (batchOf s id).kind = 3 then none else some id
        | none => none }) s
  modTask t (fun v => { v with st := mset .unsent v.st c .stopped, tokens := mset 0 v.tokens c 0,
                               ovr := v.ovr.filter (· != c) }) s

/-- Task t is stopped on every cluster (R182): where it has not started, it is not started. -/
def stopTask (t : Nat) (s : State) : State :=
  let s := (taskOf s t).clus.foldl (fun s c =>
    match mget .unsent (taskOf s t).st c with
    | .running => stopTaskOn c t s
    | .ended => s
    | _ => modTask t (fun v => { v with st := mset .unsent v.st c .stopped }) s) s
  { s with pool := s.pool.filter fun q => q.task != t }

/-- On the report of an uncorrectable instruction word, firmware reloads the word by partial chorus of the partition's image
(R189). -/
def reloadWord (q : Report) (s : State) : State :=
  match q.src, (clu s q.clu).part with
  | some (k, _, pc), some p =>
    if q.detail ≠ 0x05_0006 then s
    else
      let segs := (part s p).image.filter fun g => decide (g.base ≤ pc) && decide (pc < g.base + g.words.length)
      { s with chorus := s.chorus ++ segs.map fun g => { clu := q.clu, cell := k, seg := g, fix := some pc } }
  | _, _ => s

/-- TASK_FAULT_STOP: the dispatcher takes the first fault report, ends the request with it and stops the task (R182,
R197, R349); after a CPL record the fault shows only in the error ring. -/
def execTaskFaultStop (s : State) : Out :=
  match s.reports with
  | [] => .next s
  | q :: rest =>
    let s := reloadWord q { s with reports := rest }
    .next (stopTask q.task (endReq (taskOf s q.task).req q.status q.detail s))

/-! ### Admission (R338) -/

/-- Status and detail of a read of a plan, task or list that failed (R345). -/
def readFail (detail : Nat) : Stop → Nat × Nat
  | .viol _ _ => (1, detail)
  | .fail st dt _ => (st, dt)
  | .unc _ _ _ => (9, detail)

/-- WAKE of R338. -/
def wakeTime (s : State) (p : Nat) : Nat :=
  if (clustersOf s p).any fun c => (clu s c).pw == .off then 2000
  else if (clustersOf s p).any fun c => (clu s c).pw == .brum then 40 else 0

/-- A partition map entry in use fails its complement (R408). -/
def mapFails (f : Nat) (c : Cmd) (s : State) : State :=
  dueCmd f c 0x0D 0x0C_000A 0
    (flagD Reg.PMAP_ERR 0 (fwRecord { cmdErr s f c 0x0D 0x0C_000A 0 with part := none, mgmtMbx := none } s))

/-- A request that firmware reads takes an entry, if the partition has one free, and holds it until its record is written, also
where it is not admitted (R335). -/
def takeReqEntry (f : Nat) (c : Cmd) (s : State) : State :=
  if (part s f).quota ≤ inUse s f then s
  else { s with reqs := mset {} s.reqs s.nextReq { st := .done, mbx := f, part := f, tag := c.tag, seq := c.seq }
                nextReq := s.nextReq + 1 }

/-- Firmware sheds a request at admission: no error record (R545). -/
def shed (f : Nat) (c : Cmd) (detail : Nat) (s : State) : State :=
  dueCmd f c 2 detail 0 (bumpP f Reg.DSP_SHED 0 1 (takeReqEntry f c s))

/-- Firmware decides on a request (R338). -/
def admitReq (f : Nat) (c : Cmd) (s : State) : State :=
  let s := gcReqs s
  let plan := bits (c.a 0) 7 0
  let out := takeReqEntry f c
  if (part s f).mapBad then mapFails f c (out s)
  else if preg s f Reg.DSP_PLAN_COUNT ≤ plan then endCmd f c 1 0x0A_0005 0 (out s)
  else match runEM (rd .fw f none (bits (preg s f Reg.DSP_PLAN_BASE) 47 0 + 16 * plan) 16) s with
    | .stop (.unc a mem pw) s => stopCmd f c 0x0A_0005 0 (.unc a mem pw) (out s)
    | .stop e s => endCmdAt f c (readFail 0x0A_0005 e).1 (readFail 0x0A_0005 e).2 0 e.word (out s)
    | .good l s =>
      let w := words8 l
      let svc := bits (w 1) 31 0
      let r : Req := {
        mbx := f, part := f, tag := c.tag, seq := c.seq, fvis := c.fvis, noirq := c.noirq, cls := bits (c.a 0) 9 8,
        plan := plan, arg := bits (c.a 1) 47 0, t0 := c.at0, budget := 2000 * bits (c.a 0) 63 32,
        ntask := bits (w 0) 55 48 + 1, tasksAt := bits (w 0) 47 0, svc := svc, lanes := bits (w 0) 62 56 + 1,
        lstride := bits (w 1) 63 32 }
      let sum (l : List (Nat × Req)) : Nat := (l.map fun q => q.2.svc).sum
      let q := sum (s.reqs.filter fun q => q.2.part == f && q.2.st == .service) +
        sum ((queueOf s f).filter fun q => precedes q (s.nextReq, r))
      if svc = 0 then endCmd f c 1 0x0A_0005 0 (out s)
      else if (part s f).quota ≤ inUse s f then shed f c 0x0A_0002 s
      else if preg s f Reg.DSP_QMAX ≤ (reqsIn s f .queued).length then shed f c 0x0A_0003 s
      else if r.budget ≠ 0 ∧ bits (c.a 0) 63 32 < cdiv q r.lanes + wakeTime s f + svc then shed f c 0x0A_0001 s
      else bumpP f Reg.DSP_ADMIT 0 1
        { s with reqs := mset {} s.reqs s.nextReq { r with dseq := 0 }, nextReq := s.nextReq + 1 }

/-- CMD_SUBMIT_REQUEST (R384). -/
def execCmdSubmitRequest (f : Nat) (s : State) : Out := cmdEvent f 0x01 (admitReq f) s

/-- A queued request has lapsed: its remaining budget is below its plan's SVC (R339). -/
def lapsed (s : State) (q : Req) : Bool := decide (q.budget ≠ 0) && decide (deadline q < nowCycles s + 2000 * q.svc)

/-- LAPSE_CHECK: firmware checks every queued request of a partition (R339). -/
def execLapseCheck (p : Nat) (s : State) : Out :=
  if 16 ≤ p then .fault .noSuchUnit
  else .next ((reqsIn s p .queued).foldl (fun s r =>
    if lapsed s (reqOf s r) then endReq r 3 0x0A_0004 s else s) s)

/-- CMD_CANCEL (R385, R341). -/
def execCmdCancel (f : Nat) (s : State) : Out :=
  cmdEvent f 0x11 (fun c s =>
    let q := bits (c.a 0) 31 0
    match s.reqs.find? fun r => r.2.mbx == f && r.2.seq == q && r.2.st == .queued with
    | some (r, _) => endCmd f c 0 0 0 (endReq r 0x0C 0x0B_000D s)
    | none => endCmd f c 1 (if (mbxOf s f).reqSeqs.contains q ∧ (c.seq + 2 ^ 32 - q) % 2 ^ 32 < 65536
        then 0x0B_000A else 0x0B_0009) 0 s) s

/-! ### Dispatch (R340, R344) -/

/-- Lanes of a plan that requests took at their dispatch and hold until their record is written (R344). -/
def lanesHeld (s : State) (p plan : Nat) : List Nat :=
  (s.reqs.filter fun q => q.2.part == p && q.2.plan == plan && !q.2.written).filterMap fun q => q.2.lane

/-- The lowest free lane of a request's plan. -/
def freeLane (s : State) (q : Req) : Option Nat :=
  (upto q.lanes).find? fun l => !(lanesHeld s q.part q.plan).contains l

/-- The first dispatchable request: one whose plan has a free lane and no earlier request that found none (R344). -/
def pickReq (s : State) : List Nat → List (Nat × Req) → Option (Nat × Nat)
  | _, [] => none
  | blocked, (r, q) :: rest =>
    if blocked.contains q.plan then pickReq s blocked rest
    else match freeLane s q with
      | some l => some (r, l)
      | none => pickReq s (q.plan :: blocked) rest

/-- REQUEST_DISPATCH: the last lapse check and the dispatch are one step (R340). -/
def execRequestDispatch (p : Nat) (s : State) : Out :=
  if 16 ≤ p then .fault .noSuchUnit
  else if (part s p).st ≠ .active ∨ (part s p).loading then .next s
  else
    let s := gcReqs s
    match pickReq s [] (queueOf s p) with
    | none => .next s
    | some (r, l) =>
      if lapsed s (reqOf s r) then .next (endReq r 3 0x0A_0004 s)
      else
        let n := (part s p).dseq
        .next (modPart p (fun q => { q with dseq := (n + 1) % 2 ^ 64 })
          (modReq r (fun q => { q with st := .service, lane := some l, dseq := n, tasksAt := q.tasksAt + l * q.lstride }) s))

/-! ### Sending a task (R345, R347) -/

/-- The predecessor condition of the next task (R345 WAITPREV). -/
def prevDone (s : State) (q : Req) (waitPrev : Bool) : Bool :=
  match q.tids.getLast? with
  | none => true
  | some t =>
    let v := taskOf s t
    if waitPrev then v.clus.all fun c => mget .unsent v.st c == .ended
    else v.clus.all fun c => mget .unsent v.st c == .running || mget .unsent v.st c == .ended

/-- Set bits of CMASK, ascending. -/
def maskBits (lo hi : Nat) : List Nat := (upto 96).filter fun n => if n < 64 then bitAt lo n else bitAt hi (n - 64)

/-- Word 0 of a task descriptor passes its complement (R345). -/
def taskCompl (w : Nat → Nat) : Bool := complOk 32 (bits (w 0) 31 0) (bits (w 0) 63 32)

/-- FORMAT, the reserved fields and DUR of a task descriptor (R345). -/
def taskForm (w : Nat → Nat) : Bool :=
  let z (i hi lo : Nat) : Bool := bits (w i) hi lo == 0
  bits (w 0) 3 0 == 1 && z 0 31 9 && z 1 31 27 && z 4 63 48 && z 6 63 32 && z 7 63 0 && !z 3 63 32

/-- A task descriptor's words, checked (Table 10.3); none is BAD_TASK. -/
def taskDesc (s : State) (r : Nat) (q : Req) (w : Nat → Nat) : Option Task :=
  let insts := maskBits (w 5) (bits (w 6) 31 0)
  let cl := insts.filterMap (instOf s q.part)
  let first := bits (w 1) 15 11
  let ncell := bits (w 1) 20 16 + 1
  let i := q.tids.length
  if !taskForm w then none
  else if insts.isEmpty ∨ cl.length ≠ insts.length ∨ cl.any (fun c => (clu s c).part != some q.part) then none
  else if cl.any fun c => decide ((clu s c).ncell < first + ncell) then none
  else if bitAt (w 0) 7 ≠ decide (i + 1 = q.ntask) then none
  else some {
    req := r, part := q.part, idx := i, nctx := bits (w 0) 5 4 + 1, waitPrev := bitAt (w 0) 6, last := bitAt (w 0) 7,
    xsteal := bitAt (w 0) 8, entry := bits (w 1) 10 0, cellFirst := first, ncell := ncell,
    minStep := bits (w 1) 26 21, arg := q.arg + bits (w 1) 63 32, flags := w 2, energy := bits (w 3) 31 0,
    dur := bits (w 3) 63 32, clist := bits (w 4) 47 0, clus := cl,
    st := cl.foldl (fun m c => mset .unsent m c .queued) [] }

/-- Tasks queued on a cluster (R347). -/
def queuedOn (s : State) (c : Nat) : List (Nat × Task) := s.tasks.filter fun t => mget .unsent t.2.st c == .queued

/-- A request ends by a fault that firmware or a dispatcher found in its tasks. -/
def taskFails (r status detail : Nat) (w : Option (Nat × Nat)) (s : State) : State :=
  let q := reqOf s r
  endReq r status detail (flagP q.part Reg.DSP_ERR 0 (fwRecord (reqErr s q status detail w) s))

/-- TASK_SEND: firmware sends the next task of a request in service to the dispatchers of its clusters (R347). -/
def execTaskSend (r : Nat) (s : State) : Out :=
  let q := reqOf s r
  if !hasReq s r || q.st != .service || decide (q.ntask ≤ q.nextTask) then .next s
  else
    let a := q.tasksAt + 64 * q.nextTask
    match runEM (rd .fw q.part none a 64) s with
    | .stop e s => .next (taskFails r (readFail 0x0A_0006 e).1 (readFail 0x0A_0006 e).2 e.word s)
    | .good l s1 =>
      let w := words8 l
      if !taskCompl w then .next (taskFails r 0x0D 0x0A_0007 (some (a, memOf a)) s1)
      else if !prevDone s q (bitAt (w 0) 6) then .next s
      else match taskDesc s1 r q w with
        | none => .next (taskFails r 1 0x0A_0006 none s1)
        | some t =>
          if t.clus.any fun c => decide (64 ≤ (queuedOn s1 c).length) then .next s
          else .next (modReq r (fun q => { q with nextTask := q.nextTask + 1, tids := q.tids ++ [s1.nextTask] })
            { s1 with tasks := mset {} s1.tasks s1.nextTask { t with daddr := a }, nextTask := s1.nextTask + 1 })

/-! ### Freezing a host function (Table 12.6) -/

/-- Every open command and request of a partition that has no record due completes with a status. -/
def endAll (p status detail : Nat) (s : State) : State :=
  let s := (s.reqs.filter fun q => q.2.part == p && q.2.st != .done).foldl (fun s q => endReq q.1 status detail s) s
  let s := (s.tasks.filter fun t => t.2.part == p).foldl (fun s t => stopTask t.1 s) s
  let s := { s with batches := mmap {} (fun _ b => if b.part = p ∧ b.kind = 0 then { b with kind := 3 } else b) s.batches }
  let isDue (s : State) (c : Cmd) : Bool := c.due || s.due.any fun d => d.mbx == p && d.seq == c.seq
  let s := ((mbxOf s p).cmds.filter fun c => !isDue s c).foldl (fun s c => dueCmd p { c with started := true } status detail 0 s) s
  modPart p (fun q => { q with hostBar := [], loading := false, load := none })
    (modMbx p (fun m => { m with cmds := m.cmds.map fun c => { c with started := true, due := true } })
      { s with ioSlots := s.ioSlots.filter fun x => x.2.mbx != p })

/-- Freeze the host function of a partition: its commands and requests end (Table 12.6). -/
def freezeHost (p kind addr : Nat) (s : State) : State :=
  if isFrozen s p (.host p) then freezeMark p (.host p) kind addr 0 (0, 0) s
  else endAll p 0x07 (masterId (.host p)) (freezeMark p (.host p) kind addr (coreIsland (dieOf s (part s p).port)) (0, 0) s)

end Sys2Proof.Machine
end

