-- ==== Sys2Proof/Machine/Banks.lean ====
section
/-!
DEFINITION. Owner registers and handovers (R274 to R279), the host window (R286, R287), CXL.mem (R371), staging
registers' drains (R284) and the background scrub (R293).
-/
namespace Sys2Proof.Machine

/-- A write of the partition's host to a register of its BAR0: discarded where no partition answers or its host is
frozen; an expert range needs expert level, and a write without it is reported as an Unsupported Request through AER, message
kind 16 (R389, Table 12.6). -/
def hostWrite (p : Nat) (expert : Bool) (f : State → State) (s : State) : State :=
  if !mbxExists s p then s
  else if expert && !bitAt (dreg s Reg.DEV_EXPERT) p then
    flagM p 5 { s with sent := s.sent ++ [(16, [p])] }
  else if hostFrozen s p then s
  else f s

/-! ### Owners -/

/-- Set a bank's owner, both halves together, once its staging register has drained (R278, R279). -/
def setOwner (c b code : Nat) (s : State) : State :=
  modBank c b (fun v => { v with code := code, codeN := compl 16 code, pending := none, giver := none, lost := [] })
    (drainBank c b s)

/-- OWNER_HANDOVER: a pending handover takes effect (R278). -/
def execOwnerHandover (c b : Nat) (s : State) : Out :=
  if 96 ≤ c ∨ 576 ≤ b then .fault .noSuchUnit
  else match (bankOf s c b).pending with
    | none => .next s
    | some code => .next (setOwner c b code s)

/-- The owners a cluster's banks take at a bind: NONE for the store, CELL c for the scratchpad banks of cell c (R414). -/
def bindOwners (c : Nat) (s : State) : State :=
  (upto 576).foldl (fun s b =>
    modBank c b (fun v =>
      let code := if b < 64 then 0 else ownCell ((b - 64) / 16)
      { v with code := code, codeN := compl 16 code, pending := none, giver := none, lost := [] }) s) s

/-- The cluster a selector names, if it names a bound one (Table 5.17). -/
def selClu (s : State) (p r : Nat) : Option Nat := instOf s p (bits (preg s p r) 6 0)

/-- What a register does with a write: it takes it; it refuses it; the write is a violation of a QUIET class; or it is
an ownership violation. -/
inductive WRes where
  | took (s : State)
  | refused (s : State)
  | quiet
  | owner (s : State)

/-- A write by a partition's host at an offset: a violation freezes the host function (R12, R277, R420). -/
def takeWrite (p off : Nat) (r : WRes) (s : State) : State :=
  match r with
  | .took s => s
  | .refused s => s
  | .quiet => freezeHost p 2 off s
  | .owner s => freezeHost p 1 off s

/-- A write of the owner register of bank b of the selected cluster: firmware (`fw`), in CMD_LOAD_MODEL, writes it whoever owns the
bank; the host only one of HOST_WINDOW or NONE (R276, R277, R279). -/
def ownerWrite (fw : Bool) (p b v : Nat) (s : State) : WRes :=
  match selClu s p Reg.BNK_SEL with
  | none => .took s
  | some c =>
    let code := bits v 15 0
    let kind := (bankOf s c b).code % 16
    if !complOk 16 code (bits v 31 16) then .refused (flagP p Reg.BNK_ERR 1 s)
    else if fw = false ∧ kind ≠ 0 ∧ kind ≠ 5 then .owner s
    else if !codeOk s c b code then .owner (flagP p Reg.BNK_ERR 0 s)
    else .took (startHandover c b code none s)

/-- BNK_OWNER_WRITE: the host writes the owner register of bank b of the cluster that BNK_SEL selects (R276, R277,
R279). -/
def execBnkOwnerWrite (p b v : Nat) (s : State) : Out :=
  if 16 ≤ p ∨ 576 ≤ b then .fault .noSuchUnit
  else .next (hostWrite p true (fun s => takeWrite p (Reg.BNK_SEL + 0x1000 + 8 * b) (ownerWrite false p b v s) s) s)

/-- A window base is aligned to the window's size (R286). -/
def winBaseWrite (p v : Nat) (s : State) : WRes :=
  let size := 2 ^ bits (dreg s (Reg.DEV_PORT_CFG + 8 * (part s p).port)) 13 8
  if bits v 47 0 % size = 0 then .took (setPreg p Reg.BNK_WIN_BASE (bits v 47 0) s)
  else .refused (flagP p Reg.BNK_ERR 2 s)

/-- BNK_WIN_BASE_WRITE (R286). -/
def execBnkWinBaseWrite (p v : Nat) (s : State) : Out :=
  if 16 ≤ p then .fault .noSuchUnit
  else .next (hostWrite p true (fun s => takeWrite p Reg.BNK_WIN_BASE (winBaseWrite p v s) s) s)

/-! ### Staging registers -/

/-- STAGING_DRAIN: in a cycle in which no access takes the port, the oldest entry of a bank drains, as a forced drain where two are
held; the second cycle of a 2-cycle access holds the port (R284). -/
def execStagingDrain (c b : Nat) (s : State) : Out :=
  if 96 ≤ c ∨ 576 ≤ b then .fault .noSuchUnit
  else
    let v := bankOf s c b
    if v.busy2 then .next (modBank c b (fun v => { v with busy2 := false }) s)
    else match v.staged with
      | [] => .next s
      | e :: r =>
        let s := if r.isEmpty then s else bumpC c Reg.BNK_COLLIDE 32 1 s
        .next (modBank c b (fun v => { v with staged := r }) (drainEntry e s))

/-! ### The host window -/

/-- Free bytes: what a read in a commit cycle returns (R285). -/
def freeBytes : Nat → State → List Byte × State
  | 0, s => ([], s)
  | n + 1, s =>
    let r := freeBytes n { s with fresh := s.fresh + 1 }
    (Config.freeByte s.fresh :: r.1, r.2)

/-- The cluster whose banks an address names and which sleeps. -/
def sleepsAt (s : State) (p a : Nat) : Option Nat :=
  if regionOf a = some 0 then
    match localLoc s p a with
    | some (c, _) => if awake s c then none else some c
    | none => none
  else none

/-- The bank of an observe read is the UPDATE domain's, and the read falls in the commit cycle of a staged word. -/
def commitHit (s : State) (p a : Nat) : Bool :=
  match localLoc s p a with
  | some (c, b) => (bankOf s c b).code == ownUpd && (bankOf s c b).staged.any fun e => e.word == wordKey (a % 2 ^ 37)
  | none => false

/-- A BUSY response to an observe read is latched (R287). -/
def winBusy (p a : Nat) (s : State) : State :=
  let s := match localLoc s p a with
    | some (c, _) => bumpC c Reg.BNK_BUSY_RESP 0 1 s
    | none => s
  let w := preg s p Reg.BNK_WIN_STATUS
  if bitAt w 0 then setPreg p Reg.BNK_WIN_STATUS (orBit w 1) s
  else setPreg p Reg.BNK_WIN_BUSY_ADDR (a % 2 ^ 48) (setPreg p Reg.BNK_WIN_STATUS (orBit w 0) s)

/-- What a Stop of a window access does: a violation freezes the host function; a bad word or owner register is recorded by the port
(R273, R279, R291). -/
def winStop (p : Nat) (e : Stop) (s : State) : State :=
  let port := (part s p).port
  match e with
  | .viol kind a => freezeHost p kind a s
  | .fail st dt a => capture (.hostPort port) (itemErr s st dt p (portIsland s 0x10 port) a 0 0) s
  | .unc a mem pw => capture (.hostPort port) (memErr s 9 (uncDetail 0 mem pw) p (portIsland s 0x10 port) a mem 0 0) s

/-- An access through BAR2 or CXL.mem at a partition address (R286, R287): answers 0 data, 2 no data. -/
def winAccess (q : WinAcc) (commit : Bool) (s : State) : State :=
  let p := q.part
  let obs : Bool := regionOf q.addr == some 0 && !q.write && bitAt (preg s p Reg.BNK_WIN_CTRL) 0 &&
    (match localLoc s p q.addr with | some (c, b) => (bankOf s c b).code != ownHost | none => false)
  if q.write then
    if hostFrozen s p then s
    else match runEM (wr (.host p) p none q.addr q.data) s with
      | .good _ s => s
      | .stop e s => winStop p e s
  else if obs && commit && commitHit s p q.addr then
    let r := freeBytes q.len s
    { winBusy p q.addr r.2 with ans := (0, r.1) }
  else match runEM (rd (if obs then .fw else .host p) p none q.addr q.len) s with
    | .good l s => { s with ans := (0, l) }
    | .stop (.viol kind a) s =>
      { (if hostFrozen s p then s else freezeHost p kind a s) with ans := (0, List.replicate q.len 0) }
    | .stop e s => { winStop p e s with ans := (2, []) }

/-- An access that names a sleeping cluster's bank wakes it and waits (R362). -/
def winOrWait (q : WinAcc) (commit : Bool) (s : State) : State :=
  match sleepsAt s q.part q.addr with
  | some c => modClu c (fun v => { v with wake := true }) { s with winQ := s.winQ ++ [q] }
  | none => winAccess q commit s

/-- Partition address of offset o of the window (R286). -/
def winAddr (s : State) (p o : Nat) : Nat :=
  if bitAt (dreg s Reg.DEV_EXPERT) p then (preg s p Reg.BNK_WIN_BASE + o) % 2 ^ 48 else (2 ^ 44 + o) % 2 ^ 48

/-- Size of the windows of a port (R368). -/
def winSize (s : State) (port : Nat) : Nat := 2 ^ bits (dreg s (Reg.DEV_PORT_CFG + 8 * port)) 13 8

/-- HOST_WINDOW_ACCESS: a read of `len` bytes or a write of `data` at offset o of BAR2; `commit` says that a read
falls in the commit cycle of its word (R286, R287). -/
def execHostWindowAccess (p o : Nat) (write : Bool) (data : List Byte) (len : Nat) (commit : Bool) (s : State) : Out :=
  if 16 ≤ p then .fault .noSuchUnit
  else if !mbxExists s p || decide (winSize s (part s p).port < o + max data.length len) then .next s
  else .next (winOrWait { part := p, addr := winAddr s p o, write := write, data := data, len := len } commit s)

/-- CXL_MEM_ACCESS: the same through segment `seg` of a port's HDM range; answers 3 for poison (R371). -/
def execCxlMemAccess (port seg o : Nat) (write : Bool) (data : List Byte) (len : Nat) (commit : Bool) (s : State) : Out :=
  if 4 ≤ port ∨ 16 ≤ seg then .fault .noSuchUnit
  else if !bitAt s.cxl port || !served s || decide (winSize s port < o + max data.length len) then .next s
  else if !mbxExists s seg || (part s seg).port != port then
    .next { bumpD Reg.DEV_CXL_UNMAPPED 0 1 s with ans := if write then s.ans else (3, []) }
  else .next (winOrWait { part := seg, addr := winAddr s seg o, write := write, data := data, len := len, cxl := true }
    commit s)

/-! ### Errors of stored words (R290 to R293) -/

/-- Cell and place of a key of a cell's own SRAM. -/
def sramCell (k : Nat) : Nat × Nat := (k / 2 ^ 20 % 2 ^ 20 / 32, k / 2 ^ 20 % 32)

/-- Kind of a key of a cell's own SRAM. -/
def sramKind (k : Nat) : Nat := (k - 2 ^ 53) / 2 ^ 40

/-- Words of a kind in a cell's own SRAM. -/
def sramWords (v : Cell) (kind : Nat) : Nat :=
  if kind = 0 then 2048 else if kind ≤ 2 then 1024 else if kind = 3 then v.opened.length else if kind = 4 then v.rq.length else 0

/-- A key names a word that the device holds, or a line of an expander: a bank's word, an HBM line of a stack, a bulk line, a
word of a cell's own SRAM. -/
def keyExists (s : State) (k : Nat) : Bool :=
  if k < 2 ^ 37 then
    decide (bits k 36 30 < 96) && (if bitAt k 29 then bits k 23 20 == 0 else bits k 28 24 == 0)
  else if k < 2 ^ 50 then false
  else if k < 2 ^ 51 then decide ((k - 2 ^ 50) / 2 ^ 31 < 32 * nStacks s)
  else if k < 2 ^ 52 then decide ((k - 2 ^ 51) / 2 ^ 41 < 4)
  else if k < 2 ^ 53 then false
  else
    decide ((sramCell k).1 < 96) && decide (k % 2 ^ 20 < sramWords (cellOf s (sramCell k).1 (sramCell k).2) (sramKind k))

/-- The error a word of a cell's own SRAM holds: 1 correctable, 2 uncorrectable. -/
def sramLevel (v : Cell) (kind i : Nat) : Nat :=
  match kind with
  | 0 => mget 0 v.pmEcc i
  | 1 => (mget {} v.slots i).ecc
  | 2 => mget 0 v.accEcc i
  | 3 => (v.opened[i]?.map fun o => o.ecc).getD 0
  | _ => (v.rq[i]?.map fun b => b.ecc).getD 0

/-- Change element i of a list. -/
def modNth {α : Type} (f : α → α) (i : Nat) (l : List α) : List α :=
  match l[i]? with
  | some x => l.set i (f x)
  | none => l

/-- Set that error. -/
def setSram (kind i n : Nat) (v : Cell) : Cell :=
  match kind with
  | 0 => { v with pmEcc := mset 0 v.pmEcc i n }
  | 1 => { v with slots := mset {} v.slots i { mget {} v.slots i with ecc := n } }
  | 2 => { v with accEcc := mset 0 v.accEcc i n }
  | 3 => { v with opened := modNth (fun o => { o with ecc := n }) i v.opened }
  | _ => { v with rq := modNth (fun b => { b with ecc := n }) i v.rq }

/-- What a word of a cell's own SRAM may hold after an error that its code did not find: free values. -/
def spoilSram (kind i u : Nat) (v : Cell) : Cell :=
  let int (w : Nat) (n : Int) : Int := sext w ((toBits w n + u) % 2 ^ w)
  match kind with
  | 0 => { v with pm := mset 0 v.pm i (BitVec.ofNat 64 u) }
  | 1 => { v with slots := mset {} v.slots i { mget {} v.slots i with t := (mget {} v.slots i).t.map (int 16) } }
  | 2 => { v with acc := mset 0 v.acc i (sext 48 (u % 2 ^ 48)) }
  | 3 => { v with opened := modNth (fun o => { o with rows := mmap [] (fun _ l => l.map (int 48)) o.rows }) i v.opened }
  | _ => { v with rq := modNth (fun b => { b with wbase := u % 2 ^ 48 }) i v.rq }

/-- The error that the word of a key holds. -/
def errLevel (s : State) (k : Nat) : Nat :=
  if k < 2 ^ 53 then mget 0 s.ecc (wordKey k)
  else sramLevel (cellOf s (sramCell k).1 (sramCell k).2) (sramKind k) (k % 2 ^ 20)

/-- Set it. -/
def setLevel (k n : Nat) (s : State) : State :=
  if k < 2 ^ 53 then { s with ecc := mset 0 s.ecc (wordKey k) n }
  else modCell (sramCell k).1 (sramCell k).2 (setSram (sramKind k) (k % 2 ^ 20) n) s

/-- An error in three bytes or more that the code did not find has changed the word: what it holds is free (R290). -/
def spoil (k : Nat) (s : State) : State :=
  if k < 2 ^ 53 then
    let r := freeBytes (wordSize k) s
    pokes (wordKey k) r.1 r.2
  else
    let r := takeFree s
    modCell (sramCell k).1 (sramCell k).2 (spoilSram (sramKind k) (k % 2 ^ 20) r.1) r.2

/-- n more bytes of a word go bad: one in all is correctable and two are not; for three or more the device promises neither
correction nor detection, and a free value says which it makes of them (R290). An expander's line becomes poisoned (R292). -/
def strike (k n : Nat) (s : State) : State :=
  let m := errLevel s k + n
  if n = 0 then s
  else if memKind k = 2 then setLevel k 2 s
  else if m ≤ 2 then setLevel k m s
  else
    let r := takeFree s
    if r.1 % 3 = 0 then setLevel k 2 r.2 else setLevel k (r.1 % 3 - 1) (spoil k r.2)

/-- Unit that holds a word, for its latch: a cell, a cluster store or an HBM stack. -/
def unitOfKey (k : Nat) : UnitId :=
  if 2 ^ 53 ≤ k then .cell (sramCell k).1 (sramCell k).2
  else if k < 2 ^ 37 then (if bitAt k 29 then .cell (bits k 36 30) (bits k 28 24) else .store (bits k 36 30))
  else .hbm ((k - 2 ^ 50) / 2 ^ 31 / 32)

/-- AUX of a memory word's record, by its key (Table 15.3). -/
def keyAux (s : State) (k : Nat) : Nat :=
  if 2 ^ 53 ≤ k then cellIsland s (sramCell k).1 (sramCell k).2
  else if k < 2 ^ 37 then memAux s 0 k
  else
    let ch := (k - 2 ^ 50) / 2 ^ 31
    hbmIsland s ch + ch * 2 ^ 16

/-- Partition whose extents hold a word of an HBM channel. -/
def partOfHbm (s : State) (k : Nat) : Option Nat :=
  let ch := (k - 2 ^ 50) / 2 ^ 31
  let u := k % 2 ^ 31 / 2 ^ 26
  (upto 16).find? fun p => (part s p).hbm.any fun e =>
    decide (e.first ≤ ch) && decide (ch < e.first + e.n) && decide (e.lo ≤ u) && decide (u < e.hi)

/-- A word read with one byte in error is corrected, written back and counted (R291). -/
def scrubFix (k : Nat) (s : State) : State :=
  if 2 ^ 53 ≤ k then
    let s := sramCorr (sramCell k).1 (setLevel k 0 s)
    if sramKind k = 0 then modCell (sramCell k).1 (sramCell k).2 (fun v => { v with err := mset false v.err 2 true }) s else s
  else
    let w := wordKey k
    let p := if w < 2 ^ 37 then 0 else (partOfHbm s w).getD 16
    if p < 16 then countCorr p w s else { s with ecc := merase s.ecc w, ceLog := s.ceLog ++ [(w, s.now)] }

/-- An uncorrectable word found by scrubbing: recorded with its place, and no item's (R293). -/
def scrubBad (k : Nat) (s : State) : State :=
  capture (unitOfKey k)
    { sev := 3, cls := 0, island := keyAux s k % 2 ^ 16, cycles := recCycles s (keyAux s k % 2 ^ 16),
      subject := memKind k * 2 ^ 48, aux := keyAux s k }
    { s with ueLog := s.ueLog ++ [(if 2 ^ 53 ≤ k then k else wordKey k, s.now)] }

/-- BACKGROUND_SCRUB: the scrub reads the word of a key, in which `found` more bytes have gone bad, and corrects or records it; after
it `struck` bytes of the word go bad. An expander's line is not scrubbed, and only takes `struck` (R290 to R293; log 78). -/
def execBackgroundScrub (k found struck : Nat) (s : State) : Out :=
  if ¬ (k < 2 ^ 37 ∨ (2 ^ 50 ≤ k ∧ k < 2 ^ 52) ∨ 2 ^ 53 ≤ k) then .fault .noSuchUnit
  else if !keyExists s k then .next s
  else if memKind k = 2 then .next (strike k struck s)
  else
    let s := strike k found s
    let s := if errLevel s k = 0 then s else if errLevel s k = 1 then scrubFix k s else scrubBad k s
    .next (strike k struck s)

end Sys2Proof.Machine
end

