-- ==== Sys2Proof/Machine/Streams.lean ====
section
/-!
DEFINITION. Cluster stream engines (chapter 9): descriptors and their checks, addressing, lists and clutches, grants,
retirement, arming, mapping faults and resumable halts.
-/
namespace Sys2Proof.Machine

/-- Slot i of engine e of cluster c. -/
def slotOf (s : State) (c e i : Nat) : Slot := mget {} (clu s c).slots (8 * e + i)

/-- Change a slot. -/
def modSlot (c e i : Nat) (f : Slot → Slot) (s : State) : State :=
  modClu c (fun q => { q with slots := mset {} q.slots (8 * e + i) (f (mget {} q.slots (8 * e + i))) }) s

/-- STR register of engine e. -/
def strReg (e o : Nat) : Nat := o + 0x200 * e

/-- The partition a slot works for. -/
def slotPart (s : State) (c e i : Nat) : Nat :=
  match (slotOf s c e i).list with
  | some t => (taskOf s t).part
  | none => cluPart s c

/-- The slots of an engine exist. -/
def slotOk (c e i : Nat) : Bool := decide (c < 96) && decide (e < 2) && decide (i < 8)

/-! ### Descriptor fields (Tables 9.3, 9.4) -/

/-- Word i of a descriptor. -/
def dw (w : List Nat) (i : Nat) : Nat := w.getD i 0

def xKind (w : List Nat) : Nat := bits (dw w 0) 2 0
def xSrcFmt (w : List Nat) : Option Fmt := fmtOf (bits (dw w 0) 6 3)
def xDstFmt (w : List Nat) : Option Fmt := fmtOf (bits (dw w 0) 31 28)
/-- Bits of a source element, and of a destination element. -/
def xSrcW (w : List Nat) : Nat := ((xSrcFmt w).map fmtBits).getD 8
def xDstW (w : List Nat) : Nat := ((xDstFmt w).map fmtBits).getD 8
def xSide (w : List Nat) : Bool := bitAt (dw w 0) 7
def xResumable (w : List Nat) : Bool := bitAt (dw w 0) 8
def xFixed (w : List Nat) : Bool := bitAt (dw w 0) 9
def xCpl (w : List Nat) : Bool := bitAt (dw w 0) 18
def xAct (w : List Nat) : Nat := bits (dw w 0) 27 19
def xSrc (w : List Nat) : Nat := bits (dw w 1) 47 0
def xRate (w : List Nat) : Nat := bits (dw w 1) 63 48
def xDst (w : List Nat) : Nat := bits (dw w 2) 47 0
def xGive (w : List Nat) : Nat := bits (dw w 2) 63 48

/-- COUNT of a dimension. -/
def xCount (w : List Nat) (i : Nat) : Nat :=
  if i < 4 then bits (dw w 3) (16 * i + 15) (16 * i) + 1 else bits (dw w 4) 15 0 + 1

/-- Signed byte stride of a dimension. -/
def xStride (w : List Nat) (i : Nat) : Int := sext 32 (bits (dw w (5 + i / 2)) (32 * (i % 2) + 31) (32 * (i % 2)))

/-- The number of elements (R304). -/
def xN (w : List Nat) : Nat := xCount w 0 * xCount w 1 * xCount w 2 * xCount w 3 * xCount w 4

/-- Width of the pattern side's elements, and of the contiguous side's. -/
def xPatW (w : List Nat) : Nat := if xSide w then xDstW w else xSrcW w
def xConW (w : List Nat) : Nat := if xSide w then xSrcW w else xDstW w

/-- Bit offset of element n on the pattern side (R304). -/
def patOff (w : List Nat) (n : Nat) : Int :=
  let c := xCount w
  let n1 := n / c 0
  let n2 := n1 / c 1
  let n3 := n2 / c 2
  let i0 : Int := Int.ofNat (n % c 0)
  let d0 : Int := if xStride w 0 = 0 then i0 * xPatW w else 8 * (i0 * xStride w 0)
  8 * (Int.ofNat (n1 % c 1) * xStride w 1 + Int.ofNat (n2 % c 2) * xStride w 2 +
    Int.ofNat (n3 % c 3) * xStride w 3 + Int.ofNat (n3 / c 3) * xStride w 4) + d0

/-- First bit of element n of the source, or of the destination. -/
def elemBit (w : List Nat) (dst : Bool) (n : Nat) : Int :=
  8 * Int.ofNat (if dst then xDst w else xSrc w) +
    if xSide w == dst then patOff w n else Int.ofNat (n * if dst then xDstW w else xSrcW w)

/-- Byte address of element n. -/
def elemAddr (w : List Nat) (dst : Bool) (n : Nat) : Nat := (elemBit w dst n / 8 % 2 ^ 48).toNat

/-- Bytes of the first n elements of the destination; all of them take the padding of R50. -/
def dstBytes (w : List Nat) (n : Nat) : Nat :=
  if n < xN w then n * xDstW w / 8
  else match xDstFmt w with
    | some f => packedBytes f (xN w)
    | none => 0

/-! ### Checks (R303 to R306) -/

/-- ACT names a domain the engine may act for (R306). -/
def actOk (s : State) (c e act : Nat) : Bool :=
  let unit := act / 16
  match act % 16 with
  | 0 => act == 0
  | 1 => decide (unit < (clu s c).ncell)
  | 2 => unit == e
  | 3 => unit == 0
  | 4 => unit == 0
  | _ => false

/-- A pair of tags R305 permits. -/
def tagsOk (w : List Nat) : Bool :=
  match xSrcFmt w, xDstFmt w with
  | some f, some g => f == g || (f == .fp32 && (g == .bf16 || g == .fp16))
  | _, _ => false

/-- Least and greatest byte address of a side. -/
def sideSpan (w : List Nat) (dst : Bool) : Int × Int :=
  let base : Int := Int.ofNat (if dst then xDst w else xSrc w)
  if xSide w == dst then
    let ext (i : Nat) : Int :=
      let n := Int.ofNat (xCount w i - 1)
      if i = 0 ∧ xStride w 0 = 0 then n * xPatW w / 8 else n * xStride w i
    ((upto 5).foldl (fun (r : Int × Int) i => (r.1 + min 0 (ext i), r.2 + max 0 (ext i))) (base, base))
  else (base, base + Int.ofNat ((xN w * xConW w - 1) / 8))

/-- A side stays in the local and HBM regions (R306 FIXED): no element step reaches 2^44, so a side misses the bulk and host
regions exactly when its span does. -/
def fixedSide (w : List Nat) (dst : Bool) : Bool :=
  let r := sideSpan w dst
  let meets (lo hi : Int) : Bool := decide (r.1 < hi) && decide (lo ≤ r.2)
  !meets (2 ^ 45) (3 * 2 ^ 44) && !meets (2 ^ 47) (2 ^ 48)

/-- Checks of a transfer descriptor before its first access: the detail of its fault (R303 to R306, R314). -/
def xferFault (s : State) (c e : Nat) (w : List Nat) : Option Nat :=
  let cnt := xCount w
  let pw := xPatW w
  let big (i : Nat) : Bool := decide (1 < cnt i)
  if !tagsOk w then some 0x09_0003
  else if bits (dw w 4) 63 48 ≠ 0 ∨ bits (dw w 7) 63 32 ≠ 0 ∨ !actOk s c e (xAct w) ∨ 8 * 2 ^ 40 < xN w * xConW w then
    some 0x09_0002
  else if xFixed w ∧ (xRate w = 0 ∨ xResumable w ∨ !fixedSide w false ∨ !fixedSide w true) then some 0x09_0002
  else if pw < 8 then
    if xStride w 0 ≠ 0 ∨ ((big 1 || big 2 || big 3 || big 4) ∧ cnt 0 * pw % 8 ≠ 0) ∨ (pw = 3 ∧ cnt 0 % 8 ≠ 0) then
      some 0x09_0003
    else none
  else
    let ps := pw / 8
    let pat := if xSide w then xDst w else xSrc w
    let con := if xSide w then xSrc w else xDst w
    let off (i : Nat) : Bool := xStride w i % ps != 0
    if pat % ps ≠ 0 ∨ con % (xConW w / 8) ≠ 0 ∨ off 0 ∨ (upto 5).any (fun i => big i && off i) then some 0x09_0004
    else none

/-- Words 1 to 7 of a marker are clear but for a mask of word 1, and its control word uses KIND only (R303). -/
def markerClean (w : List Nat) (mask1 : Nat) : Bool :=
  bits (dw w 0) 31 3 == 0 && Nat.land (dw w 1) (compl 64 mask1) == 0 && (w.drop 2).all fun x => x == 0

/-! ### Faults and freezes -/

/-- Tasks that have a list on an engine of a cluster, or wait to start one there. -/
def listTasks (q : Cluster) (e : Nat) : List Nat :=
  ((upto 8).filterMap (fun i => (mget {} q.slots (8 * e + i)).list) ++
    (q.starting.toList.filter fun x => x.lists.any fun l => l.1 == e).map fun x => x.task).eraseDups

/-- Freeze a stream engine: its slots are emptied and every task with a list on it stops (Table 12.6). -/
def freezeStr (p c e kind addr : Nat) (s : State) : State :=
  if isFrozen s p (.str c e) then freezeMark p (.str c e) kind addr 0 (0, 0) s
  else
    let ts := listTasks (clu s c) e
    let id := (ts.head?.map fun t => taskTag s t).getD (0, 0)
    let s := freezeMark p (.str c e) kind addr (cmpIsland s c) id s
    let s := (upto 8).foldl (fun s i => modSlot c e i Slot.clear s) s
    ts.foldl (fun s t => report t 0x07 (masterId (.str c e)) c s) s

/-- STR_FAULT and STR_ERR.FAULT after a fault of slot i, or of the loader channel as i = 8 (Table 9.13). -/
def latchStr (c e i status detail : Nat) (s : State) : State :=
  let o := strReg e Reg.STR_FAULT
  let v := creg s c o
  let hard (n : Nat) : Bool := n == 0x09 || n == 0x0D
  let fresh := detail % 2 ^ 24 + i * 2 ^ 24 + status * 2 ^ 40 + 2 ^ 48
  let s := if !bitAt v 48 then setCreg c o (fresh + bits v 63 56 * 2 ^ 56) s
    else
      let ovf := satAdd 8 (bits v 63 56) 1
      setCreg c o ((if hard status && !hard (bits v 47 40) then fresh else bits v 55 0) + ovf * 2 ^ 56) s
  flagC c (strReg e Reg.STR_ERR) 0 s

/-- A fault of a slot's work; `mem` is the address and memory of an uncorrectable word, `acc` the address of another access that
faulted (R319, R333). -/
def strFaultAt (c e i status detail : Nat) (mem : Option (Nat × Nat)) (acc : Option Nat) (s : State) : State :=
  let x := slotOf s c e i
  let p := slotPart s c e i
  let isl := cmpIsland s c
  let s := modSlot c e i Slot.clear (latchStr c e i status detail s)
  let armed : Bool := x.armed || x.list.isNone
  if armed then
    let subj := match mem, acc with
      | some (a, m), _ => a % 2 ^ 48 + m * 2 ^ 48
      | none, some a => a % 2 ^ 48 + (if regionOf a = some 1 then 1 else if regionOf a = some 2 then 2 else 0) * 2 ^ 48
      | none, none => xDst x.words
    fwRecord { sev := if status = 0x09 ∨ status = 0x0D then 3 else 2, cls := 0, detail := detail, part := some p,
               island := isl, cycles := recCycles s isl, subject := subj,
               aux := isl + (8 * e + i) * 2 ^ 16 } s
  else
    let t := x.list.getD 0
    let ts := taskTag s t
    let err := wordErr s status detail p isl mem ts.1 ts.2
    report t status detail c (capture (.strEng c e) err s)

/-- A fault that concerns no memory word. -/
def strFault (c e i status detail : Nat) (s : State) : State := strFaultAt c e i status detail none none s

/-- A fault of an access that no memory word caused: a page, a withdrawn range or a refused read. -/
def strAccFault (c e i status detail a : Nat) (s : State) : State := strFaultAt c e i status detail none (some a) s

/-- What a Stop does to a slot (R273, R291, R333). -/
def strStop (c e i : Nat) (x : Stop) (s : State) : State :=
  match x with
  | .viol kind a => freezeStr (slotPart s c e i) c e kind a s
  | .fail st dt _ => strFaultAt c e i st dt x.word none s
  | .unc a mem pw => strFaultAt c e i 0x09 (uncDetail 0x09_000A mem pw) (some (a, mem)) none s

/-- A mapping fault: an abort, or a halt that waits for the outstanding accesses (R321, R322). -/
def mapFault (c e i addr cause : Nat) (write : Bool) (s : State) : State :=
  let x := slotOf s c e i
  if xResumable x.words && !x.words.isEmpty then modSlot c e i (fun x => { x with fault := some (addr, cause, write) }) s
  else strAccFault c e i 0x04 (if cause = 1 then 0x09_0006 else 0x09_0007) addr s

/-! ### Activation -/

/-- A slot with no active descriptor and no list. -/
def Slot.idle (x : Slot) : Bool := x.list.isNone && x.words.isEmpty && x.st == 0

/-- The engine is a frozen master of its partition. -/
def strFrozen (s : State) (c e : Nat) : Bool := isFrozen s (cluPart s c) (.str c e)

/-- A descriptor becomes active: it takes the LIVE fields as they stand, and is checked as R303 to R306 give (R15, R311,
R319). -/
def activate (c e i : Nat) (armed : Bool) (a : Nat) (w : List Nat) (s : State) : State :=
  let lead := bits (creg s c (strReg e Reg.STR_LEAD)) 31 0
  let limit := clampN 1 255 (bits (preg s (slotPart s c e i) Reg.STR_HALT_LIMIT) 7 0)
  let s := modSlot c e i (fun x => { x with words := w, daddr := a, armed := armed, st := 1, elem := 0, fault := none,
                                              streak := 0, lastElem := 0, lead := lead, limit := limit }) s
  if !complOk 32 (bits (dw w 0) 31 0) (bits (dw w 0) 63 32) then
    strFaultAt c e i 0x0D 0x09_0001 (if armed then none else some (a, memOf a)) none s
  else if xKind w = 0 then
    if armed && xCpl w then strFault c e i 0x01 0x09_0002 s
    else match xferFault s c e w with
      | some d => strFault c e i 0x01 d s
      | none =>
        let tc := if xFixed w then (clu s c).epochCyc + bits (dw w 4) 47 16 else cmpCycles s c
        modSlot c e i (fun x => { x with tc := tc }) s
  else if xKind w = 1 then
    if markerClean w (2 ^ 38 - 1) then modSlot c e i (fun x => { x with st := 2 }) s
    else strFault c e i 0x01 0x09_0002 s
  else strFault c e i 0x01 0x09_0002 s

/-- A descriptor has retired: the shadow, or the next of the list, may become active (R316). -/
def retired (c e i : Nat) (s : State) : State :=
  let s := bumpC c (strReg e Reg.STR_DESC) 32 1 s
  let x := slotOf s c e i
  let s := modSlot c e i (fun x => { x with retired := (x.retired + 1) % 2 ^ 32, words := [], daddr := 0, armed := false,
                                              shadow := none, elem := 0, out := [], old := x.old + x.out.length, st := if x.list.isNone then 0 else 1 }) s
  match x.shadow with
  | some w => activate c e i true 0 w s
  | none => s

/-- The descriptor at the head of a list slot's buffer, if it may become active. -/
def slotHead (s : State) (c e i : Nat) : Option (Nat × List Nat) :=
  let x := slotOf s c e i
  if x.list.isNone || !x.words.isEmpty || x.st != 1 || strFrozen s c e || !awake s c then none else x.buf.head?

/-- An event of a list slot: its next descriptor passes `sel`; the state then has it taken off the buffer. -/
def headEvent (c e i : Nat) (sel : List Nat → Bool) (f : Nat → List Nat → State → State) (s : State) : Out :=
  if !slotOk c e i then .fault .noSuchUnit
  else match slotHead s c e i with
    | none => .next s
    | some (a, w) =>
      if sel w then .next (f a w (modSlot c e i (fun x => { x with buf := x.buf.drop 1 }) s)) else .next s

/-- A descriptor's control word passes its complement, and KIND is k. -/
def isKind (k : Nat) (w : List Nat) : Bool := complOk 32 (bits (dw w 0) 31 0) (bits (dw w 0) 63 32) && xKind w == k

/-! ### Lists and clutches (R308 to R311) -/

/-- A task's list starts in its slot (R308). -/
def startList (c e i t a : Nat) (s : State) : State :=
  modSlot c e i (fun x => { x.clear with list := some t, next := a, st := 1 }) s

/-- The descriptors a clutch keeps: up to the first marker, LINK or END, or one that fails its complement (R310). -/
def keepClutch : Nat → Nat → List Byte → List (Nat × List Nat)
  | 0, _, _ => []
  | n + 1, a, l =>
    let w := (upto 8).map (words8 (l.take 64))
    if isKind 0 w then (a, w) :: keepClutch n (a + 64) (l.drop 64) else [(a, w)]

/-- CLUTCH_FETCH: a slot reads its next clutch, and its buffer of 16 keeps what it has room for; the host has stored `hs`
(R309, R310). A clutch that an expander does not serve is a mapping fault that no descriptor can halt for (R320). -/
def execClutchFetch (c e i : Nat) (hs : List (Nat × Byte)) (s : State) : Out :=
  if !slotOk c e i then .fault .noSuchUnit
  else
    let s := hostStores (cluPart s c) hs s
    let x := slotOf s c e i
    let p := slotPart s c e i
    let hungry : Bool := x.st == 1 && decide (x.buf.length < 4) && x.buf.all (fun q => isKind 0 q.2) && x.fault.isNone
    if x.list.isNone || !hungry || strFrozen s c e || !awake s c then .next s
    else if x.next % 64 ≠ 0 then
      if x.buf.isEmpty && x.words.isEmpty then .next (strFault c e i 0x01 0x09_0004 s) else .next s
    else if bulkDown s p x.next then .next (strAccFault c e i 0x04 0x09_0007 x.next s)
    else
      let n := (1024 - x.next % 1024) / 64
      match runEM (rd (.str c e) p none x.next (64 * n)) (bumpC c (strReg e Reg.STR_DESC) 0 1 s) with
      | .stop y s => .next (strStop c e i y s)
      | .good l s =>
        let ks := (keepClutch n x.next l).take (16 - x.buf.length)
        .next (modSlot c e i (fun x => { x with buf := x.buf ++ ks, next := (x.next + 64 * ks.length) % 2 ^ 48 }) s)

/-- STREAM_XFER: a transfer descriptor becomes active and is checked; so does one whose kind cannot be read or is
reserved (R303 to R306). -/
def execStreamXfer (c e i : Nat) (s : State) : Out :=
  headEvent c e i (fun w => isKind 0 w || !complOk 32 (bits (dw w 0) 31 0) (bits (dw w 0) 63 32) || decide (4 < xKind w))
    (fun a w s => activate c e i false a w s) s

/-- STREAM_WAIT (R311). -/
def execStreamWait (c e i : Nat) (s : State) : Out :=
  headEvent c e i (isKind 1) (fun a w s => activate c e i false a w s) s

/-- STREAM_WAIT_PASS: the flag meets the WAITF condition and the slot goes on (R179, R311). -/
def execStreamWaitPass (c e i : Nat) (s : State) : Out :=
  if !slotOk c e i then .fault .noSuchUnit
  else
    let x := slotOf s c e i
    let w1 := dw x.words 1
    .next (if x.st == 2 && !strFrozen s c e && awake s c && flagMet (flagOf s c (bits w1 37 32)) (bits w1 31 0)
      then retired c e i s else s)

/-- STREAM_BARRIER: the slot arrives at the partition barrier (R326). -/
def execStreamBarrier (c e i : Nat) (s : State) : Out :=
  headEvent c e i (isKind 2) (fun a w s =>
    let s := modSlot c e i (fun x => { x with words := w, daddr := a, st := 3 }) s
    if markerClean w 0 then modPart (slotPart s c e i) (fun q => { q with arrivals := true }) s
    else strFault c e i 0x01 0x09_0002 s) s

/-- STREAM_LINK: it takes effect once it is read, and the next clutch is read at NEXT (R311). -/
def execStreamLink (c e i : Nat) (s : State) : Out :=
  if !slotOk c e i then .fault .noSuchUnit
  else
    let x := slotOf s c e i
    match x.buf.getLast? with
    | none => .next s
    | some (_, w) =>
      let next := bits (dw w 1) 47 0
      if !isKind 3 w || x.list.isNone || strFrozen s c e || !awake s c then .next s
      else if markerClean w (2 ^ 48 - 1) && next % 64 == 0 then
        .next (modSlot c e i (fun x => { x with buf := x.buf.dropLast, next := next }) s)
      else if (slotHead s c e i).isSome && x.buf.length == 1 then
        .next (strFault c e i 0x01 (if markerClean w (2 ^ 48 - 1) then 0x09_0004 else 0x09_0002) s)
      else .next s

/-- STREAM_END: the list ends and the slot becomes idle (R311). -/
def execStreamEnd (c e i : Nat) (s : State) : Out :=
  headEvent c e i (isKind 4) (fun a w s =>
    if markerClean w 0 then
      retired c e i (modSlot c e i (fun x => { x with list := none, buf := [], next := 0 }) s)
    else strFault c e i 0x01 0x09_0002 (modSlot c e i (fun x => { x with words := w, daddr := a }) s)) s

/-! ### Moving elements (R300, R304, R307) -/

/-- Aligned 128-byte blocks of the first and the last byte of an element. -/
def elemBlocks (w : List Nat) (dst : Bool) (n : Nat) : Int × Int :=
  let b := elemBit w dst n
  (b / 1024, (b + Int.ofNat (if dst then xDstW w else xSrcW w) - 1) / 1024)

/-- Element j lies in the blocks that element n begins in. -/
def sameBlocks (w : List Nat) (n j : Nat) : Bool :=
  let ok (dst : Bool) : Bool :=
    let b := (elemBlocks w dst n).1
    elemBlocks w dst j == (b, b)
  ok false && ok true

/-- The element after the last one of the grant that begins at n; `j` is reached so far. -/
def grantEnd (w : List Nat) (n : Nat) : Nat → Nat → Nat
  | 0, j => j
  | f + 1, j => if j < xN w ∧ sameBlocks w n j then grantEnd w n f (j + 1) else j

/-- End of the grant that begins at element n: at most 128 bytes. -/
def grantTo (w : List Nat) (n : Nat) : Nat := grantEnd w n (1024 / max (xSrcW w) (xDstW w) - 1) (n + 1)

/-- Domain a descriptor acts for. -/
def xDom (w : List Nat) : Option Nat := if xAct w = 0 then none else some (xAct w)

/-- Byte address of a bit; one outside the address space is a window violation. -/
def bitAddr (b : Int) : EM Nat :=
  if b < 0 ∨ 2 ^ 51 ≤ b then throw (.viol 0 (b / 8 % 2 ^ 48).toNat) else pure (b / 8).toNat

/-- Read one element. -/
def rdElement (m : Master) (p : Nat) (w : List Nat) (n : Nat) : EM Nat := do
  let b := elemBit w false n
  let a ← bitAddr b
  let o := (b % 8).toNat
  let l ← rd m p (xDom w) a (cdiv (o + xSrcW w) 8)
  pure (bits (leNat l) (o + xSrcW w - 1) o)

/-- The value as the destination holds it: FP32 converts to BF16 or FP16 by R59, any other pair is one format (R305). -/
def xConv (w : List Nat) (v : Nat) : Nat :=
  match xSrcFmt w, xDstFmt w with
  | some f, some g => if f = g then v else fenc g (fdec f v)
  | _, _ => v

/-- Merge a value of `n` bits at a bit address into a map from byte address to mask and value. -/
def putBits (a o n v : Nat) (m : SMap (Nat × Nat)) : SMap (Nat × Nat) :=
  (upto (cdiv (o + n) 8)).foldl (fun m j =>
    let mk := bits ((2 ^ n - 1) <<< o) (8 * j + 7) (8 * j)
    let x := bits ((v % 2 ^ n) <<< o) (8 * j + 7) (8 * j)
    let old := mget (0, 0) m (a + j)
    mset (0, 0) m (a + j) (Nat.lor old.1 mk, Nat.lor (Nat.land old.2 (255 - mk)) x)) m

/-- The whole byte a masked value makes; a byte written in part is read first. -/
def fillByte (m : Master) (p : Nat) (dom : Option Nat) (q : Nat × Nat × Nat) : EM (Nat × Byte) := do
  if q.2.1 = 255 then pure (q.1, BitVec.ofNat 8 q.2.2)
  else do
    let old ← rdAtomic m p dom q.1 1
    pure (q.1, BitVec.ofNat 8 (Nat.lor (Nat.land old (255 - q.2.1)) q.2.2))

/-- Write bytes in runs of rising addresses. -/
def wrRuns (m : Master) (p : Nat) (dom : Option Nat) : List (Nat × Byte) → Nat → List Byte → EM Unit
  | [], a, acc => if acc.isEmpty then pure () else wr m p dom a acc.reverse
  | (b, v) :: r, a, acc => do
    if acc.isEmpty then wrRuns m p dom r b [v]
    else if b = a + acc.length then wrRuns m p dom r a (v :: acc)
    else do
      wr m p dom a acc.reverse
      wrRuns m p dom r b [v]

/-- The destination bytes of elements with their values, the pad bits after the last contiguous one as 0 (R305). -/
def destBytes (w : List Nat) : List (Nat × Nat) → SMap (Nat × Nat) → EM (SMap (Nat × Nat))
  | [], m => pure m
  | (n, v) :: r, m => do
    let b := elemBit w true n
    let a ← bitAddr b
    let o := (b % 8).toNat
    let k := xDstW w
    let m := putBits a o k (xConv w v) m
    let z := (8 - (o + k) % 8) % 8
    let m := if n + 1 = xN w ∧ !xSide w ∧ z ≠ 0 then putBits (a + (o + k) / 8) ((o + k) % 8) z 0 m else m
    destBytes w r m

/-- Move elements n to j - 1 by a master (R304). -/
def moveElems (m : Master) (p : Nat) (w : List Nat) (n j : Nat) : EM Unit := do
  let vs ← (upto (j - n)).mapM fun k => do
    let v ← rdElement m p w (n + k)
    pure (n + k, v)
  let bs ← destBytes w vs []
  let l ← bs.mapM (fillByte m p (xDom w))
  wrRuns m p (xDom w) l 0 []

/-! ### The block loader (R89, R301) -/

/-- The block that the loader stages, with its sweep. -/
def stageBlock (v : Cell) : Option (Nat × Block × Sweep) :=
  (nextToStage v).bind fun i =>
    let b := v.rq.getD i {}
    (v.sweepAt b.sweep).map fun w => (i, b, w)

/-- Addresses of the loader's accesses for a block: the aligned 128-byte blocks of its rows in order (R300, R301). -/
def stageAddrs (b : Block) (w : Sweep) : List Nat :=
  match fmtOf w.wtag with
  | none => []
  | some f =>
    let n := rowBytes w f
    if !blockOk w b || n == 0 then []
    else (upto b.count).flatMap fun i =>
      let a := b.wbase + i * b.wstride
      (upto ((a + n - 1) / 128 - a / 128 + 1)).map fun j => max a (128 * (a / 128 + j))

/-- The address of the next grant that the loader asks for a cell. -/
def stageWants (v : Cell) : Option Nat := (stageBlock v).bind fun q => (stageAddrs q.2.1 q.2.2)[v.ldGot]?

/-- The cell that the loader channel serves next: the lowest with a request. -/
def loaderCell (s : State) (c e : Nat) : Option Nat :=
  ((upto 16).map fun k => 16 * e + k).find? fun k =>
    !(cellOf s c k).frozen && (stageWants (cellOf s c k)).isSome

/-- The loader channel has a request pending (R301). -/
def loaderPends (s : State) (c e : Nat) : Bool := (loaderCell s c e).isSome

/-- Read the weights of a block, each access by the mapping faults of R320. -/
def stageRead (c k p : Nat) (b : Block) (w : Sweep) : EM (List Byte) := do
  let s ← get
  match (stageAddrs b w).find? fun a => bulkDown s p a with
  | some a => throw (.fail 0x04 0x09_0007 (some a))
  | none =>
    match fmtOf w.wtag with
    | none => pure []
    | some f => if blockOk w b then readRows c k p b (rowBytes w f) b.count else pure []

/-- An access of the loader for a cell stops: a violation is the cell's, a fault is also latched in its engine (R301). -/
def loaderStop (c k : Nat) (w : Sweep) (y : Stop) (s : State) : State :=
  let s := modCell c k (fun v => { v with ldGot := 0 }) s
  let s := match y with
    | .viol _ _ => s
    | .fail st dt _ => latchStr c (k / 16) 8 st dt s
    | .unc _ mem pw => latchStr c (k / 16) 8 0x09 (uncDetail 0x05_0007 mem pw) s
  cellStop c k w.x w.task w.pc y s

/-- BLOCK_STAGED: the loader has taken the grants of a block that were still to be made, and the block is staged. -/
def execBlockStaged (c k : Nat) (s : State) : Out :=
  if 96 ≤ c ∨ 32 ≤ k then .fault .noSuchUnit
  else
    let v := cellOf s c k
    let e := k / 16
    match stageBlock v with
    | none => .next s
    | some (i, b, w) =>
      let left := (stageAddrs b w).length - v.ldGot
      let held : Bool := strFrozen s c e || bitAt (creg s c (strReg e Reg.STR_CTRL)) 0
      if v.frozen || !awake s c || (left != 0 && held) then .next s
      else
        let s := bumpC c (strReg e Reg.STR_GRANTS) 32 left s
        match runEM (stageRead c k (taskOf s w.task).part b w) s with
        | .stop y s => .next (loaderStop c k w y s)
        | .good l s => .next (modCell c k (fun v => { setBlock i (fun b => { b with staged := some l }) v with ldGot := 0 }) s)

/-! ### Grants (R300, R312, R313) -/

/-- Accesses an engine has outstanding, one for each grant that is not acknowledged (R300). -/
def outstanding (s : State) (c e : Nat) : Nat :=
  ((upto 8).map fun i => (slotOf s c e i).out.length + (slotOf s c e i).old).sum

/-- The writes of a slot's grant that began at element n are acknowledged, in any order (R307). -/
def takeAck (c e : Nat) (s : State) (q : Nat × Nat) : State :=
  if 8 ≤ q.1 then s
  else modSlot c e q.1 (fun x =>
    match x.out.find? fun r => r.1 == q.2 with
    | some r => { x with out := x.out.erase r }
    | none => { x with old := x.old - 1 }) s

/-- The elements below this one are acknowledged (R314, Table 9.8). -/
def Slot.acked (x : Slot) : Nat := x.out.foldl (fun n r => min n r.1) x.elem

/-- Slot i has a grant to make (R313). -/
def slotReady (x : Slot) : Bool := x.st == 1 && !x.words.isEmpty && decide (x.elem < xN x.words) && x.fault.isNone

/-- Run-dry time of a slot (R312). -/
def runDry (x : Slot) : Nat := x.tc + 16 * dstBytes x.words x.elem / xRate x.words

/-- The slot that takes the grant (R313). -/
def pickSlot (s : State) (c e : Nat) : Option Nat :=
  let now := cmpCycles s c
  let rated := (upto 8).filter fun i =>
    let x := slotOf s c e i
    slotReady x && decide (xRate x.words ≠ 0) && decide (runDry x ≤ now + x.lead)
  match rated with
  | i :: r => some (r.foldl (fun b j => if runDry (slotOf s c e j) < runDry (slotOf s c e b) then j else b) i)
  | [] => (upto 8).find? fun i => let x := slotOf s c e i; slotReady x && xRate x.words == 0

/-- Destination bytes that are acknowledged, the A of R314. -/
def ackBytes (x : Slot) : Nat := dstBytes x.words x.acked

/-- Slack of a FIXED descriptor that is being checked (R314). -/
def slackOf (s : State) (c : Nat) (x : Slot) : Option Int :=
  let now := cmpCycles s c
  if x.words.isEmpty || !xFixed x.words || xKind x.words != 0 || decide (now < x.tc) || decide (xN x.words ≤ x.acked) then none
  else some (Int.ofNat (x.tc + 16 * ackBytes x / xRate x.words) - now)

/-- STR_MIN_SLACK takes the smallest slack of this cycle. -/
def noteSlack (c e : Nat) (s : State) : State :=
  let o := strReg e Reg.STR_MIN_SLACK
  (upto 8).foldl (fun s i =>
    match slackOf s c (slotOf s c e i) with
    | some v =>
      let v := clampI (-(2 ^ 31)) (2 ^ 31 - 1) v
      if v < sext 32 (creg s c o) then setCreg c o (toBits 32 v) s else s
    | none => s) s

/-- Aligned 64-byte units that elements n to j - 1 touch on a side. -/
def units64 (w : List Nat) (dst : Bool) (n j : Nat) : Nat :=
  ((upto (j - n)).flatMap fun k =>
    let b := elemBit w dst (n + k)
    [b / 512, (b + Int.ofNat (if dst then xDstW w else xSrcW w) - 1) / 512]).eraseDups.length

/-- One grant of a slot: a mapping fault of the bulk tier, or the next elements, which are outstanding until they are
acknowledged. -/
def grantSlot (c e i : Nat) (s : State) : State :=
  let x := slotOf s c e i
  let p := slotPart s c e i
  let w := x.words
  let n := x.elem
  let j := grantTo w n
  if bulkDown s p (elemAddr w false n) then mapFault c e i (elemAddr w false n) 2 false s
  else if bulkDown s p (elemAddr w true n) then mapFault c e i (elemAddr w true n) 2 true s
  else match runEM (moveElems (.str c e) p w n j) s with
    | .stop y s => strStop c e i y s
    | .good _ s =>
      bumpC c (strReg e Reg.STR_BYTES) 0 (units64 w true n j) (bumpC c (strReg e Reg.STR_BYTES) 32 (units64 w false n j)
        (modSlot c e i (fun x => { x with elem := j, out := x.out ++ [(n, j)] }) s))

/-- The loader channel takes the engine's grant. -/
def grantLoader (c e : Nat) (s : State) : State :=
  match loaderCell s c e with
  | none => s
  | some k => bumpC c (strReg e Reg.STR_GRANTS) 32 1 (modCell c k (fun v => { v with ldGot := v.ldGot + 1 }) s)

/-- The grant of a cycle: the loader channel's in every fourth cycle while it has a request, else a slot's; none while
STR_CTRL.HALT is 1 or 64 accesses are outstanding (R300, R301, R313). -/
def grantCycle (c e : Nat) (s : State) : State :=
  let room : Bool := decide (outstanding s c e < 64)
  let may : Bool := room && !bitAt (creg s c (strReg e Reg.STR_CTRL)) 0
  let turn := mget 0 (clu s c).ldTurn e
  let ready := if room then ((upto 8).filter fun i => slotReady (slotOf s c e i)).length else 0
  let loader : Bool := may && loaderPends s c e && decide (3 ≤ turn)
  let pick := if loader || !may then none else pickSlot s c e
  let s := modClu c (fun q => { q with ldTurn := mset 0 q.ldTurn e (if loader then 0 else min 3 (turn + 1)) }) s
  let s := if loader then grantLoader c e s else s
  let s := if (if pick.isSome then 1 else 0) < ready then bumpC c (strReg e Reg.STR_GRANTS) 0 1 s else s
  match pick with
  | none => s
  | some i => grantSlot c e i s

/-! ### I/O stream engines (R23, R332) -/

/-- Descriptors that copy n bytes: rows of 65,536 bytes, then what is left; best effort, format I8 on both sides (Table 9.3). -/
def ioDescs (src dst n : Nat) : List (List Nat) :=
  let ctrl := 7 * 2 ^ 3 + 7 * 2 ^ 28
  let desc (o c0 c1 : Nat) : List Nat :=
    [ctrl + compl 32 ctrl * 2 ^ 32, (src + o) % 2 ^ 48, (dst + o) % 2 ^ 48, (c0 - 1) + (c1 - 1) * 2 ^ 16, 0, 65536 * 2 ^ 32, 0, 0]
  let rows := n / 65536
  (if rows = 0 then [] else [desc 0 65536 rows]) ++ (if n % 65536 = 0 then [] else [desc (65536 * rows) (n % 65536) 1])

/-- What an I/O stream engine refuses in a descriptor beside the checks of a transfer: BARRIER, CPL and GIVE_EN (R303, R332). -/
def ioFault (s : State) (w : List Nat) : Option Nat :=
  if xKind w ≠ 0 ∨ xCpl w ∨ bitAt (dw w 0) 17 then some 0x09_0002 else xferFault s 0 0 w

/-- Slot of an I/O stream engine, by number. -/
def ioSlot (s : State) (n : Nat) : IoSlot := mget {} s.ioSlots n

/-- A slot of an I/O stream engine has a grant to make. -/
def IoSlot.ready (x : IoSlot) : Bool := x.stop.isNone && !x.todo.isEmpty

/-- One grant of slot n of an I/O stream engine of die d: its descriptor is checked before its first element and left after its
last, and a Stop is kept for the command that it serves. -/
def ioGrant (d n : Nat) (s : State) : State :=
  let x := ioSlot s n
  let put (y : IoSlot) (s : State) : State := { s with ioSlots := mset {} s.ioSlots n y }
  match x.todo with
  | [] => s
  | w :: r =>
    match (if x.elem = 0 then ioFault s w else none) with
    | some dt => put { x with stop := some (.fail 0x01 dt) } s
    | none =>
      let j := grantTo w x.elem
      match runEM (moveElems (.io d) x.part w x.elem j) s with
      | .stop e s => put { x with stop := some e } s
      | .good _ s => put (if j < xN w then { x with elem := j } else { x with elem := 0, todo := r }) s

/-- One cycle of I/O stream engine e of die d: every slot is best effort, and the lowest one grants (R313). -/
def ioCycle (d e : Nat) (hs : List (Nat × Byte)) (s : State) : State :=
  match (upto 8).find? fun i => (ioSlot s (32 * d + 8 * e + i)).ready with
  | none => s
  | some i =>
    let n := 32 * d + 8 * e + i
    ioGrant d n (hostStores (ioSlot s n).part hs s)

/-- Firmware gives a copy of n bytes, for a command, to a free slot of one of a die's engines, a free pick; none where all four are
full. -/
def ioStart (d mbx seq p src dst n : Nat) (s : State) : Option State :=
  match (upto 4).filter fun e => (upto 8).any fun i => !(ioSlot s (32 * d + 8 * e + i)).busy with
  | [] => none
  | l =>
    let r := takeFree s
    let e := l.getD (r.1 % l.length) 0
    ((upto 8).find? fun i => !(ioSlot s (32 * d + 8 * e + i)).busy).map fun i =>
      { r.2 with ioSlots := mset {} s.ioSlots (32 * d + 8 * e + i)
                   { busy := true, mbx := mbx, seq := seq, part := p, todo := ioDescs src dst n } }

/-- STREAM_GRANT: one cycle of an engine: the accesses `acks` are acknowledged, each a slot and the first element of its
grant, the fixed schedules are checked, and it may grant; the host has stored `hs` (R300, R301, R313, R314). As `c` = 96 + d it is
engine e of the I/O stream block of I/O die d (R332; log 84). -/
def execStreamGrant (c e : Nat) (acks : List (Nat × Nat)) (hs : List (Nat × Byte)) (s : State) : Out :=
  if 96 ≤ c then
    (if c < 100 ∧ e < 4 then .next (if c - 96 < nIoDies s then ioCycle (c - 96) e hs s else s) else .fault .noSuchUnit)
  else if 2 ≤ e then .fault .noSuchUnit
  else
    let s := hostStores (cluPart s c) hs (acks.foldl (takeAck c e) s)
    if strFrozen s c e || !awake s c then .next s else .next (grantCycle c e (noteSlack c e s))

/-- DEADLINE_MISS: a FIXED descriptor's consumer has passed the acknowledged data (R314, R315). -/
def execDeadlineMiss (c e i : Nat) (s : State) : Out :=
  if !slotOk c e i then .fault .noSuchUnit
  else
    let x := slotOf s c e i
    let late : Bool := (slackOf s c x).isSome &&
      decide (16 * ackBytes x < (cmpCycles s c - x.tc) * xRate x.words)
    .next (if late then strFault c e i 0x0A 0x09_0005 (noteSlack c e s) else s)

/-! ### Retirement (R316, R317) -/

/-- Step 1: the owner register of the bank that holds DST takes GIVE_CODE. -/
def giveStep (c e p : Nat) (w : List Nat) : EM Unit := do
  if !bitAt (dw w 0) 17 then pure ()
  else if regionOf (xDst w) ≠ some 0 then throw (.fail 0x01 0x09_0002)
  else do
    let ks ← keysOf (.str c e) p (xDom w) (xDst w) 1
    let s ← get
    let cb := bankOfKey (ks.headD 0)
    if codeOk s cb.1 cb.2 (xGive w) then modify (setOwner cb.1 cb.2 (xGive w))
    else do
      modify (flagP p Reg.BNK_ERR 0)
      throw (.viol 1 (xDst w))

/-- Step 3: the record of the task's request; a CPL descriptor of a task with LAST = 0 and a later one fault (R317, R349). -/
def cplStep (c e i : Nat) (w : List Nat) (s : State) : Option State :=
  if !xCpl w then some s
  else match (slotOf s c e i).list with
    | none => none
    | some t =>
      let r := (taskOf s t).req
      if (reqOf s r).st == .done || !(taskOf s t).last then none
      else some (finishReq r 0 0 (cmpIsland s c) (dstBytes w (xN w)) s)

/-- DESCRIPTOR_RETIRE: every access of the active transfer has been acknowledged, the last of them now (R316). -/
def execDescriptorRetire (c e i : Nat) (s : State) : Out :=
  if !slotOk c e i then .fault .noSuchUnit
  else
    let x := slotOf s c e i
    let w := x.words
    if x.st != 1 || w.isEmpty || decide (x.elem < xN w) || x.fault.isSome || strFrozen s c e || !awake s c then .next s
    else match runEM (giveStep c e (slotPart s c e i) w) (modSlot c e i (fun x => { x with out := [] }) s) with
      | .stop y s => .next (strStop c e i y s)
      | .good _ s =>
        let f := bits (dw w 0) 16 11
        let s := if bitAt (dw w 0) 10 then setFlag c f (flagOf s c f + 1) s else s
        match cplStep c e i w s with
        | none => .next (strFault c e i 0x01 0x09_0002 s)
        | some s => .next (retired c e i s)

/-! ### Arming (R318, R319) -/

/-- A write of STR_ARM for slot i (Table 9.7). -/
def armSlot (c e i : Nat) (s : State) : State :=
  let x := slotOf s c e i
  let w := (upto 8).map fun j => creg s c (strReg e (Reg.STR_ARM_DESC + 8 * j))
  if strFrozen s c e then flagC c (strReg e Reg.STR_ERR) 4 s
  else if x.idle then activate c e i true 0 w s
  else if !x.words.isEmpty && x.shadow.isNone then modSlot c e i (fun x => { x with shadow := some w }) s
  else if x.shadow.isSome then flagC c (strReg e Reg.STR_ERR) 1 s
  else flagC c (strReg e Reg.STR_ERR) 2 s

/-- STR_ARM: the host arms slot i of engine e of instance n with STR_ARM_DESC (Table 9.7). -/
def execStrArm (p n e i : Nat) (s : State) : Out :=
  if 16 ≤ p ∨ 2 ≤ e ∨ 8 ≤ i then .fault .noSuchUnit
  else .next (hostWrite p true (fun s =>
    match instOf s p n with
    | none => s
    | some c => armSlot c e i s) s)

/-! ### Mapping faults and halts (R320 to R325) -/

/-- The address of the access a slot would make next: the read of its active descriptor's next element, its write,
or its clutch; for i = 8 that of the loader channel. -/
def nextAccess (s : State) (c e i : Nat) (write : Bool) : Option Nat :=
  if i = 8 then
    if write then none else (loaderCell s c e).bind fun k => stageWants (cellOf s c k)
  else
    let x := slotOf s c e i
    if slotReady x then some (elemAddr x.words write x.elem)
    else if x.words.isEmpty && x.list.isSome && x.st == 1 && !write then some x.next
    else none

/-- The slot's next access cannot be served, and neither can it be waited for: the work ends with ABORTED_STREAM; i = 8 is
the loader channel. -/
def accessFails (c e i detail a : Nat) (s : State) : State :=
  if i = 8 then
    match loaderCell s c e with
    | none => s
    | some k => match stageBlock (cellOf s c k) with
      | none => s
      | some q => loaderStop c k q.2.2 (.fail 0x04 detail (some a)) s
  else strAccFault c e i 0x04 detail a s

/-- MAPPING_FAULT: the translation of a host page, or a withdrawn bulk range (`cause` 1 or 2), refuses the next access of
slot i, or of the loader channel as i = 8 (R320). Without ATS and PRI the host refuses the access itself: a read aborts, and of a
write the device is not told (R370). -/
def execMappingFault (c e i cause : Nat) (write : Bool) (s : State) : Out :=
  if 96 ≤ c ∨ 2 ≤ e ∨ 8 < i then .fault .noSuchUnit
  else if strFrozen s c e then .next s
  else match nextAccess s c e i write with
    | none => .next s
    | some a =>
      if (cause = 1 ∧ regionOf a = some 3) ∨ (cause = 2 ∧ regionOf a = some 2) then
        .next (if cause = 1 ∧ !priOn s (if i = 8 then cluPart s c else slotPart s c e i) then
            (if write then s else accessFails c e i 0x09_000B a s)
          else if i = 8 then accessFails c e 8 (if cause = 1 then 0x09_0006 else 0x09_0007) a s
          else mapFault c e i a cause write s)
      else .next s

/-- HOST_READ_REFUSED: the host refuses a read of slot i, or of the loader channel as i = 8 (R370). -/
def execHostReadRefused (c e i : Nat) (s : State) : Out :=
  if 96 ≤ c ∨ 2 ≤ e ∨ 8 < i then .fault .noSuchUnit
  else if strFrozen s c e then .next s
  else match nextAccess s c e i false with
    | none => .next s
    | some a => .next (if regionOf a = some 3 then accessFails c e i 0x09_000B a s else s)

/-- Place of a cluster among its partition's instances. -/
def instIdx (s : State) (p c : Nat) : Nat := (part s p).insts.idxOf c

/-- HALT_ID of a slot (R322). -/
def haltId (s : State) (p c e i halts : Nat) : Nat := 16 * instIdx s p c + 8 * e + i + halts % 8192 * 2 ^ 11

/-- Address of a slot's save area (R322). -/
def saveAddr (s : State) (p c e i : Nat) : Nat :=
  (bits (preg s p Reg.STR_SAVE_BASE) 47 0 + 64 * (16 * instIdx s p c + 8 * e + i)) % 2 ^ 48

/-- Page requests of a port that have been posted. -/
def postedOn (s : State) (port : Nat) : List Nat :=
  (s.pages.filter fun q => q.port == port).filterMap fun q => q.prgi

/-- Page requests that a port may have outstanding: what the host has granted, and at most 512 (R370). -/
def pageLimit (s : State) (port : Nat) : Nat := min (mget {} s.hostCfg port).alloc 512

/-- The save area's words (Table 9.8). -/
def saveWords (x : Slot) (a cause : Nat) (write : Bool) (id streak prgi : Nat) : List Nat :=
  [dw x.words 0, x.daddr, x.elem, a % 2 ^ 48 + cause * 2 ^ 48 + b2n write * 2 ^ 50, id + streak % 256 * 2 ^ 24,
   prgi % 512 + 15 * 2 ^ 9, 0, compl 64 x.elem]

/-- The halt record's host tag and SEQ, and its NO_IRQ. -/
def haltRecord (s : State) (p c id : Nat) (x : Slot) : Due :=
  match (if x.armed then none else x.list) with
  | some t =>
    let r := reqOf s (taskOf s t).req
    { mbx := r.mbx, tag := r.tag, seq := r.seq, status := 5, detail := id, island := cmpIsland s c, noirq := r.noirq, kind := 1 }
  | none => { mbx := p, status := 5, detail := id, island := cmpIsland s c, kind := 1 }

/-- STREAM_HALT: a resumable descriptor with a mapping fault halts once its outstanding accesses have completed, or aborts at its
limit (R322, R325, R370). -/
def execStreamHalt (c e i : Nat) (s : State) : Out :=
  if !slotOk c e i then .fault .noSuchUnit
  else
    let x := slotOf s c e i
    match x.fault with
    | none => .next s
    | some (a, cause, write) =>
      if x.st != 1 || strFrozen s c e then .next s
      else
        let p := slotPart s c e i
        let streak := if x.streak = 0 ∨ x.lastElem < x.elem then 1 else x.streak + 1
        if x.limit < streak then .next (strAccFault c e i 0x04 0x09_0008 a s)
        else
          let halts := (x.halts + 1) % 8192
          let id := haltId s p c e i halts
          let port := (part s p).port
          let posted := postedOn s port
          let prgi := if posted.length < pageLimit s port then (upto 512).find? fun g => !posted.contains g else none
          let ws := saveWords x a cause write id streak (prgi.getD 0)
          match runEM (wr (.str c e) p none (saveAddr s p c e i) (wordsBytes ws)) s with
          | .stop y s => .next (strStop c e i y s)
          | .good _ s =>
            let s := if cause = 1 then
                { s with pages := s.pages ++ [{ port := port, prgi := prgi, clu := c, eng := e, slot := i, halts := halts }]
                         sent := if prgi.isSome then s.sent ++ [(4, [port, prgi.getD 0, a])] else s.sent }
              else s
            let s := bumpC c (strReg e Reg.STR_HALTS) 0 1
              (modSlot c e i (fun x => { x with st := 4, halts := halts, streak := streak, lastElem := x.elem, out := [] }) s)
            .next (addDue (haltRecord s p c id x) s)

/-- A page request belongs to the halt that its slot is in. -/
def PageReq.halted (s : State) (q : PageReq) : Bool :=
  let x := slotOf s q.clu q.eng q.slot
  x.st == 4 && x.halts == q.halts

/-- Change a field of word 5 of the save area of the halt that a page request belongs to (R323). -/
def setSave5 (q : PageReq) (f : Nat → Nat) (s : State) : State :=
  if !q.halted s then s
  else
    let p := slotPart s q.clu q.eng q.slot
    let a := (saveAddr s p q.clu q.eng q.slot + 40) % 2 ^ 48
    match runEM (do let v ← rdN (.str q.clu q.eng) p none a 8; wrN (.str q.clu q.eng) p none a 8 (f v)) s with
    | .good _ s => s
    | .stop y s => strStop q.clu q.eng q.slot y s

/-- A page request that waits for the allocation is posted with a free index (R370). -/
def postWaiting (port g : Nat) (s : State) : State :=
  match (if (postedOn s port).length < pageLimit s port then s.pages.find? fun q => q.port == port && q.prgi.isNone else none) with
  | none => s
  | some q =>
    let s := { s with pages := s.pages.map fun x => if x == q then { q with prgi := some g } else x
                      sent := s.sent ++ [(4, [port, g])] }
    setSave5 q (fun v => v - v % 512 + g) s

/-- PRI_RESPONSE: the host answers page request g of a port with a Response Code (R323, R370). -/
def execPriResponse (port g code : Nat) (s : State) : Out :=
  if 4 ≤ port ∨ 512 ≤ g ∨ 16 ≤ code then .fault .noSuchUnit
  else match s.pages.find? fun q => q.port == port && q.prgi == some g with
    | none => .next s
    | some q =>
      let s := { s with pages := s.pages.erase q }
      let s := setSave5 q (fun v => v - bits v 12 9 * 2 ^ 9 + code * 2 ^ 9) s
      let s := if code = 0 then s else flagC q.clu (strReg q.eng Reg.STR_ERR) 3 s
      .next (postWaiting port g s)

/-- A halted slot of a partition by its HALT_ID. -/
def haltedSlot (s : State) (p id : Nat) : Option (Nat × Nat × Nat) :=
  match instOf s p (bits id 10 4) with
  | none => none
  | some c =>
    let e := bits id 3 3
    let i := bits id 2 0
    let x := slotOf s c e i
    if x.st = 4 ∧ x.halts = bits id 23 11 then some (c, e, i) else none

/-- The response to the page request of a slot's halt has arrived, or none was made. -/
def pageAnswered (s : State) (c e i : Nat) : Bool :=
  s.pages.all fun q => !(q.clu == c && q.eng == e && q.slot == i && q.halts == (slotOf s c e i).halts)

/-- A halted descriptor continues from its save area, or aborts (R324). -/
def resumeSlot (c e i : Nat) (s : State) : State :=
  let p := slotPart s c e i
  match runEM (rd (.str c e) p none (saveAddr s p c e i) 64) s with
  | .stop y s => strStop c e i y s
  | .good l s =>
    let w := words8 l
    let code := bits (w 5) 12 9
    if !complOk 64 (w 2) (w 7) then
      let a := saveAddr s p c e i
      strFaultAt c e i 0x0D 0x09_000C (some (a, memOf a)) none s
    else if bits (w 3) 49 48 = 1 ∧ pageAnswered s c e i ∧ (code = 1 ∨ code = 15) then strAccFault c e i 0x04 0x09_0006 (bits (w 3) 47 0) s
    else bumpC c (strReg e Reg.STR_HALTS) 32 1
      (modSlot c e i (fun x => { x with st := 1, fault := none, elem := w 2 }) s)

/-- CMD_RESUME_STREAM (R324). -/
def execCmdResumeStream (f : Nat) (s : State) : Out :=
  cmdEvent f 0x08 (fun c s =>
    match haltedSlot s f (bits (c.a 0) 23 0) with
    | none => endCmd f c 1 0x09_000D 0 s
    | some (cl, e, i) =>
      endCmd f c 0 0 0 (if bitAt (c.a 0) 24 then strFault cl e i 0x04 0x09_0009 s else resumeSlot cl e i s)) s

/-! ### Engine registers (Table 9.13) -/

/-- STR_HALT: a write of STR_CTRL.HALT of engine e of instance n. -/
def execStrHalt (p n e : Nat) (halt : Bool) (s : State) : Out :=
  if 16 ≤ p ∨ 2 ≤ e then .fault .noSuchUnit
  else .next (hostWrite p true (fun s =>
    match instOf s p n with
    | none => s
    | some c => setCreg c (strReg e Reg.STR_CTRL) (b2n halt) s) s)

/-- STR_SLACK_CLEAR: writing 1 to STR_CTRL.SLACK_CLR. -/
def execStrSlackClear (p n e : Nat) (s : State) : Out :=
  if 16 ≤ p ∨ 2 ≤ e then .fault .noSuchUnit
  else .next (hostWrite p true (fun s =>
    match instOf s p n with
    | none => s
    | some c => setCreg c (strReg e Reg.STR_MIN_SLACK) 0x7FFF_FFFF s) s)

/-- A cluster stream engine of the partition has a slot that is not idle (Table 12.5). -/
def strBusy (s : State) (p : Nat) : Bool := (clustersOf s p).any fun c => (clu s c).slots.any fun x => x.2.st != 0

/-- A save-area base is 64-byte aligned and its area lies in the partition's HBM (Table 9.13). -/
def saveBaseOk (s : State) (p a : Nat) : Bool :=
  let n := 1024 * (clustersOf s p).length
  let inside (x : Nat) : Bool := regionOf x == some 1 && (hbmLoc (part s p).hbm (x % 2 ^ 44)).isSome
  a % 64 == 0 && inside a && (n == 0 || inside (a + n - 1))

end Sys2Proof.Machine
end

