-- ==== Sys2Proof/Machine/Barrier.lean ====
section
/-!
DEFINITION. The partition barrier (R326 to R331): its participants, the release that begins an epoch, CMD_BARRIER and
the timeout; and the clocks that a release may change (R27, R363).
-/
namespace Sys2Proof.Machine

/-! ### Clocks (R27, R358, R360, R363) -/

/-- A clock step after PWR_CLK_MAX (R363). -/
def maxStep (s : State) (step : Nat) : Nat := min step (bits (dreg s Reg.PWR_CLK_MAX) 5 0)

/-- MHz of a clock step after PWR_CLK_MAX, `limit` steps of the limiter, and R360. -/
def stepMHz (s : State) (hot : Bool) (limit step : Nat) : Nat := if hot then 400 else 400 + 25 * (maxStep s step - limit)

/-- The cluster's islands take the clocks that its registers and limits give; their counters go on from here (R27). A clock at
400 MHz has no more steps to give (R358). -/
def setClocks (c : Nat) (s : State) : State :=
  let w := creg s c Reg.PWR_CLK
  let cell := bits w 5 0
  let cmp := bits w 13 8
  let cc := cellCycles s c
  let mc := cmpCycles s c
  modClu c (fun q =>
    let a := min q.limCell (maxStep s cell)
    let b := min q.limCmp (maxStep s cmp)
    { q with limCell := a, limCmp := b, cellMHz := stepMHz s q.hot a cell, cmpMHz := stepMHz s q.hot b cmp,
             cycCell := cc, cycCmp := mc, cycAt := s.now }) s

/-! ### Participants (R326, R328) -/

/-- Slot i of engine e counts as arrived. -/
def slotArrived (s : State) (c e i : Nat) : Bool :=
  let x := slotOf s c e i
  x.st == 3 || (x.list.isNone && x.st != 4) || strFrozen s c e || (clu s c).quietM.contains (masterId (.str c e))

/-- The participants of a cluster that have not arrived: island, kind and slot number. -/
def missingIn (s : State) (c : Nat) : List (Nat × Nat × Nat) :=
  let q := clu s c
  if q.joining || q.leaving then []
  else ((upto q.ncell).filter fun k => !(cellOf s c k).arrivedAll).map (fun k => (cellIsland s c k, 0, 0)) ++
    ((upto 16).filter fun i => !slotArrived s c (i / 8) (i % 8)).map fun i => (cmpIsland s c, 1, i)

/-- The participants of a partition that have not arrived, in the order of R330. -/
def missing (s : State) (p : Nat) : List (Nat × Nat × Nat) := (clustersOf s p).flatMap (missingIn s)

/-- An arrival has been made since the last release (R327). -/
def barWaiting (s : State) (p : Nat) : Bool :=
  (part s p).arrivals || !(part s p).hostBar.isEmpty

/-! ### Clearing an extent (R410, R416) -/

/-- A key lies in an HBM extent. -/
def inHbm (e : Extent) (k : Nat) : Bool :=
  let ch := (k - 2 ^ 50) / 2 ^ 31
  let u := (k - 2 ^ 50) % 2 ^ 31 / 2 ^ 26
  decide (2 ^ 50 ≤ k) && decide (k < 2 ^ 51) && decide (e.first ≤ ch) && decide (ch < e.first + e.n) &&
    decide (e.lo ≤ u) && decide (u < e.hi)

/-- A key lies in a bulk extent. -/
def inBulk (e : Extent) (k : Nat) : Bool :=
  let u := (k - 2 ^ 51) % 2 ^ 41 / 2 ^ 30
  decide (2 ^ 51 ≤ k) && decide (k < 2 ^ 52) && bitAt e.ports ((k - 2 ^ 51) / 2 ^ 41) && decide (e.lo ≤ u) &&
    decide (u < e.hi)

/-- Write zeros, with valid check symbols, to every byte whose key satisfies a test. -/
def clearKeys (f : Nat → Bool) (s : State) : State :=
  { s with mem := s.mem.filter (fun q => !f q.1), ecc := s.ecc.filter (fun q => !f q.1) }

/-- Clear an extent. -/
def clearExtent (bulk : Bool) (e : Extent) (s : State) : State := clearKeys (if bulk then inBulk e else inHbm e) s

/-! ### The release (R327) -/

/-- A record of a command that waited becomes due. -/
def dueNow (d : Due) (s : State) : State :=
  if !isOpen s d.mbx d.seq then s
  else addDue d (modMbx d.mbx (fun m => { m with cmds := m.cmds.map fun x => if x.seq = d.seq then { x with due := true } else x }) s)

/-- The cluster's binding is not complete: its move or the chorus to its cells still runs (R328, R414, R504). -/
def bindRuns (s : State) (c : Nat) : Bool := s.moves.any (fun m => m.clu == c) || s.chorus.any fun j => j.clu == c

/-- EPOCH shadows of a cluster take effect, and it takes part from now if its binding is complete (R14, R130, R328, R363). -/
def cluShadows (c : Nat) (s : State) : State :=
  let q := clu s c
  let cst := q.cstSh.foldl (fun m x => match x.2 with | some v => mset 0xFFFF_0000 m x.1 v | none => m) q.cst
  let s := match q.clkSh with
    | some v => setCreg c Reg.PWR_CLK v s
    | none => s
  setClocks c (modClu c (fun q =>
    { q with cst := cst, cstSh := [], clkSh := none, joining := q.joining && bindRuns s c, quietM := [] }) s)

/-- A cell's arrived contexts go on behind their BAR (R180). -/
def releaseCell (c k : Nat) (s : State) : State :=
  (upto 4).foldl (fun s x =>
    if (ctxOf s c k x).arrived then advance c k x (modCtx c k x (fun v => { v with arrived := false, st := .ready }) s)
    else s) (modCell c k (fun v => { v with quiet := false }) s)

/-- The participants of a cluster resume, and its stream engines note the epoch's start (R312, R327). -/
def releaseClu (c : Nat) (s : State) : State :=
  let s := modClu c (fun q => { q with epochCyc := cmpCycles s c }) s
  let s := (upto 32).foldl (fun s k => releaseCell c k s) s
  (upto 16).foldl (fun s i => if (slotOf s c (i / 8) (i % 8)).st = 3 then retired c (i / 8) (i % 8) s else s) s

/-- The barrier of a partition releases. -/
def release (p : Nat) (s : State) : State :=
  let q := part s p
  let s := setPreg p Reg.STR_BAR_EPOCH ((preg s p Reg.STR_BAR_EPOCH + 1) % 2 ^ 32) s
  let s := modPart p (fun q => { q with hbm := q.hbmNext, bulk := q.bulkNext, arrivals := false, hostBar := [],
                                        atRelease := [], insts := (clustersOf s p).filter fun c => !bindRuns s c, scrubs := [] }) s
  let s := q.scrubs.foldl (fun s x => clearExtent x.1 x.2 s) s
  let s := (clustersOf s p).foldl (fun s c => cluShadows c s) s
  let s := (clustersOf s p).foldl (fun s c => releaseClu c s) s
  (q.hostBar ++ q.atRelease).foldl (fun s d => dueNow d s) s

/-- BARRIER_RELEASE: every participant has arrived, and at least one arrival has been made (R327). -/
def execBarrierRelease (p : Nat) (s : State) : Out :=
  if 16 ≤ p then .fault .noSuchUnit else when (barWaiting s p && (missing s p).isEmpty) (release p) s

/-- CMD_BARRIER: the host function arrives (R329). -/
def execCmdBarrier (f : Nat) (s : State) : Out :=
  cmdEvent f 0x06 (fun c s =>
    let d : Due := { mbx := f, tag := c.tag, seq := c.seq, island := fwIsland s f, fvis := c.fvis, noirq := c.noirq }
    modPart f (fun q => { q with hostBar := q.hostBar ++ [d], arrivals := true }) s) s

/-- BARRIER_TIMEOUT: STR_BAR_WAIT milliseconds after the first arrival without a release (R330). -/
def execBarrierTimeout (p : Nat) (s : State) : Out :=
  if 16 ≤ p then .fault .noSuchUnit
  else if !barWaiting s p || bits (preg s p Reg.STR_BAR_WAIT) 15 0 == 0 then .next s
  else match missing s p with
    | [] => .next s
    | (isl, kind, i) :: _ =>
      let err : ErrInfo :=
        { sev := 4, cls := 10, detail := 0x09_000E, part := some p, island := fwIsland s p,
          cycles := recCycles s (fwIsland s p), subject := isl + kind * 2 ^ 16,
          aux := preg s p Reg.STR_BAR_EPOCH % 2 ^ 32 + i % 8 * 2 ^ 32 + i / 8 * 2 ^ 35 }
      .next (flagP p Reg.STR_PERR 0 (fwRecord err s))

end Sys2Proof.Machine
end

