-- ==== Sys2Proof/Machine/Dispatcher.lean ====
section
/-!
DEFINITION. Cluster dispatchers and the power budget (R345 to R363): tasks start and end on a cluster, tokens, budget
periods, the limiter, and entry into brumation and OFF.
-/
namespace Sys2Proof.Machine

/-! ### What a task needs on a cluster (Table 10.4) -/

/-- A task's cluster entry, a dispatcher's read as firmware (R345, R346). -/
def rdEntry (c : Nat) (t : Task) : EM (List Nat) := do
  let l ← rd .fw t.part none ((t.clist + 64 * t.clus.idxOf c) % 2 ^ 48) 64
  pure ((upto 8).map (words8 l))

/-- Address and count of job list i of a cluster entry. -/
def entList (w : List Nat) (i : Nat) : Nat × Nat := (bits (dw w i) 47 0, bits (dw w i) 63 48)

/-- SMASK of engine e. -/
def entSmask (w : List Nat) (e : Nat) : Nat := bits (dw w (4 + e)) 55 48

/-- Reserved fields of a cluster entry are 0. -/
def entOk (w : List Nat) : Bool := bits (dw w 4) 63 56 == 0 && bits (dw w 5) 63 56 == 0 && dw w 7 == 0

/-- The cells of a task on a cluster. -/
def taskCells (t : Task) : List Nat := (upto t.ncell).map fun j => t.cellFirst + j

/-- The engines that a task needs on the cluster (R347). -/
def engNeeds (c : Nat) (w : List Nat) : List Master :=
  (if entSmask w 0 = 0 then [] else [.str c 0]) ++ (if entSmask w 1 = 0 then [] else [.str c 1]) ++
    (if (entList w 2).2 = 0 ∧ (entList w 3).2 = 0 then [] else [.upd c]) ++
    (if (entList w 0).2 = 0 ∧ (entList w 1).2 = 0 then [] else [.vec c])

/-- A frozen master that the task would need on the cluster (R347). -/
def frozenNeed (s : State) (c : Nat) (t : Task) (w : List Nat) : Option Nat :=
  (((taskCells t).map (fun k => Master.cell c k) ++ engNeeds c w).find? fun m => isFrozen s t.part m).map masterId

/-- The task needs an engine that is released from a freeze and takes part only from the next release (R422). -/
def quietNeed (s : State) (c : Nat) (t : Task) : Bool :=
  !(clu s c).quietM.isEmpty && match runEM (rdEntry c t) s with
    | .good w _ => (engNeeds c w).any fun m => (clu s c).quietM.contains (masterId m)
    | .stop _ _ => false

/-! ### Readiness and tokens (R347, R355 to R357) -/

/-- Free contexts of a cell, ascending. -/
def freeCtxs (v : Cell) : List Nat := (upto 4).filter fun x => (v.ctxOf x).st == .free && (v.ctxOf x).task.isNone

/-- A queued task is ready on a cluster; none is placed on a cell that awaits a chorus (R185, R347, R504). -/
def taskReady (s : State) (c : Nat) (t : Task) : Bool :=
  !bitAt (creg s c Reg.DSP_CTRL) 0 && !(clu s c).leaving && !quietNeed s c t && decide (400 + 25 * t.minStep ≤ (clu s c).cellMHz) &&
    (taskCells t).all fun k => !(cellOf s c k).quiet && s.chorus.all (fun j => !(j.clu == c && j.cell == k)) && decide (t.nctx ≤ (freeCtxs (cellOf s c k)).length)

/-- Demand of a task on a cluster (R355). -/
def demand (s : State) (c : Nat) (t : Task) : Nat := cdiv (16 * t.energy * (clu s c).cellMHz) (t.dur * 1600)

/-- Tasks that run on a cluster. -/
def runningOn (s : State) (c : Nat) : List (Nat × Task) := s.tasks.filter fun t => mget .unsent t.2.st c == .running

/-- Seeds that wait for the cluster's tasks to end take effect (R217). -/
def settleSeeds (c : Nat) (s : State) : State :=
  if (clu s c).reseedDue && (runningOn s c).isEmpty then reseedClu c s else s

/-- Tokens held on a cluster. -/
def held (s : State) (c : Nat) : Nat := ((runningOn s c).map fun t => mget 0 t.2.tokens c).sum

/-- What a budget of b tokens leaves for a task of a class (R356). -/
def roomFor (s : State) (cls p b : Nat) : Nat := if cls < 2 then b else b - b * (bits (preg s p Reg.PWR_RESV) 3 0) / 16

/-- A task may start on a cluster now: it fits, or starts alone under the oversize rule (R356, R357). -/
def mayStart (s : State) (c : Nat) (t : Task) : Bool :=
  let q := clu s c
  let cls := (reqOf s t.req).cls
  let d := demand s c t
  if roomFor s cls t.part q.bud0 < d then (runningOn s c).isEmpty && decide (0 < q.bud0)
  else decide (held s c + d ≤ roomFor s cls t.part q.bud)

/-- Order of ready tasks: class, dispatch sequence number, task (R357). -/
def taskBefore (s : State) (a b : Nat × Task) : Bool :=
  let x := reqOf s a.2.req
  let y := reqOf s b.2.req
  decide (x.cls < y.cls) || (x.cls == y.cls && (decide (x.dseq < y.dseq) || (x.dseq == y.dseq && decide (a.2.idx < b.2.idx))))

/-- The ready tasks of a cluster in order. -/
def readyTasks (s : State) (c : Nat) : List (Nat × Task) :=
  sortBy (taskBefore s) ((queuedOn s c).filter fun t => taskReady s c t.2)

/-- The task that starts next, if one may (R353, R357, R360). -/
def pickTask (s : State) (c : Nat) : Option (Nat × Task) :=
  let q := clu s c
  if !awake s c || q.hot || s.bdev == 0 || q.starting.isSome || (runningOn s c).any fun t => t.2.ovr.contains c then none
  else match readyTasks s c with
    | [] => none
    | f :: r =>
      if mayStart s c f.2 then some f
      else if q.barred == some f.1 then none
      else r.find? fun t => mayStart s c t.2

/-! ### Starting (R346, R347) -/

/-- A dispatcher's fault ends the request of a task (R345, R346). -/
def dspFails (c t status detail : Nat) (x : Option (Nat × Nat)) (s : State) : State :=
  let v := taskOf s t
  let ts := taskTag s t
  let err := wordErr s status detail v.part (cmpIsland s c) x ts.1 ts.2
  endReq v.req status detail (flagP v.part Reg.DSP_ERR 0 (capture (.dispatcher c) err s))

/-- What a Stop of a dispatcher's read does: BAD_TASK (R345). -/
def dspStop (c t : Nat) (e : Stop) (s : State) : State :=
  match e with
  | .viol _ _ => dspFails c t 0x01 0x0A_0006 none s
  | .fail st dt _ => dspFails c t st dt e.word s
  | .unc a mem _ => dspFails c t 0x09 0x0A_0006 (some (a, mem)) s

/-- The handover entries of a cluster entry. -/
def rdHandovers (p : Nat) (w : List Nat) : EM (List Nat) := do
  let n := bits (dw w 6) 63 48
  let l ← rd .fw p none (bits (dw w 6) 47 0) (8 * n)
  pure ((upto n).map (words8 l))

/-- A handover entry names an existing bank and its reserved bits are 0 (R346). -/
def handOk (s : State) (c h : Nat) : Bool :=
  let b := bits h 25 16
  bits h 63 27 == 0 && decide (b < 576) && (decide (b < 64) || decide ((b - 64) / 16 < (clu s c).ncell))

/-- Write the handovers of the start or of the end, one after another; a refused code is BAD_TASK (R276, R347). -/
def handovers (c p : Nat) (atEnd : Bool) : List Nat → EM Unit
  | [] => pure ()
  | h :: r => do
    let s ← get
    let b := bits h 25 16
    if bitAt h 26 != atEnd then handovers c p atEnd r
    else if codeOk s c b (bits h 15 0) then do
      modify (setOwner c b (bits h 15 0))
      handovers c p atEnd r
    else do
      modify (flagP p Reg.BNK_ERR 0)
      throw (.fail 0x01 0x0A_0006)

/-- The jobs of a list of a cluster entry. -/
def entJobs (t : Nat) (l : Nat × Nat) : List EJob := (upto l.2).map fun i => { addr := (l.1 + 64 * i) % 2 ^ 48, task := t }

/-- Place a task's contexts on a cell (R145, Table 5.3). -/
def placeCell (c k t : Nat) (s : State) : State :=
  let v := taskOf s t
  let rank := v.clus.idxOf c * v.ncell + (k - v.cellFirst)
  let total := v.clus.length * v.ncell
  let xs := (freeCtxs (cellOf s c k)).take v.nctx
  (upto xs.length).foldl (fun s i =>
    modCtx c k (xs.getD i 0) (fun x =>
      ((((({ x with st := .ready, pc := v.entry, g := [], task := some t, arrived := false, step := false }.setReg 1
        (BitVec.ofNat 64 v.arg)).setReg 2 (BitVec.ofNat 64 rank)).setReg 3 (BitVec.ofNat 64 total)).setReg 4
        (BitVec.ofNat 64 i)).setReg 5 (BitVec.ofNat 64 v.nctx))) s) s

/-- The stream lists of a task on engine e: engine, slot and list address (R308, R346). -/
def entLists (e : Nat) (w tab : List Nat) : List (Nat × Nat × Nat) :=
  ((upto 8).filter fun i => bitAt (entSmask w e) i).map fun i => (e, i, bits (dw tab i) 47 0)

/-- Step 3 goes on: every list whose slot is free starts, and once the last has started the contexts are placed; a slot that still
runs another list holds the dispatcher (R308, R347). -/
def goStart (c : Nat) (s : State) : State :=
  match (clu s c).starting with
  | none => s
  | some x =>
    let ready (l : Nat × Nat × Nat) : Bool := (slotOf s c l.1 l.2.1).idle
    let s := (x.lists.filter ready).foldl (fun s l => startList c l.1 l.2.1 x.task l.2.2 s) s
    let rest := x.lists.filter fun l => !ready l
    if rest.isEmpty then
      let s := modClu c (fun q => { q with starting := none }) s
      (taskCells (taskOf s x.task)).foldl (fun s k => placeCell c k x.task s) s
    else modClu c (fun q => { q with starting := some { x with lists := rest } }) s

/-- A stream table, read when its SMASK names a slot. -/
def rdStab (p e : Nat) (w : List Nat) : EM (List Nat) :=
  if entSmask w e = 0 then pure []
  else do
    let l ← rd .fw p none (bits (dw w (4 + e)) 47 0) 64
    pure ((upto 8).map (words8 l))

/-- The dispatcher's own checks of the task descriptor (R345). -/
def dspDesc (v : Task) : EM Unit := do
  let l ← rd .fw v.part none v.daddr 64
  if !taskCompl (words8 l) then throw (.fail 0x0D 0x0A_0007 (some v.daddr))
  else if !taskForm (words8 l) then throw (.fail 0x01 0x0A_0006 none) else pure ()

/-- Steps 1 to 3 of a start (R347). -/
def startTask (c t : Nat) (w : List Nat) : EM Unit := do
  let s ← get
  let v := taskOf s t
  dspDesc v
  if !entOk w then throw (.fail 0x01 0x0A_0006) else pure ()
  let hs ← rdHandovers v.part w
  let tab0 ← rdStab v.part 0 w
  let tab1 ← rdStab v.part 1 w
  if hs.any fun h => !handOk s c h then throw (.fail 0x01 0x0A_0006) else pure ()
  modify fun s => (upto 64).foldl (fun s f => if bitAt v.flags f then setFlag c f 0 s else s) s
  handovers c v.part false hs
  modify fun s =>
    let s := modClu c (fun q => Cluster.refill { q with
      dw := q.dw ++ entJobs t (entList w 0), vw := q.vw ++ entJobs t (entList w 1),
      gw := q.gw ++ entJobs t (entList w 2), uw := q.uw ++ entJobs t (entList w 3),
      starting := some { task := t, lists := entLists 0 w tab0 ++ entLists 1 w tab1 } }) s
    goStart c (dealGather c s)

/-- The wait of the first ready task for tokens is over. -/
def endWait (c : Nat) (s : State) : State :=
  match (clu s c).holdAt with
  | none => s
  | some h => bumpC c Reg.DSP_TOKEN_WAIT 0 ((s.now - h) / 25)
      (modClu c (fun q => { q with holdAt := none, barred := none }) s)

/-- The dispatcher has looked at its first ready task: its wait begins, or is over. -/
def noteWait (c : Nat) (s : State) : State :=
  match readyTasks s c with
  | [] => endWait c s
  | f :: _ =>
    if mayStart s c f.2 then endWait c s
    else if (clu s c).holdAt.isNone then modClu c (fun q => { q with holdAt := some s.now }) s
    else s

/-- The first task of a cluster that is not wholly started and needs a frozen master, with its ID (R347). -/
def firstFrozen (s : State) (c : Nat) : Option (Nat × Nat) :=
  let begun := (clu s c).starting.toList.map fun x => (x.task, taskOf s x.task)
  (begun ++ sortBy (taskBefore s) (queuedOn s c)).findSome? fun t =>
    match runEM (rdEntry c t.2) s with
    | .good w _ => (frozenNeed s c t.2 w).map fun m => (t.1, m)
    | .stop _ _ => none

/-- TASK_START: the dispatcher of a cluster goes on with the start it is in, and starts the ready task that R357 chooses (R347). -/
def execTaskStart (c : Nat) (s : State) : Out :=
  if 96 ≤ c then .fault .noSuchUnit
  else match firstFrozen s c with
    | some (t, m) =>
      let s := endReq (taskOf s t).req 0x07 m s
      .next (if (clu s c).starting.any fun x => x.task == t then stopTask t s else s)
    | none =>
      let s := noteWait c (goStart c s)
      match pickTask s c with
      | none => .next s
      | some (t, v) =>
        let ovr : Bool := decide (roomFor s (reqOf s v.req).cls v.part (clu s c).bud0 < demand s c v)
        let tok := if ovr then (clu s c).bud else demand s c v
        match runEM (rdEntry c v) s with
        | .stop e s => .next (dspStop c t e s)
        | .good w s =>
          match runEM (startTask c t w) (settleSeeds c s) with
          | .stop e s => .next (dspStop c t e s)
          | .good _ s =>
            let s := modTask t (fun v => { v with st := mset .unsent v.st c .running, tokens := mset 0 v.tokens c tok,
                                                  ovr := if ovr then c :: v.ovr else v.ovr }) s
            let s := if ovr then bumpC c Reg.DSP_OVERSIZE 0 1 s else s
            .next (bumpC c Reg.DSP_TASKS 0 1 s)

/-- DSP_HOLD_EXPIRY: the first ready task has waited DSP_HOLD without fitting; lower tasks are barred (R357). -/
def execDspHoldExpiry (c : Nat) (s : State) : Out :=
  if 96 ≤ c then .fault .noSuchUnit
  else match readyTasks s c with
    | [] => .next s
    | f :: r =>
      if mayStart s c f.2 || (clu s c).holdAt.isNone then .next s
      else
        let s := modClu c (fun q => { q with barred := some f.1 }) s
        .next (if r.isEmpty then s else flagP f.2.part Reg.DSP_ERR 1 s)

/-! ### Ending (R348, R349) -/

/-- The quantizer holds a job of the task. -/
def quantHolds (q : Cluster) (t : Nat) : Bool :=
  q.qq.any (fun j => j.task == some t) || match q.qrun with | some r => r.job.task == some t | none => false

/-- An engine of the cluster holds a job of the task, or has its DONE flag still to signal. -/
def enginesHold (s : State) (q : Cluster) (t : Nat) : Bool :=
  (q.dq ++ q.dw ++ q.vq ++ q.vw ++ q.gw ++ q.uj ++ q.uw ++ q.gq.flatMap fun l => l.2).any (fun j => j.task == t) ||
    q.starting.any (fun x => x.task == t) ||
    q.gRun.any (fun g => match g.2 with | some r => r.job.task == t | none => false) ||
    q.sig.any (fun x => match x.2 with | some v => v.2 == t | none => false) ||
    match q.ujRun with | some b => (batchOf s b).item == t | none => false

/-- The task holds a context or the engine of a cell. -/
def cellHolds (v : Cell) (t : Nat) : Bool := (tasksOn v).contains t || v.engOwner == some t

/-- A task has ended on a cluster (R348). -/
def taskEnded (s : State) (c t : Nat) : Bool :=
  let v := taskOf s t
  let q := clu s c
  mget .unsent v.st c == .running && s.reports.all (fun r => r.task != t) && !quantHolds q t && !enginesHold s q t &&
    !((listTasks q 0).contains t || (listTasks q 1).contains t) &&
    (taskCells v).all fun k => !cellHolds (cellOf s c k) t

/-- End handovers of a task on a cluster. -/
def endHandovers (c : Nat) (v : Task) : EM Unit := do
  let w ← rdEntry c v
  let hs ← rdHandovers v.part w
  handovers c v.part true hs

/-- TASK_END: a task has ended on a cluster; the last cluster of a LAST task ends the request (R348, R349). -/
def execTaskEnd (c t : Nat) (s : State) : Out :=
  if 96 ≤ c then .fault .noSuchUnit
  else if !taskEnded s c t then .next s
  else
    let v := taskOf s t
    match runEM (endHandovers c v) s with
    | .stop e s => .next (stopTaskOn c t (dspStop c t e s))
    | .good _ s =>
      let s := modTask t (fun v => { v with st := mset .unsent v.st c .ended, tokens := mset 0 v.tokens c 0,
                                            ovr := v.ovr.filter (· != c) }) s
      let s := bumpC c Reg.DSP_TASKS 32 1 s
      let all : Bool := v.clus.all fun k => mget .unsent (taskOf s t).st k == .ended
      .next (settleSeeds c (if all && v.last then finishReq v.req 0 0 (cmpIsland s (v.clus.headD c)) 0 s else s))

/-- DSP_HALT: a write of DSP_CTRL of instance n (Table 10.9). -/
def execDspHalt (p n : Nat) (halt : Bool) (s : State) : Out :=
  if 16 ≤ p then .fault .noSuchUnit
  else .next (hostWrite p true (fun s =>
    match instOf s p n with
    | none => s
    | some c => setCreg c Reg.DSP_CTRL (b2n halt) s) s)

/-! ### The power budget (R353, R354) -/

/-- Cap in effect of a partition in W, 0 where none is set (R388). -/
def capOf (s : State) (p : Nat) : Nat :=
  let m := bits (dreg s (Reg.PWR_PT_CAP_SET + 8 * p)) 15 0
  let r := (part s p).capReq
  if r = 0 then m else if m = 0 then r else min r m

/-- Cap a partition counts with: 16 W for each bound cluster when none is set (R354). -/
def capCount (s : State) (p : Nat) : Nat :=
  if (part s p).st = .unbound then 0 else if capOf s p = 0 then 16 * (clustersOf s p).length else capOf s p

/-- T_SOFT and T_HARD in effect (Table 10.9). -/
def tSoft (s : State) : Int := Int.ofNat (bits s.thermNow 7 0)
def tHard (s : State) : Int := Int.ofNat (min 105 (bits s.thermNow 15 8))

/-- The reading of a cluster's sensor; none when it gives none (Table 10.8). -/
def tempOf (s : State) (c : Nat) : Option Int :=
  let w := dreg s (Reg.PWR_TEMP + 8 * c)
  if bitAt w 8 then none else some (sext 8 w)

/-- The thermal factor as a fraction (R354). -/
def thermFactor (s : State) (c : Nat) : Nat × Nat :=
  match tempOf s c with
  | none => (1, 4)
  | some t =>
    if t < tSoft s then (1, 1)
    else
      let d := 4 * (tHard s - tSoft s)
      ((max (tHard s - tSoft s) (d - 3 * (t - tSoft s))).toNat, d.toNat)

/-- B0_c and B_c of a cluster of partition p: tokens of its share before and after the thermal factor (R354, R357). -/
def budgetOf (s : State) (p c total : Nat) : Nat × Nat :=
  let n := (clustersOf s p).length
  let num := 16 * capCount s p * if s.bdev < 10 * total then s.bdev else 1
  let den := n * if s.bdev < 10 * total then 10 * total else 1
  let f := thermFactor s c
  (num / den, num * f.1 / (den * f.2))

/-- R360 begins for a cluster at T_HARD and ends below T_HARD - 5. -/
def hotCheck (c : Nat) (s : State) : State :=
  match tempOf s c with
  | none => s
  | some t =>
    if tHard s ≤ t then setClocks c (modClu c (fun q => { q with hot := true }) (flagD Reg.PWR_ERR 1 s))
    else if (clu s c).hot && decide (t < tHard s - 5) then setClocks c (modClu c (fun q => { q with hot := false }) s)
    else s

/-- BUDGET_PERIOD: a 1 ms boundary, with the measured P_ext and P_hbm + P_io in W; the caps and the thermal thresholds
written since the last one take effect (R353, R354, R365). During a takeover the tokens stay as they are (R506). -/
def execBudgetPeriod (pext phio : Nat) (s : State) : Out :=
  let s := { s with capNow := dreg s Reg.PWR_DEV_CAP, thermNow := dreg s Reg.PWR_THERM }
  let s := (upto 96).foldl (fun s c => hotCheck c s) s
  if takingOver s then .next s
  else
  let b := 9 * (s.capNow - pext) - 10 * phio
  let s := setDreg Reg.PWR_MEASURED (pext % 65536 + phio % 65536 * 2 ^ 16 + b / 10 * 2 ^ 32) { s with bdev := b }
  let s := if b = 0 then flagD Reg.PWR_ERR 3 s else s
  let total := ((upto 16).map (capCount s)).sum
  .next ((upto 16).foldl (fun s p =>
    (clustersOf s p).foldl (fun s c =>
      let v := budgetOf s p c total
      let s := if (tempOf s c).isNone then flagD Reg.PWR_ERR 2 s else s
      modClu c (fun q => { q with bud0 := v.1, bud := v.2 }) s) s) s)

/-! ### The limiter (R358) and thermal limits (R360) -/

/-- Every settable cluster clock moves by one step. -/
def moveLimit (f : Nat → Nat) (s : State) : State :=
  (upto 96).foldl (fun s c => setClocks c (modClu c (fun q => { q with limCell := f q.limCell, limCmp := f q.limCmp }) s)) s

/-- LIMITER_STEP: the 100 ms average of the input power stands above the cap (R358). -/
def execLimiterStep (s : State) : Out :=
  let avg := bits (dreg s Reg.PWR_INPUT) 31 16
  let cap := s.capNow
  if 102 * cap < 100 * avg ∨ (s.limiting ∧ cap < avg) then
    .next (moveLimit (· + 1) (flagD Reg.PWR_ERR 0 { s with limiting := true }))
  else .next { s with limiting := false }

/-- LIMITER_RESTORE: the average stands below 98 % of the cap; one step is restored (R358). -/
def execLimiterRestore (s : State) : Out :=
  if 100 * bits (dreg s Reg.PWR_INPUT) 31 16 < 98 * s.capNow then
    .next (moveLimit (fun n => n - 1) { s with limiting := false })
  else .next s

/-- A cluster's sensor reading (R360). -/
def setTemp (c w : Nat) (s : State) : State := hotCheck c (setDreg (Reg.PWR_TEMP + 8 * c) w s)

/-- A write of PWR_THERM: refused when T_SOFT is above T_HARD - 5 (Table 10.9, R544). -/
def thermWrite (v : Nat) (s : State) : State :=
  let hard := clampN 60 105 (bits v 15 8)
  let soft := max 40 (bits v 7 0)
  if hard - 5 < soft then s else setDreg Reg.PWR_THERM (soft + hard * 256) s

/-- PWR_THERM_WRITE. -/
def execPwrThermWrite (v : Nat) (s : State) : Out := when (served s) (thermWrite v) s

/-! ### Brumation and OFF (R361, R362) -/

/-- No task, job, molt, fill or stream keeps the cluster awake. -/
def cluIdle (s : State) (c : Nat) : Bool :=
  let q := clu s c
  (queuedOn s c).isEmpty && (runningOn s c).isEmpty && q.starting.isNone && q.dq.isEmpty && q.dw.isEmpty && q.vq.isEmpty &&
    q.vw.isEmpty && q.qq.isEmpty && q.qrun.isNone &&
    q.gq.isEmpty && q.gw.isEmpty && q.gRun.isEmpty && q.sig.isEmpty && q.fills.isEmpty && q.uj.isEmpty &&
    q.uw.isEmpty && q.ujRun.isNone && q.bq.isEmpty && q.uq.isEmpty && q.infl.isEmpty && q.redo.isEmpty &&
    q.slots.all (fun x => x.2.st == 0) && !q.joining && !q.leaving

/-- The partition whose PWR_STATE_CFG rules a cluster. -/
def stateCfg (s : State) (c : Nat) : Nat := preg s (cluPart s c) Reg.PWR_STATE_CFG

/-- Every staging register of a cluster drains (Table 8.8). -/
def drainClu (c : Nat) (s : State) : State := (upto 576).foldl (fun s b => drainBank c b s) s

/-- BRUMATION_ENTRY (R362). -/
def execBrumationEntry (c : Nat) (s : State) : Out :=
  if 96 ≤ c then .fault .noSuchUnit
  else if !awake s c || !cluIdle s c || bits (stateCfg s c) 15 0 == 0 then .next s
  else
    let s := drainClu c s
    let cc := cellCycles s c
    let mc := cmpCycles s c
    .next (modClu c (fun q => { q with pw := .brum, cycCell := cc, cycCmp := mc, cycAt := s.now, wake := false }) s)

/-- A shard-map entry that names the cluster as HOME in this module (R226, Table 7.3). -/
def homesTable (s : State) (p c : Nat) (d : TabD) : Bool :=
  (upto (cdiv d.rows (2 ^ d.shlog))).any fun i =>
    match runEM (readShard .fw p d (i * 2 ^ d.shlog)) s with
    | .good sh _ => decide (sh.tier < 2) && sh.home == c
    | .stop _ _ => true

/-- The cluster's update engine is HOME of some shard of its partition. -/
def homesShard (s : State) (c : Nat) : Bool :=
  let p := cluPart s c
  (upto (bits (preg s p Reg.TBL_DIR_COUNT) 12 0)).any fun t =>
    match runEM (readTable .fw p t) s with
    | .good d _ => homesTable s p c d
    | .stop (.fail _ _ _) _ => false
    | .stop _ _ => true

/-- An event that wakes the cluster has come (R362). -/
def wakeCause (s : State) (c : Nat) : Bool :=
  let q := clu s c
  q.wake || !(queuedOn s c).isEmpty || !q.uq.isEmpty || !q.bq.isEmpty || !q.fills.isEmpty ||
    s.moves.any fun m => m.clu == c

/-- OFF_ENTRY (R362). -/
def execOffEntry (c : Nat) (s : State) : Out :=
  if 96 ≤ c then .fault .noSuchUnit
  else
    let w := stateCfg s c
    if (clu s c).pw != .brum || bits w 31 16 == 0 || !bitAt w 32 || homesShard s c || !cluIdle s c || wakeCause s c then .next s
    else .next (modClu c (fun q => { q with pw := .off }) s)

end Sys2Proof.Machine
end

