-- ==== Sys2Proof/Machine/Chorus.lean ====
section
/-!
DEFINITION. Chorus: program images sent to cells (R184 to R187).
-/
namespace Sys2Proof.Machine

/-- One bit of CRC-32 with the reflected IEEE 802.3 polynomial. -/
def crc32Bit (r : Nat) : Nat := if r % 2 = 1 then Nat.xor (r / 2) 0xEDB8_8320 else r / 2

/-- CRC-32 register after one byte. -/
def crc32Byte (r : Nat) (b : Byte) : Nat := (upto 8).foldl (fun r _ => crc32Bit r) (Nat.xor r b.toNat)

/-- CRC-32 of bytes (Table 5.14). -/
def crc32 (l : List Byte) : Nat := Nat.xor (l.foldl crc32Byte 0xFFFF_FFFF) 0xFFFF_FFFF

/-- CRC of a cell's words from a base on. -/
def wordsCrc (ws : List W64) : Nat := crc32 (ws.flatMap fun w => leBytes 8 w.toNat)

/-- Put segments on their way to a cell. -/
def sendImage (c k : Nat) (segs : List Seg) (cmd : Option (Nat × Nat)) (s : State) : State :=
  { s with chorus := s.chorus ++ segs.map fun g => { clu := c, cell := k, seg := g, cmd := cmd } }

/-- Put segments on their way to every enabled cell of a cluster. -/
def sendCluster (c : Nat) (segs : List Seg) (cmd : Option (Nat × Nat)) (s : State) : State :=
  (upto (clu s c).ncell).foldl (fun s k => sendImage c k segs cmd s) s

/-- A cell's contexts are all FREE, and it holds no task whose engine work still runs (R181, R185). -/
def allFree (v : Cell) : Bool :=
  ((upto 4).all fun x => (v.ctxOf x).st == .free && (v.ctxOf x).task.isNone) && v.engOwner.isNone

/-- The first segment on its way to a cell. -/
def chorusOf (s : State) (c k : Nat) : Option ChorusJob := s.chorus.find? fun j => j.clu == c && j.cell == k

/-- Replace the first segment on its way to a cell. -/
def modChorus (c k : Nat) (f : ChorusJob → List ChorusJob) : List ChorusJob → List ChorusJob
  | [] => []
  | j :: r => if j.clu = c ∧ j.cell = k then f j ++ r else j :: modChorus c k f r

/-- Write words into program memory from a base on, not marked as written. -/
def putWords (base : Nat) (ws : List W64) (v : Cell) : Cell :=
  ((upto ws.length).zip ws).foldl (fun v q => { v with
    pm := mset 0 v.pm (base + q.1) q.2, pmw := mset false v.pmw (base + q.1) false, pmEcc := merase v.pmEcc (base + q.1) }) v

/-- CHORUS_SEGMENT: the words of the next segment reach a cell whose contexts are FREE; `flip` is what the way changed
in its first word (R185, R186). -/
def execChorusSegment (c k flip : Nat) (s : State) : Out :=
  if 96 ≤ c ∨ 32 ≤ k then .fault .noSuchUnit
  else match chorusOf s c k with
    | none => .next s
    | some j =>
      if j.sent || !allFree (cellOf s c k) || !awake s c then .next s
      else
        let ws := match j.seg.words with
          | [] => []
          | w :: r => (w ^^^ BitVec.ofNat 64 flip) :: r
        .next (modCell c k (putWords j.seg.base ws)
          { s with chorus := modChorus c k (fun j => [{ j with sent := true }]) s.chorus })

/-- Mark a segment's words as written, and record its image (R185). -/
def markSegment (g : Seg) (v : Cell) : Cell :=
  { (upto g.words.length).foldl (fun v i => { v with pmw := mset false v.pmw (g.base + i) true }) v with imageId := g.id }

/-- The tick at which a word was reloaded after a PM_UNCORR is kept (Table 15.5). -/
def noteFix (now : Nat) (fix : Option Nat) (v : Cell) : Cell :=
  match fix with
  | some pc => { v with pmFix := mset 0 v.pmFix pc (now + 1) }
  | none => v

/-- The command that a segment's chorus serves, with the RLEN of its record: a CMD_LOAD_MODEL, or the command that moves the
cluster (R386, R414). -/
def chorusCmd (s : State) (j : ChorusJob) : Option (Nat × Cmd × Nat) :=
  match j.cmd with
  | some (f, seq) =>
    match (part s f).load with
    | some l => if l.cmd.seq = seq then some (f, l.cmd, l.idx) else none
    | none => none
  | none => (s.moves.find? fun m => m.clu == j.clu && m.joined).map fun m => (m.mbx, m.cmd, 0)

/-- A chorus has failed for good: a record that names the cell, with the command that the chorus serves, which fails (R186,
R545). A chorus that serves none leaves SUBJECT and HOST_TAG 0 (log 72). -/
def chorusFails (j : ChorusJob) (s : State) : State :=
  let p := (clu s j.clu).part
  let isl := cellIsland s j.clu j.cell
  let s := fwRecord (match chorusCmd s j with
    | some (f, c, rlen) => { cmdErr s f c 1 0x05_0008 rlen with part := p, island := isl, cycles := recCycles s isl }
    | none => { sev := 2, cls := 5, detail := 0x05_0008, part := p, island := isl, cycles := recCycles s isl }) s
  let s := { s with
    chorus := s.chorus.filter fun x => !(x.clu == j.clu && x.cell == j.cell && x.cmd == j.cmd)
    moves := s.moves.map fun m => if m.clu = j.clu then { m with failed := true } else m }
  match p, j.cmd with
  | some p, some _ => modPart p (fun q => { q with load := q.load.map fun l => { l with failed := true } }) s
  | _, _ => s

/-- CHORUS_CRC_REPORT: a cell reports the CRC of the words it wrote; a mismatch is resent twice at most (R186). -/
def execChorusCrcReport (c k : Nat) (s : State) : Out :=
  if 96 ≤ c ∨ 32 ≤ k then .fault .noSuchUnit
  else match chorusOf s c k with
    | none => .next s
    | some j =>
      if !j.sent then .next s
      else
        let v := cellOf s c k
        let ws := (upto j.seg.words.length).map fun i => mget 0 v.pm (j.seg.base + i)
        if wordsCrc ws = j.seg.crc then
          .next (modCell c k (fun v => noteFix s.now j.fix (markSegment j.seg v)) { s with chorus := modChorus c k (fun _ => []) s.chorus })
        else
          let s := modCell c k (fun v => { v with err := mset false v.err 3 true }) s
          if j.tries < 2 then
            .next { s with chorus := modChorus c k (fun j => [{ j with sent := false, tries := j.tries + 1 }]) s.chorus }
          else .next (chorusFails j s)

end Sys2Proof.Machine
end

