-- ==== Sys2Proof/Machine/Resets.lean ====
section
/-!
DEFINITION. Wake from brumation and OFF (R289, R362), and the cell, cluster and partition resets (R99, R188, R423 to
R427).
-/
namespace Sys2Proof.Machine

/-! ### Cell reset (R99, R188, R424) -/

/-- Blocks that a cell holds unreleased, each with its sweep: those open in the reorder unit and those not begun. -/
def cellBlocks (v : Cell) : List (Sweep × Block) :=
  ((v.opened.map fun o => o.blk) ++ v.rq.filter fun b => b.taken == 0).filterMap fun b =>
    (v.sweepAt b.sweep).map fun w => (w, { b with staged := none, taken := 0, sweep := 0 })

/-- Blocks given to a cell that it has not received: they belong to its running sweep. -/
def incoming (s : State) (c k : Nat) : List (Sweep × Block) :=
  match (cellOf s c k).run with
  | none => []
  | some w => s.given.filterMap fun g => if g.thief = 32 * c + k then g.blk.map fun b => (w, b) else none

/-- What a cell keeps over a reset: program memory with its marks, its image, and what others hold against it (R188). -/
def Cell.kept (v : Cell) : Cell :=
  { pm := v.pm, pmw := v.pmw, pmEcc := v.pmEcc, pmFix := v.pmFix, imageId := v.imageId, frozen := v.frozen, quiet := v.quiet }

/-- Running sweeps that a returned block belongs to search the steal pool again. -/
def researchSweep (t idx : Nat) (v : Cell) : Cell :=
  { v with run := v.run.map fun w => if w.task = t ∧ w.idx = idx then { w with searchDone := false } else w }

/-- A block goes back whole to the steal pool of its sweep (R99). -/
def toPool (q : Sweep × Block) (s : State) : State :=
  { s with pool := s.pool ++ [{ task := q.1.task, idx := q.1.idx, blk := q.2 }]
           cells := mmap {} (fun _ v => researchSweep q.1.task q.1.idx v) s.cells }

/-- No context of the cell waits any more for the acknowledgement of its GIVE. -/
def dropGivers (c k : Nat) (s : State) : State :=
  { s with banks := mmap {} (fun _ b => match b.giver with
      | some g => if g / 4 = 32 * c + k then { b with giver := none } else b
      | none => b) s.banks }

/-- Reset a cell: its STEAL = 1 blocks go to their pools, everything but program memory is cleared. -/
def resetCell (c k : Nat) (s : State) : State :=
  let v := cellOf s c k
  let bl := (cellBlocks v ++ incoming s c k).filter fun q => q.1.steal
  let s := { s with given := s.given.filter fun g => g.thief != 32 * c + k }
  let s := dropGivers c k (modCell c k Cell.kept s)
  let s := bl.foldl (fun s q => toPool q s) s
  (upto 16).foldl (fun s j => drainBank c (64 + 16 * k + j) s) s

/-- The task of an unreleased block of a STEAL = 0 sweep fails (R424). -/
def fixedBlock (s : State) (c k : Nat) : Option Nat :=
  ((cellBlocks (cellOf s c k)).find? fun q => !q.1.steal).map fun q => q.1.task

/-- A reset in progress covers the cluster: that of its partition, or of the device (R427). -/
def inReset (s : State) (c : Nat) : Bool :=
  s.stage != 5 || match (clu s c).part with
    | some p => (part s p).st == .resetting
    | none => false

/-- A cell reset; the task of an unreleased block that no other cell can take fails (R424). -/
def absorbCell (c k : Nat) (s : State) : State :=
  let t := fixedBlock s c k
  let s' := resetCell c k s
  match t with
  | none => s'
  | some t =>
    let ts := taskTag s t
    report t 0x01 0x0C_0009 c
      (fwRecord (itemErr s 0x01 0x0C_0009 (taskOf s t).part (cellIsland s c k) none ts.1 ts.2) s')

/-- A cell reset is asked for; within a reset of a higher level it is dropped (R427). -/
def askCell (c k : Nat) (s : State) : State := if inReset s c then flagD Reg.PMAP_ERR 2 s else absorbCell c k s

/-- CELL_RESET (R424, R427). -/
def execCellReset (c k : Nat) (s : State) : Out :=
  if 96 ≤ c ∨ 32 ≤ k then .fault .noSuchUnit else .next (askCell c k s)

/-! ### Waking (R289, R361, R362) -/

/-- A key lies in a bank of the cluster. -/
def inClu (c k : Nat) : Bool := decide (k < 2 ^ 37) && bits k 36 30 == c

/-- Every bank of a cluster is cleared, with valid check symbols (R289). -/
def clearBanks (c : Nat) (s : State) : State :=
  { s with mem := s.mem.filter (fun q => !inClu c q.1), ecc := s.ecc.filter (fun q => !inClu c q.1) }

/-- Owners of every bank of a cluster become NONE, staging registers empty (Table 8.8). -/
def clearOwners (c : Nat) (s : State) : State := { s with banks := s.banks.filter fun q => q.1 / 576 != c }

/-- What removal of power leaves of a cluster: its clocks and counters begin anew (R27, R129, R188, R217, R289). -/
def powerOn (c : Nat) (s : State) : State :=
  let s := reseedClu c (clearOwners c (clearBanks c s))
  let s := (upto 32).foldl (fun s k => modCell c k (fun v => { frozen := v.frozen, quiet := v.quiet }) s) s
  let s := modClu c (fun q => { q with flags := [], cst := [], cstSh := [], stats := [], snap := [], slots := [],
                                       cycCell := 0, cycCmp := 0, cycAt := s.now }) s
  match (clu s c).part with
  | some p => sendCluster c (part s p).image none s
  | none => s

/-- Serve the host-window accesses that waited for the cluster (R362). -/
def serveWin (c : Nat) (s : State) : State :=
  let mine := s.winQ.filter fun q => sleepsAt s q.part q.addr == some c
  let s' := { s with winQ := s.winQ.filter fun q => sleepsAt s q.part q.addr != some c }
  mine.foldl (fun s q => winAccess q false s) (modClu c (fun q => { q with pw := .on }) s')

/-- The cluster is awake again. -/
def wakeClu (c : Nat) (s : State) : State :=
  match (clu s c).pw with
  | .on => s
  | .brum => modClu c (fun q => { q with wake := false }) (serveWin c (modClu c (fun q => { q with cycAt := s.now }) s))
  | .off => modClu c (fun q => { q with wake := false }) (serveWin c (powerOn c s))

/-- WAKE_COMPLETE (R362). -/
def execWakeComplete (c : Nat) (s : State) : Out :=
  if 96 ≤ c then .fault .noSuchUnit else when (!awake s c && wakeCause s c) (wakeClu c) s

/-! ### Cluster reset (R350, R423, Table 7.11, Table 12.7a) -/

/-- Cluster registers that a cluster reset keeps. -/
def keptClu (o : Nat) : Bool :=
  o == Reg.UPD_CACHE_BANKS || o == Reg.UPD_CACHE_CFG || o == Reg.UPD_CTRL || o == Reg.QNT_CTRL || o == Reg.QNT_CST_INDEX ||
    o == Reg.QNT_ERR || o == Reg.QNT_LAST_RESULT || o == Reg.QNT_JOB_ADDR ||
    o == Reg.DSP_CTRL || o == Reg.PWR_CLK || o == Reg.STR_LEAD || o == Reg.STR_LEAD + 0x200 ||
    (upto 4).any (fun j => o == gpeReg j Reg.GPE_CTRL) ||
    (decide (Reg.STR_ARM_DESC ≤ o) && decide (o < Reg.STR_ARM_DESC + 64)) ||
    (decide (Reg.STR_ARM_DESC + 0x200 ≤ o) && decide (o < Reg.STR_ARM_DESC + 0x200 + 64))

/-- Everything the engines of a cluster hold is discarded; entries waiting at the update engine stay (Table 7.11). -/
def emptyEngines (q : Cluster) : Cluster :=
  { q with sig := [], dq := [], vq := [], dw := [], vw := [], gq := [], gw := [], gRun := [], fills := [], invs := [],
           uj := [], uw := [], ujRun := none, slots := [], starting := none }

/-- What a cluster reset clears beyond them: its counters, flags and statistic slots. -/
def clearCounts (q : Cluster) : Cluster :=
  { q with stats := [], snap := [], flags := [], ldTurn := [], regs := q.regs.filter fun x => keptClu x.1 }

/-- The update jobs of a cluster's tasks no longer report to them. -/
def orphanJobs (c : Nat) (s : State) : State :=
  { s with batches := mmap {} (fun _ b => if b.kind = 2 ∧ b.clu = c then { b with kind := 3 } else b) s.batches }

/-- A task that the reset interrupts is dispatched again once; a second reset ends its request (R350). -/
def redispatch (c t : Nat) (s : State) : State :=
  let v := taskOf s t
  if v.redone then
    let ts := taskTag s t
    report t 0x01 0x0A_0008 c
      (fwRecord (itemErr s 0x01 0x0A_0008 v.part (cmpIsland s c) none ts.1 ts.2) (flagP v.part Reg.DSP_ERR 0 s))
  else modTask t (fun v => { v with st := mset .unsent v.st c .queued, tokens := mset 0 v.tokens c 0,
                                    ovr := v.ovr.filter (· != c), redone := true }) s

/-- What a cluster reset does to the cluster's units. -/
def resetUnits (c : Nat) (s : State) : State :=
  let s := drainClu c (resetQuant c (resetMolts c s))
  let s := (upto 32).foldl (fun s k => resetCell c k s) s
  let s := clearTags c (fun _ => true) s
  orphanJobs c (dropReads (fun c' _ => c' == c) (modClu c (fun q => clearCounts (emptyEngines q)) s))

/-- Reset a cluster. -/
def resetClu (c : Nat) (s : State) : State :=
  let ts := (runningOn s c).map fun t => t.1
  ts.foldl (fun s t => redispatch c t s) (resetUnits c (wakeClu c s))

/-- A cluster reset is asked for; within a reset of a higher level it is dropped (R427). -/
def askClu (c : Nat) (s : State) : State := if inReset s c then flagD Reg.PMAP_ERR 2 s else resetClu c s

/-- CLUSTER_RESET (R350, R423, R427). -/
def execClusterReset (c : Nat) (s : State) : Out :=
  if 96 ≤ c then .fault .noSuchUnit else .next (askClu c s)

/-! ### Partition reset (R425) -/

/-- Molts and entries of the partition's batches, wherever their home engine is, are discarded; another partition's
entries at its engines end with RESET_FAIL (Table 7.11). -/
def discardMolts (p : Nat) (s : State) : State :=
  (upto 96).foldl (fun s c =>
    let q := clu s c
    let mine : Bool := q.part == some p
    let es := q.uq ++ q.redo ++ q.infl.map fun m => m.ent
    let others := if mine then es.filter fun e => e.src != p else []
    let keep (e : UEntry) : Bool := e.src != p && !mine
    if es.isEmpty then s
    else others.foldl (fun s e => giveOutcome c e 0x07 0 s)
      (modClu c (fun q => { q with uq := q.uq.filter keep, redo := q.redo.filter keep, infl := q.infl.filter fun m => keep m.ent }) s)) s

/-- Every batch of the partition completes with PARTITION_RESET. -/
def endBatches (p status detail : Nat) (s : State) : State :=
  ((s.batches.filter fun b => b.2.part == p).map fun b => b.1).foldl (fun s b => endBatch b status detail s) s

/-- Partition registers that a partition reset clears: counters, and what Table 12.7a names. -/
def clearedPart (o : Nat) : Bool :=
  [Reg.BNK_HBM_ECC, Reg.BNK_BULK_ERR, Reg.TBL_ROW_FAILED, Reg.DSP_ADMIT, Reg.DSP_SHED, Reg.DSP_LATE, Reg.STR_PERR,
   Reg.PT_RECLAIM_FAIL, Reg.ERR_PCOUNT, Reg.ERR_PCOUNT2].contains o

/-- A stream engine's register that a reset of its partition or cluster clears (R334). -/
def strCleared (o : Nat) : Bool := decide (0x1_0000 ≤ o) && decide (o < 0x1_0400) && !keptClu o

/-- The units of a cluster of the partition: contexts are free, engines empty, frozen masters released, seeds reapplied
(R334, R425 steps 2 and 4). -/
def partClu (c : Nat) (s : State) : State :=
  let s := drainClu c (resetQuant c s)
  let s := (upto 32).foldl (fun s k => modCell c k (fun v =>
    { ((upto 4).foldl (fun v x => v.modCtx x Ctx.freed) v).flush with frozen := false }) s) s
  reseedClu c (modClu c (fun q => { emptyEngines q with
    invs := q.invs, cstSh := [], clkSh := none, quietM := [], regs := q.regs.filter fun x => !strCleared x.1 }) s)

/-- Cluster moves of the partition that have not passed their drain step end with PARTITION_RESET and leave their
cluster where it was (R427). -/
def cancelMoves (p : Nat) (s : State) : State :=
  let mine (m : Move) : Bool := !m.joined && (m.src == some p || m.dst == some p)
  (s.moves.filter mine).foldl (fun s m => dueCmd m.mbx m.cmd 0x06 0 0 (modClu m.clu (fun q => { q with leaving := false }) s))
    { s with moves := s.moves.filter fun m => !mine m }

/-- A cluster move of the partition has passed its drain step and is not complete (R427). -/
def moveLate (s : State) (p : Nat) : Bool := s.moves.any fun m => m.joined && (m.src == some p || m.dst == some p)

/-- Steps 1 to 4 of a partition reset: open items end with a status (R425). -/
def beginReset (p status detail : Nat) (s : State) : State :=
  let s := cancelMoves p s
  let s := modPart p (fun q => { q with st := .resetting }) s
  let s := endAll p status detail s
  let s := endBatches p status detail (discardMolts p s)
  let s := (clustersOf s p).foldl (fun s c => partClu c s) s
  let s := { s with reports := s.reports.filter fun r => (taskOf s r.task).part != p
                    remotes := s.remotes.filter fun r => r.part != p }
  let s := loseRecords (mbxOf s p).held.length (modMbx p (fun m => { m with held := [], target := none }) s)
  modPart p (fun q => { q with
    combine := [], frozen := [], violMaster := 0, violKind := 0, violValid := false, violOvf := 0, violAddr := 0,
    arrivals := false, hostBar := [], regs := q.regs.filter fun x => !clearedPart x.1 }) s

/-- Records of a partition that are due and cannot be written. -/
def dropDue (p : Nat) (s : State) : State :=
  let n := (s.due.filter fun d => d.mbx == p).length
  loseRecords n { s with due := s.due.filter fun d => d.mbx != p }

/-- Step 5: the request table's entries are freed, the MBX registers cleared, and PT_STATE reads ACTIVE. -/
def finishReset (p : Nat) (s : State) : State :=
  let s := dropDue p s
  let s := { s with reqs := s.reqs.filter (fun q => q.2.part != p), tasks := s.tasks.filter fun t => t.2.part != p }
  modPart p (fun q => { q with st := .active })
    { s with mbx := merase s.mbx p, pmapReset := s.pmapReset.filter fun r => r != p }

/-- A partition reset is asked for; it waits for a late move (R427). -/
def askPart (p : Nat) (s : State) : State :=
  match (part s p).st with
  | .unbound => s
  | .resetting => flagD Reg.PMAP_ERR 2 s
  | _ => if s.stage ≠ 5 then flagD Reg.PMAP_ERR 2 s else if moveLate s p then s else beginReset p 0x06 0 s

/-- The reset of a partition can end: its records are written, or its mailbox is disabled. -/
def resetEnds (s : State) (p : Nat) : Bool :=
  (part s p).st == .resetting && (part s p).unbind.isNone && served s &&
    (!mbxEnabled s p || s.due.all fun d => d.mbx != p)

/-- PARTITION_RESET: a reset is issued, or, with `finish`, the one in progress ends once its records are written
(R425, R427). -/
def execPartitionReset (p : Nat) (finish : Bool) (s : State) : Out :=
  if 16 ≤ p then .fault .noSuchUnit
  else if finish then when (resetEnds s p) (finishReset p) s
  else .next (askPart p s)

end Sys2Proof.Machine
end

