-- ==== Sys2Proof/Machine/Partitions.lean ====
section
/-!
DEFINITION. Rebinding (R407 to R414), scrub (R416, R417) and the release of frozen masters (R422).
-/
namespace Sys2Proof.Machine

/-! ### The checks of R411 -/

/-- Details of Table 12.7. -/
def dNotBound : Nat := 0x0C_0001
def dBadResource : Nat := 0x0C_0002
def dHeld : Nat := 0x0C_0003
def dOverlap : Nat := 0x0C_0004
def dOrder : Nat := 0x0C_0005
def dBusy : Nat := 0x0C_0006

/-- The extent that a bind of KIND 2 or 3 names (Table 12.2). -/
def extentOf (bulk : Bool) (a : Nat) : Extent :=
  if bulk then { ports := bits a 7 4, lo := bits a 27 16, hi := bits a 43 32 }
  else { first := bits a 12 4, n := bits a 21 13 + 1, lo := bits a 28 24, hi := bits a 36 32 }

/-- The extent lies in what the module has enabled: channels of stacks that serve, units below the expanders' capacities
(R294, Table 14.2). -/
def extentOk (s : State) (bulk : Bool) (e : Extent) : Bool :=
  if bulk then decide (e.ports ≠ 0) && decide (e.lo < e.hi) && (portsOf e.ports).all fun q => decide (e.hi ≤ mget 0 s.bulkCap q)
  else decide (e.first + e.n ≤ 32 * nStacks s) && decide (e.lo < e.hi) && decide (e.hi ≤ 24) &&
    (upto 16).all fun k => !(bitAt s.stackOff k && decide (e.first < 32 * k + 32) && decide (32 * k < e.first + e.n))

/-- Two extents share a unit of a channel or port. -/
def extentsMeet (bulk : Bool) (a b : Extent) : Bool :=
  (if bulk then decide (Nat.land a.ports b.ports ≠ 0)
   else decide (a.first < b.first + b.n) && decide (b.first < a.first + a.n)) &&
    decide (a.lo < b.hi) && decide (b.lo < a.hi)

/-- Extents of a partition in effect, and those that show at the next epoch. -/
def extentsOf (s : State) (bulk : Bool) (p : Nat) : List Extent := if bulk then (part s p).bulk else (part s p).hbm
def extentsNext (s : State) (bulk : Bool) (p : Nat) : List Extent := if bulk then (part s p).bulkNext else (part s p).hbmNext

/-- A partition but p, or any of them for 16, holds a unit of the extent. -/
def extentHeld (s : State) (bulk : Bool) (p : Nat) (e : Extent) : Bool :=
  (upto 16).any fun r => r != p && (extentsOf s bulk r ++ extentsNext s bulk r).any (extentsMeet bulk e)

/-- Sum over the partitions but p. -/
def sumOthers (s : State) (p : Nat) (f : Part → Nat) : Nat := (((upto 16).filter (· != p)).map fun r => f (part s r)).sum

/-- The detail with which firmware refuses a bind, in the order of R411. -/
def bindDetail (s : State) (p kind a : Nat) (move : Bool) : Option Nat :=
  if kind ≠ 0 ∧ (part s p).st = .unbound then some dNotBound
  else match kind with
  | 0 =>
    let vf := bits a 6 2
    if vf = 0 ∨ 16 < vf ∨ 65536 < bits a 32 16 then some dBadResource
    else if (part s p).st ≠ .unbound ∨ (upto 16).any (fun r => (part s r).st != .unbound && (part s r).port == bits a 1 0 &&
        (part s r).vf == vf) then some dHeld
    else if 65536 < sumOthers s p (fun q => q.quota) + bits a 32 16 then some dOverlap
    else none
  | 1 =>
    let c := bits a 6 0
    if 96 ≤ c ∨ (clu s c).vacant then some dBadResource
    else if (if move then (clu s c).part ≠ some (bits a 11 8) ∨ bits a 11 8 = p else (clu s c).part ≠ none) then some dHeld
    else if s.moves.any fun m => m.clu == c then some dBusy
    else none
  | 2 | 3 =>
    let bulk : Bool := kind == 3
    let e := extentOf bulk a
    let i := if bulk then bits a 2 0 else bits a 3 0
    if !extentOk s bulk e then some dBadResource
    else if (extentsNext s bulk p).any (extentsMeet bulk e) then some dHeld
    else if extentHeld s bulk p e then some dOverlap
    else if i ≠ (extentsNext s bulk p).length then some dOrder
    else if i < (extentsOf s bulk p).length ∨ (!bulk ∧ s.hbmCopy.any fun x => e.first ≤ x.1 && x.1 < e.first + e.n)
      then some dBusy
    else none
  | 4 =>
    let q := netqOf s (bits a 9 0)
    if q.part ≠ none then some dHeld else none
  | 5 =>
    let l := bits a 3 0
    if shareOf (part s p) l 0 ≠ 0 ∨ shareOf (part s p) l 1 ≠ 0 then some dHeld
    else if 256 < sumOthers s p (shareOf · l 0) + bits a 15 8 ∨ 256 < sumOthers s p (shareOf · l 1) + bits a 23 16
      then some dOverlap
    else none
  | 6 =>
    if 65536 < bits a 16 0 then some dBadResource
    else if 65536 < sumOthers s p (fun q => q.quota) + bits a 16 0 then some dOverlap
    else none
  | _ => some dBadResource

/-- The detail with which firmware refuses an unbind. -/
def unbindDetail (s : State) (p kind a : Nat) : Option Nat :=
  if (part s p).st = .unbound then some dNotBound
  else match kind with
  | 0 => none
  | 1 =>
    let c := bits a 6 0
    if 96 ≤ c ∨ (clu s c).vacant then some dBadResource
    else if (clu s c).part ≠ some p then some dHeld
    else if s.moves.any fun m => m.clu == c then some dBusy
    else none
  | 2 | 3 =>
    let bulk : Bool := kind == 3
    let i := if bulk then bits a 2 0 else bits a 3 0
    let next := extentsNext s bulk p
    if i + 1 ≠ next.length then some dOrder
    else if (extentsOf s bulk p).length ≤ i ∨ (!bulk ∧ s.hbmCopy.any fun x =>
        (next.getLast?.any fun e => e.first ≤ x.1 && x.1 < e.first + e.n)) then some dBusy
    else none
  | 4 =>
    let q := netqOf s (bits a 9 0)
    if q.part ≠ some p then some dHeld else if q.unbind.isSome then some dBusy else none
  | 5 =>
    let l := bits a 3 0
    if shareOf (part s p) l 0 = 0 ∧ shareOf (part s p) l 1 = 0 then some dHeld else none
  | _ => some dBadResource

/-! ### Extents (R412) -/

/-- Firmware arrives for the host when every other participant has arrived and a change of extents waits (R412). -/
def arriveFor (p : Nat) (s : State) : State :=
  if !(part s p).atRelease.isEmpty && (missing s p).isEmpty then modPart p (fun q => { q with arrivals := true }) s else s

/-- The record that a command of extents has at the release. -/
def releaseDue (s : State) (f : Nat) (c : Cmd) : Due :=
  { mbx := f, tag := c.tag, seq := c.seq, island := fwIsland s f, fvis := c.fvis, noirq := c.noirq }

/-- Bind an extent: it shows at the next release. -/
def bindExtent (f : Nat) (c : Cmd) (p : Nat) (bulk scrub : Bool) (e : Extent) (s : State) : State :=
  let d := releaseDue s f c
  let s := if scrub then clearExtent bulk e s else s
  arriveFor p (modPart p (fun q => { q with
    hbmNext := if bulk then q.hbmNext else q.hbmNext ++ [e], bulkNext := if bulk then q.bulkNext ++ [e] else q.bulkNext,
    atRelease := q.atRelease ++ [d] }) s)

/-- Unbind the last extent: it leaves at the next release, and is cleared then if asked. -/
def unbindExtent (f : Nat) (c : Cmd) (p : Nat) (bulk scrub : Bool) (s : State) : State :=
  let d := releaseDue s f c
  let e := (extentsNext s bulk p).getLast?.getD {}
  arriveFor p (modPart p (fun q => { q with
    hbmNext := if bulk then q.hbmNext else q.hbmNext.dropLast, bulkNext := if bulk then q.bulkNext.dropLast else q.bulkNext,
    scrubs := if scrub then q.scrubs ++ [(bulk, e)] else q.scrubs, atRelease := q.atRelease ++ [d] }) s)

/-! ### Clusters (R414) -/

/-- Rewrite the shard-map entry of shard i of a table if it names cluster c as HOME (R229). -/
def rehomeShard (p c c' : Nat) (d : TabD) (s : State) (i : Nat) : State :=
  match runEM (readShard .fw p d (i * 2 ^ d.shlog)) s with
  | .stop _ s => s
  | .good sh s =>
    if 2 ≤ sh.tier ∨ sh.home ≠ c then s
    else
      let m : EM Unit := do
        let w ← rdN .fw p none (d.smap + 16 * i) 8
        wrN .fw p none (d.smap + 16 * i) 8 (w - bits w 14 8 * 256 + c' * 256)
      match runEM m s with
      | .good _ s => s
      | .stop _ s => s

/-- Rewrite every shard-map entry of partition p that names cluster c to name c' (R229). -/
def rehome (p c c' : Nat) (s : State) : State :=
  (upto (bits (preg s p Reg.TBL_DIR_COUNT) 12 0)).foldl (fun s t =>
    match runEM (readTable .fw p t) s with
    | .stop _ s => s
    | .good d s => (upto (cdiv d.rows (2 ^ d.shlog))).foldl (rehomeShard p c c' d) s) s

/-- The entries that a cluster's update engine holds, in the order in which it takes them. -/
def heldEntries (q : Cluster) : List UEntry := q.redo ++ q.uq

/-- The lowest cluster that stays in partition p when c leaves it. -/
def heirOf (s : State) (p c : Nat) : Option Nat := (clustersOf s p).find? (· != c)

/-- Cluster c leaves partition p: its shards and its queued entries go to the lowest cluster that stays (R229). -/
def leaveShards (p c : Nat) (s : State) : State :=
  let es := heldEntries (clu s c)
  let s := modClu c (fun q => { q with uq := [], redo := [] }) s
  match heirOf s p c with
  | some c' =>
    modClu c' (fun q => { q with uq := q.uq ++ es.map fun e => { e with shard := { e.shard with home := c' } } })
      (rehome p c c' s)
  | none => es.foldl (fun s e => giveOutcome c e 0x02 0 s) s

/-- A frozen master's ID belongs to a cluster. -/
def midOf (c mid : Nat) : Bool := decide (1 ≤ mid % 16) && decide (mid % 16 ≤ 4) && bits mid 10 4 == c

/-- Cells, flags, tags, owners and channel scales of a cluster that leaves or joins (R414 step 4). -/
def bareClu (c : Nat) (s : State) : State :=
  let s := (upto 32).foldl (fun s k => resetCell c k s) s
  let s := setCreg c Reg.UPD_CACHE_BANKS 0 (clearTags c (fun _ => true) s)
  bindOwners c (modClu c (fun q => { q with flags := [], cst := [], cstSh := [], fills := [], invs := [] }) (drainClu c s))

/-- Frozen masters of the cluster go with it: a free cluster holds them until a partition takes it (R422). -/
def moveFrozen (c : Nat) (src dst : Option Nat) (s : State) : State :=
  let ms := match src with
    | some p => (part s p).frozen.filter (midOf c)
    | none => (clu s c).frz
  let s := match src with
    | some p => modPart p (fun q => { q with frozen := q.frozen.filter fun m => !midOf c m }) s
    | none => s
  match dst with
  | some p => modPart p (fun q => { q with frozen := q.frozen ++ ms }) (modClu c (fun q => { q with frz := [] }) s)
  | none => modClu c (fun q => { q with frz := ms }) s

/-- Steps 3 to 7 of a move, once its drain step is passed. -/
def joinClu (m : Move) (s : State) : State :=
  let c := m.clu
  let s := match m.src with
    | some p => leaveShards p c s
    | none => s
  let s := bareClu c s
  let s := if m.scrub then clearBanks c s else s
  let s := moveFrozen c m.src m.dst s
  let s := reseedClu c (modClu c (fun q => { q with part := m.dst, leaving := false, joining := m.dst.isSome }) s)
  let s := match m.dst with
    | some p => sendCluster c (part s p).image none s
    | none => s
  { s with moves := s.moves.map fun x => if x.clu = c then { x with joined := true } else x }

/-- The drain step of a move is passed: no task, no batch, no molt of the cluster is left (R414 steps 2 and 3). -/
def drained (s : State) (c : Nat) : Bool :=
  let q := clu s c
  awake s c && (runningOn s c).isEmpty && (queuedOn s c).isEmpty && q.infl.isEmpty && q.bq.isEmpty && q.ujRun.isNone && q.starting.isNone

/-- Step 8: the command completes. -/
def endMove (m : Move) (s : State) : State :=
  let s := { s with moves := s.moves.filter fun x => x.clu != m.clu }
  let s := if m.src.isSome && m.dst.isSome then bumpD Reg.PMAP_MOVES 0 1 s else s
  if m.failed then dueCmd m.mbx m.cmd 1 0x05_0008 0 s else endCmd m.mbx m.cmd 0 0 0 s

/-- The cluster that takes over the entries of one that leaves has room for them (R261). -/
def heirRoom (s : State) (m : Move) : Bool :=
  match m.src.bind fun p => heirOf s p m.clu with
  | some c' => decide ((clu s c').uq.length + (heldEntries (clu s m.clu)).length ≤ 1024)
  | none => true

/-- A move can go on. -/
def moveGoes (s : State) (m : Move) : Bool :=
  if m.joined then s.chorus.all fun j => j.clu != m.clu else drained s m.clu && heirRoom s m

/-- Start a bind, move or unbind of a cluster (R414 step 1). -/
def beginMove (m : Move) (s : State) : State :=
  modClu m.clu (fun q => { q with leaving := true }) { s with moves := s.moves ++ [m] }

/-! ### Queues and functions (R412) -/

/-- Every batch the queue took in has completed and is acknowledged. -/
def queueIdle (s : State) (q : Nat) : Bool :=
  s.batches.all (fun b => !(b.2.kind == 1 && b.2.item == q)) && s.acks.all fun a => a.1.item != q

/-- The unbound queue leaves its partition. -/
def freeQueue (q : Nat) (s : State) : State := modNetq q (fun v => { v with part := none, unbind := none, mode := 0 }) s

/-- A queue leaves with its function; the command that unbinds it by itself, if one is open, completes. -/
def closeQueue (q : Nat) (v : NetQ) (s : State) : State :=
  let s := freeQueue q s
  match v.unbind with
  | some u => endCmd u.1 u.2 0 0 0 s
  | none => s

/-- The partition reset of a function's unbind is done: every other resource is unbound, and the records that waited for a
release become due (R412). -/
def unbindAll (p : Nat) (scrub : Bool) (s : State) : State :=
  let q := part s p
  let s := (clustersOf s p).foldl (fun s c => joinClu { clu := c, src := some p, scrub := scrub } s) s
  let s := (s.netq.filter fun x => x.2.part == some p).foldl (fun s x => closeQueue x.1 x.2 s) s
  let s := if scrub then q.hbm.foldl (fun s e => clearExtent false e s) (q.bulk.foldl (fun s e => clearExtent true e s) s)
    else s
  q.atRelease.foldl (fun s d => dueNow d s) { s with parts := merase s.parts p }

/-- The function's unbind can go on: its records are written and its queues have acknowledged their batches. -/
def unbindGoes (s : State) (p : Nat) : Bool :=
  served s && (!mbxEnabled s p || s.due.all fun d => d.mbx != p) && s.acks.all fun a => a.1.part != p

/-! ### CMD_BIND and CMD_UNBIND -/

/-- Bind a resource that R411 does not refuse. -/
def bindRun (f : Nat) (c : Cmd) (p kind : Nat) (s : State) : State :=
  let a := c.a 1
  let scrub := bitAt (c.a 0) 8
  match kind with
  | 0 =>
    let s := { s with parts := mset {} s.parts p { st := .active, port := bits a 1 0, vf := bits a 6 2, quota := bits a 32 16 }
                      mbx := merase s.mbx p }
    endCmd f c 0 0 0 s
  | 1 =>
    beginMove { mbx := f, cmd := c, clu := bits a 6 0, src := (clu s (bits a 6 0)).part, dst := some p, scrub := scrub } s
  | 2 => bindExtent f c p false scrub (extentOf false a) s
  | 3 => bindExtent f c p true scrub (extentOf true a) s
  | 4 => endCmd f c 0 0 0 (modNetq (bits a 9 0) (fun q => { q with part := some p }) s)
  | 5 =>
    endCmd f c 0 0 0 (modPart p (fun q => { q with
      shares := mset 0 (mset 0 q.shares (2 * bits a 3 0) (bits a 15 8)) (2 * bits a 3 0 + 1) (bits a 23 16) }) s)
  | _ => endCmd f c 0 0 0 (modPart p (fun q => { q with quota := bits a 16 0 }) s)

/-- Unbind a resource that R411 does not refuse. -/
def unbindRun (f : Nat) (c : Cmd) (p kind : Nat) (s : State) : State :=
  let a := c.a 1
  let scrub := bitAt (c.a 0) 8
  match kind with
  | 0 => modPart p (fun q => { q with unbind := some (f, c) }) (beginReset p 0x06 0 s)
  | 1 => beginMove { mbx := f, cmd := c, clu := bits a 6 0, src := some p, scrub := scrub } s
  | 2 => unbindExtent f c p false scrub s
  | 3 => unbindExtent f c p true scrub s
  | 4 => modNetq (bits a 9 0) (fun q => { q with unbind := some (f, c) }) s
  | _ =>
    endCmd f c 0 0 0 (modPart p (fun q => { q with shares := merase (merase q.shares (2 * bits a 3 0)) (2 * bits a 3 0 + 1) }) s)

/-- The event waits: the partition is being reset, or a late move holds its unbind (R427). -/
def rebindWaits (s : State) (c : Cmd) : Bool :=
  let p := bits (c.a 0) 3 0
  (part s p).st == .resetting || (c.op == 4 && bits (c.a 0) 7 4 == 0 && moveLate s p)

/-- Start a rebinding command. -/
def startRebind (f : Nat) (c : Cmd) (s : State) : State :=
  let p := bits (c.a 0) 3 0
  let kind := bits (c.a 0) 7 4
  let a := c.a 1
  let move := c.op == 3 && bitAt (c.a 0) 9
  if ((part s p).mapBad && !(c.op == 4 && kind == 0)) || (move && (part s (bits a 11 8)).mapBad) then mapFails f c s
  else match (if c.op = 3 then bindDetail s p kind a move else unbindDetail s p kind a) with
    | some dt => endCmd f c 1 dt 0 s
    | none => if c.op = 3 then bindRun f c p kind s else unbindRun f c p kind s

/-- Go on with an open rebinding of opcode op from mailbox f. -/
def goRebind (f op : Nat) (s : State) : State :=
  match s.moves.find? fun m => m.mbx == f && m.cmd.op == op && moveGoes s m with
  | some m => if m.joined then endMove m s else joinClu m s
  | none =>
    match s.netq.find? fun x => queueIdle s x.1 && x.2.unbind.any fun u => u.1 == f && u.2.op == op with
    | some (q, v) => match v.unbind with
      | some u => endCmd f u.2 0 0 0 (freeQueue q s)
      | none => s
    | none =>
      match (upto 16).find? fun p => unbindGoes s p && (part s p).unbind.any fun u => u.1 == f && u.2.op == op with
      | some p => match (part s p).unbind with
        | some u => endCmd f u.2 0 0 0 (unbindAll p (bitAt (u.2.a 0) 8) (finishReset p s))
        | none => s
      | none => (upto 16).foldl (fun s p => arriveFor p s) s

/-- An event of a rebinding command: the next one starts, or an open one goes on. -/
def rebind (f op : Nat) (s : State) : Out :=
  if 20 < f then .fault .noSuchUnit
  else match nextCmd s f op with
    | none => .next (goRebind f op s)
    | some c => if rebindWaits s c then .next (goRebind f op s) else .next (startRebind f c (startCmd f c s))

/-- CMD_BIND. -/
def execCmdBind (f : Nat) (s : State) : Out := rebind f 3 s
/-- CMD_UNBIND. -/
def execCmdUnbind (f : Nat) (s : State) : Out := rebind f 4 s

/-- Tasks still on a cluster are stopped as a fault stops them (R414). -/
def forceDrain (c : Nat) (s : State) : State :=
  let ts := (runningOn s c ++ queuedOn s c).map fun t => t.1
  bumpD Reg.PMAP_MOVES 32 ts.length (ts.foldl (fun s t =>
    let v := taskOf s t
    stopTask t (endReq v.req 1 0x0C_0007 (fwRecord (reqErr s (reqOf s v.req) 1 0x0C_0007 none) s))) s)

/-- CLUSTER_DRAIN_LIMIT: PMAP_DRAIN has elapsed (R414). -/
def execClusterDrainLimit (c : Nat) (s : State) : Out :=
  if 96 ≤ c then .fault .noSuchUnit else when (s.moves.any fun m => m.clu == c && !m.joined) (forceDrain c) s

/-! ### Scrub (R416) -/

/-- Bytes of an extent. -/
def extentBytes (bulk : Bool) (e : Extent) : Nat :=
  if bulk then (portsOf e.ports).length * (e.hi - e.lo) * 2 ^ 30 else e.n * (e.hi - e.lo) * 2 ^ 26

/-- Offset in a list of extents of a channel or port and an address in it (R271, R272). -/
def offsetOf (bulk : Bool) : List Extent → Nat → Nat → Option Nat
  | [], _, _ => none
  | e :: r, k, base =>
    if bulk then
      if inBulk e k then
        let ps := portsOf e.ports
        let a := (k - 2 ^ 51) % 2 ^ 41 - e.lo * 2 ^ 30
        let i := ps.findIdx (· == (k - 2 ^ 51) / 2 ^ 41)
        some (base + (a / 4096 * ps.length + i) * 4096 + a % 4096)
      else offsetOf bulk r k (base + extentBytes bulk e)
    else if inHbm e k then
      let a := (k - 2 ^ 50) % 2 ^ 31 - e.lo * 2 ^ 26
      some (base + (a / 256 * e.n + ((k - 2 ^ 50) / 2 ^ 31 - e.first)) * 256 + a % 256)
    else offsetOf bulk r k (base + extentBytes bulk e)

/-- Bytes of a cluster's banks (Table 8.1). -/
def cluBytes (s : State) (c : Nat) : Nat := 64 * 2 ^ 18 + (clu s c).ncell * 16 * 2 ^ 16

/-- Clear every bank of a cluster, its staging registers first. -/
def scrubClu (s : State) (c : Nat) : State := clearBanks c (drainClu c s)

/-- A cluster holds a task or a queued task. -/
def cluBusy (s : State) (c : Nat) : Bool := !(runningOn s c).isEmpty || !(queuedOn s c).isEmpty

/-- What a scrub does: the detail of its refusal, or the bytes cleared and the state (Table 12.4). -/
def scrubOf (s : State) (p kind a1 a2 : Nat) : Except Nat (Nat × State) :=
  if kind < 4 ∧ (part s p).st = .unbound then .error dNotBound
  else match kind with
  | 0 | 1 =>
    let bulk : Bool := kind == 1
    let es := extentsOf s bulk p
    let g := if bulk then 4096 else 256
    if a1 % g ≠ 0 ∨ a2 % g ≠ 0 ∨ (es.map (extentBytes bulk)).sum < a1 + a2 then .error dBadResource
    else .ok (a2, clearKeys (fun k => (offsetOf bulk es k 0).any fun x => decide (a1 ≤ x) && decide (x < a1 + a2)) s)
  | 2 =>
    if (clu s a1).part ≠ some p then .error dBadResource
    else if cluBusy s a1 then .error dBusy
    else .ok (cluBytes s a1, scrubClu s a1)
  | 3 =>
    let cs := clustersOf s p
    let q := part s p
    if cs.any (cluBusy s) then .error dBusy
    else
      let s' := q.hbm.foldl (fun s e => clearExtent false e s) (q.bulk.foldl (fun s e => clearExtent true e s) s)
      .ok ((q.hbm.map (extentBytes false)).sum + (q.bulk.map (extentBytes true)).sum + (cs.map (cluBytes s)).sum,
           cs.foldl scrubClu s')
  | 4 | 5 =>
    let bulk : Bool := kind == 5
    let e := extentOf bulk a1
    if !extentOk s bulk e then .error dBadResource
    else if extentHeld s bulk 16 e then .error dHeld
    else .ok (extentBytes bulk e, clearExtent bulk e s)
  | _ => .error dBadResource

/-- CMD_SCRUB (R416, R417): RLEN counts the scrubbed bytes in MiB. -/
def execCmdScrub (f : Nat) (s : State) : Out :=
  cmdEvent f 0x0C (fun c s =>
    let p := bits (c.a 0) 3 0
    let kind := bits (c.a 0) 7 4
    if kind < 4 ∧ (part s p).mapBad then mapFails f c s
    else match scrubOf s p kind (c.a 1) (c.a 2) with
      | .error dt => endCmd f c 1 dt 0 s
      | .ok (n, s') => endCmd f c 0 0 (n / 2 ^ 20) s') s

/-! ### Releasing frozen masters (R422) -/

/-- Release one master: its contexts are FREE, its slots idle, its queues empty; it takes part again from the next
release. -/
def thaw (mid : Nat) (s : State) : State :=
  let c := bits mid 10 4
  match mid % 16 with
  | 1 => modCell c (bits mid 15 11) (fun v =>
      { ((upto 4).foldl (fun v x => v.modCtx x Ctx.freed) v).flush with frozen := false, quiet := true }) s
  | 2 =>
    let e := bits mid 11 11
    modClu c (fun q => { q with quietM := q.quietM ++ [mid],
                                slots := mmap {} (fun k x => if k / 8 = e then x.clear else x) q.slots }) s
  | 3 => modClu c (fun q => { q with quietM := q.quietM ++ [mid], gq := [], gw := [], gRun := [], uj := [], uw := [],
                                     fills := [], uq := [], infl := [], redo := [] }) s
  | 4 => modClu c (fun q => { q with quietM := q.quietM ++ [mid], dq := [], dw := [], vq := [], vw := [], qq := [],
                                     qrun := none }) s
  | _ => s

/-- Release masters of a partition; PMAP_VIOL clears when none stays frozen. -/
def thawAll (p : Nat) (ms : List Nat) (s : State) : State :=
  modPart p (fun q =>
    let q := { q with frozen := q.frozen.filter fun m => !ms.contains m }
    if q.frozen.isEmpty then
      { q with violMaster := 0, violKind := 0, violValid := false, violOvf := 0, violAddr := 0 }
    else q) (ms.foldl (fun s m => thaw m s) s)

/-- CMD_FREEZE_RELEASE. -/
def execCmdFreezeRelease (f : Nat) (s : State) : Out :=
  cmdEvent f 0x0F (fun c s =>
    let p := bits (c.a 0) 3 0
    let mid := bits (c.a 0) 31 16
    if (part s p).mapBad then mapFails f c s
    else if bitAt (c.a 0) 4 then endCmd f c 0 0 0 (thawAll p (part s p).frozen s)
    else if (part s p).frozen.contains mid then endCmd f c 0 0 0 (thawAll p [mid] s)
    else endCmd f c 1 0x0C_0008 0 s) s

end Sys2Proof.Machine
end

