-- ==== Sys2Proof/Machine/Net.lean ====
section
/-!
DEFINITION. The Ethernet ports and their network queues (R430 to R438, R458). A packet's answer stands in State.ans: 0
acknowledged or data, 1 NAK Remote Access Error, 2 NAK Remote Operational Error, 3 RNR NAK, 4 no answer.
-/
namespace Sys2Proof.Machine

/-- Register o of Ethernet port e. -/
def netReg (e o : Nat) : Nat := o + 0x1000 * e

/-- The port is enabled and has its link. -/
def portUp (s : State) (e : Nat) : Bool :=
  s.pwr == 2 && bitAt (dreg s (netReg e Reg.NET_CTRL)) 0 && bitAt (dreg s (netReg e Reg.NET_STATUS)) 0

/-- Word w of a queue's context. -/
def NetQ.w (v : NetQ) (i : Nat) : Nat := mget 0 v.ctx i

/-- Fields of the context (Table 13.13). -/
def NetQ.base (v : NetQ) : Nat := bits (v.w 5) 47 0
def NetQ.len (v : NetQ) : Nat := bits (v.w 6) 39 0
def NetQ.prio (v : NetQ) : Nat := bits (v.w 0) 5 3
def NetQ.pmtu (v : NetQ) : Nat := 1024 * 2 ^ min 2 (bits (v.w 0) 49 48)

/-- A queue is frozen. -/
def netFrozen (s : State) (q : Nat) : Bool :=
  match (netqOf s q).part with
  | some p => isFrozen s p (.netq q)
  | none => false

/-- A queue takes messages in (R437): it runs in a mode, is bound, is not being unbound and is not frozen. -/
def netTakes (s : State) (q : Nat) : Bool :=
  let v := netqOf s q
  v.mode != 0 && v.part.isSome && v.unbind.isNone && !netFrozen s q

/-- Island of an Ethernet port (Table 1.6). -/
def ethIsland (s : State) (e : Nat) : Nat := portIsland s 0x20 e

/-- Answer a packet. -/
def answer (code : Nat) (l : List Byte) (s : State) : State := { s with ans := (code, l) }

/-- Frames received and sent (Table 13.11). -/
def frames (e rx tx : Nat) (s : State) : State :=
  bumpD (netReg e Reg.NET_FRAMES) 32 tx (bumpD (netReg e Reg.NET_FRAMES) 0 rx s)

/-- A packet or datagram is dropped and counted. -/
def dropNet (e lo : Nat) (s : State) : State := answer 4 [] (bumpD (netReg e Reg.NET_DROPS) lo 1 s)

/-- Freeze a network queue: it takes no message, and the batches it has taken in end (Table 12.6). -/
def freezeNet (p q kind addr : Nat) (s : State) : State :=
  if isFrozen s p (.netq q) then freezeMark p (.netq q) kind addr 0 (0, 0) s
  else
    let s := flagD (netReg (q / 256) Reg.NET_ERR) 1 (freezeMark p (.netq q) kind addr (ethIsland s (q / 256)) (0, 0) s)
    ((s.batches.filter fun b => b.2.kind == 1 && b.2.item == q).map fun b => b.1).foldl (fun s b =>
      endBatch b 0x07 (masterId (.netq q)) s) s

/-- An access of a queue, and what its failure does: the request is answered with NAK Remote Operational Error (R432). -/
def netRun (p q : Nat) (m : EM (List Byte)) (s : State) : State :=
  match runEM m s with
  | .good l s => answer 0 l s
  | .stop (.viol kind a) s => answer 2 [] (freezeNet p q kind a s)
  | .stop (.unc a mem pw) s =>
    let e := q / 256
    answer 2 [] (capture (.ethPort e) (memErr s 9 (uncDetail 0 mem pw) p (ethIsland s e) a mem 0 0) s)
  | .stop (.fail _ _ _) s => answer 2 [] s

/-- A RoCEv2 packet of len bytes reaches queue q: `run` is its effect on a queue of the mode that carries it. -/
def roce (q mode len : Nat) (run : Nat → NetQ → State → State) (s : State) : Out :=
  if 1024 ≤ q then .fault .noSuchUnit
  else if !portUp s (q / 256) then .next s
  else
    let v := netqOf s q
    let s := frames (q / 256) (max 1 (cdiv len v.pmtu)) 0 s
    if !netTakes s q then .next (frames (q / 256) 0 1 (answer 2 [] s))
    else if v.mode = 3 then .next (dropNet (q / 256) 0 s)
    else
      let s := if v.mode ≠ mode then answer (if mode = 1 then 1 else 2) [] s else run (v.part.getD 0) v s
      .next (frames (q / 256) 0 (max 1 (cdiv s.ans.2.length v.pmtu)) s)

/-- The window check of R432: key, permission, range. -/
def windowOk (v : NetQ) (rkey perm va len : Nat) : Bool :=
  rkey == bits (v.w 7) 31 0 && bitAt (v.w 6) perm && decide (v.base ≤ va) && decide (va + len ≤ v.base + v.len)

/-- RDMA_WRITE to a MEMORY queue (R432). -/
def execRdmaWrite (q rkey va : Nat) (data : List Byte) (s : State) : Out :=
  roce q 1 data.length (fun p v s =>
    if !windowOk v rkey 41 va data.length then answer 1 [] s
    else netRun p q (do wr (.netq q) p none va data; pure []) s) s

/-- RDMA_WRITE_IMMEDIATE: the write, and then the notice word with its count (R432). -/
def execRdmaWriteImmediate (q rkey va imm : Nat) (data : List Byte) (s : State) : Out :=
  roce q 1 data.length (fun p v s =>
    if !windowOk v rkey 41 va data.length then answer 1 [] s
    else
      let s := netRun p q (do wr (.netq q) p none va data; pure []) s
      if s.ans.1 ≠ 0 ∨ !bitAt (v.w 6) 42 then s
      else
        let n := (v.notices + 1) % 2 ^ 32
        netRun p q (do wrN (.netq q) p none (bits (v.w 8) 47 0) 8 (imm % 2 ^ 32 + n * 2 ^ 32); pure [])
          (modNetq q (fun v => { v with notices := n }) s)) s

/-- RDMA_READ of a MEMORY queue's window (R432). -/
def execRdmaRead (q rkey va len : Nat) (s : State) : Out :=
  roce q 1 0 (fun p v s =>
    if !windowOk v rkey 40 va len then answer 1 [] s else netRun p q (rd (.netq q) p none va len) s) s

/-! ### Update queues (R433, R435, R436) -/

/-- Lengths of the batches of a message, by their headers; what no whole batch covers is one last, bad batch. -/
def cutBatches : Nat → List Byte → List Nat
  | 0, _ => []
  | n + 1, l =>
    if l.isEmpty then []
    else
      let b := leNat ((l.drop 12).take 4)
      if l.length < 32 ∨ b < 32 ∨ l.length < b then [l.length] else b :: cutBatches n (l.drop b)

/-- Write bytes into a queue's receive buffer from its write offset on; it wraps (log 30). -/
def ringPut (q p : Nat) (v : NetQ) (data : List Byte) : EM (List Byte) := do
  let k := min data.length (v.len - v.wp)
  wr (.netq q) p none (v.base + v.wp) (data.take k)
  wr (.netq q) p none v.base (data.drop k)
  pure []

/-- Put one batch of a message before the INGEST engine; the batches of a frozen engine end at once. -/
def queueBatch (q p peer : Nat) (v : NetQ) (off len : Nat) (s : State) : State :=
  let c := bits (v.w 9) 6 0
  let id := s.nextBatch
  let s := newBatch { part := p, clu := c, kind := 1, item := q, addr := off % max 1 v.len, held := len, peer := peer,
                      ring := (v.base, v.len) } s
  if isFrozen s p (.upd c) then endBatch id 0x07 (masterId (.upd c)) s else s

/-- Take a message's bytes into the receive buffer and hand its batches on. -/
def takeMessage (q p peer : Nat) (data : List Byte) (s : State) : State :=
  let v := netqOf s q
  let s := netRun p q (ringPut q p v data) s
  if s.ans.1 ≠ 0 then s
  else
    let s := modNetq q (fun v => { v with wp := (v.wp + data.length) % max 1 v.len, used := v.used + data.length, rnr := false }) s
    ((cutBatches (data.length + 1) data).foldl (fun (x : Nat × State) n =>
      (x.1 + n, queueBatch q p peer v x.1 n x.2)) (v.wp, s)).2

/-- The INGEST cluster serves the queue's partition. -/
def ingestOk (s : State) (p : Nat) (v : NetQ) : Bool :=
  let c := bits (v.w 9) 6 0
  decide (c < 96) && (clu s c).part == some p && !(clu s c).leaving

/-- The receive buffer can hold n more bytes. -/
def ringHolds (v : NetQ) (n : Nat) : Bool := decide (v.used + n ≤ v.len)

/-- ROCE_SEND: a SEND on an update queue delivers its batches, or finds no room (R433, R436). -/
def execRoceSend (q : Nat) (data : List Byte) (s : State) : Out :=
  roce q 2 data.length (fun p v s =>
    if !ingestOk s p v then answer 2 [] s
    else if !ringHolds v data.length then answer 3 [] (modNetq q (fun v => { v with rnr := true }) s)
    else takeMessage q p 0 data s) s

/-- Acknowledgements of a repeated datagram: one for each batch (R435). -/
def dupAcks (q p peer : Nat) : Nat → List Byte → List (Batch × Nat × Nat)
  | 0, _ => []
  | n + 1, l =>
    if l.isEmpty then []
    else
      let k := (cutBatches 1 l).headD l.length
      let b : Batch := { part := p, kind := 1, item := q, peer := peer, dup := true, tag := leNat ((l.drop 16).take 8),
                         n := leNat ((l.drop 8).take 4) }
      (b, 0, 0) :: dupAcks q p peer n (l.drop k)

/-- The port pauses the queue's priority while the receive buffer is over half full (R436). -/
def pauseIfFull (q : Nat) (s : State) : State :=
  let v := netqOf s q
  let e := q / 256
  if v.len < 2 * v.used ∧ bitAt (dreg s (netReg e Reg.NET_CFG)) (16 + v.prio) then
    bumpD (netReg e Reg.NET_PFC) 0 1 { s with sent := s.sent ++ [(6, [e, v.prio])] }
  else s

/-- Bytes of a datagram's payload that the port's MTU leaves (R430). -/
def udpRoom (s : State) (q : Nat) : Nat :=
  bits (dreg s (netReg (q / 256) Reg.NET_CFG)) 13 0 - if bitAt ((netqOf s q).w 0) 50 then 48 else 28

/-- UDP_DATAGRAM: a datagram from a peer on an update queue (R435, R436). -/
def execUdpDatagram (q peer : Nat) (data : List Byte) (s : State) : Out :=
  if 1024 ≤ q then .fault .noSuchUnit
  else if !portUp s (q / 256) then .next s
  else
    let e := q / 256
    let s := frames e 1 0 s
    let v := netqOf s q
    let p := v.part.getD 0
    let h := leNat (data.take 8)
    let body := data.drop 8
    if v.mode ≠ 3 ∨ !netTakes s q ∨ data.length < 8 ∨ bits h 15 0 ≠ 0x4158 ∨ udpRoom s q < data.length ∨ !ingestOk s p v then
      .next (dropNet e 0 s)
    else if v.seqs.contains (bits h 63 32) then
      .next (answer 4 [] { s with acks := s.acks ++ dupAcks q p peer (body.length + 1) body })
    else if !ringHolds v body.length then .next (dropNet e 32 s)
    else
      let s := modNetq q (fun v => { v with seqs := (bits h 63 32 :: v.seqs).take 1024 }) s
      .next (pauseIfFull q (answer 4 [] (takeMessage q p peer body s)))

/-! ### Acknowledgements (R434) -/

/-- Outcome bytes of a batch in order. -/
def outcomesOf (b : Batch) : List Byte := (upto b.n).map fun i => BitVec.ofNat 8 (mget 0 b.outc i - 1)

/-- Entries of a batch that are not APPLIED. -/
def unapplied (b : Batch) : Nat := b.n - (b.outc.filter fun q => q.2 == 1).length

/-- One acknowledgement message: header and outcomes from index `first` on (Table 13.3). -/
def ackMessage (b : Batch) (status detail first : Nat) (l : List Byte) : List Byte :=
  leBytes 8 (2 + status % 256 * 2 ^ 16 + b2n b.dup * 2 ^ 24 + l.length * 2 ^ 32) ++ leBytes 8 b.tag ++
    leBytes 8 (detail % 2 ^ 24 + unapplied b * 2 ^ 32) ++
    leBytes 8 ((if l.isEmpty then 0 else first) + b.n % 2 ^ 32 * 2 ^ 32) ++ l ++
    List.replicate (cdiv l.length 8 * 8 - l.length) 0

/-- The messages of an acknowledgement, each of at most `size` bytes. -/
def ackSplit (b : Batch) (status detail size : Nat) : Nat → Nat → List Byte → List (List Byte)
  | 0, _, _ => []
  | n + 1, first, l =>
    let k := (size - 32) / 8 * 8
    if l.length ≤ k then [ackMessage b status detail first l]
    else ackMessage b status detail first (l.take k) :: ackSplit b status detail size n (first + k) (l.drop k)

/-- Every message of a batch's acknowledgement. -/
def ackMessages (b : Batch) (status detail size : Nat) : List (List Byte) :=
  let l := if status = 0 && !b.dup then outcomesOf b else []
  ackSplit b status detail size (l.length + 1) 0 l

/-- BATCH_ACKNOWLEDGEMENT: the queue's first completed batch is acknowledged by SEND or by datagram. -/
def execBatchAcknowledgement (q : Nat) (s : State) : Out :=
  if 1024 ≤ q then .fault .noSuchUnit
  else
    let v := netqOf s q
    let e := q / 256
    match s.acks.find? fun a => a.1.item == q with
    | none => .next s
    | some (b, st, dt) =>
      if !portUp s e || bitAt (mget 0 s.paused e) v.prio then .next s
      else
        let ms := ackMessages b st dt (if v.mode = 3 then udpRoom s q else v.pmtu)
        let out := ms.map fun m => (5, q :: b.peer :: m.map fun x => x.toNat)
        let s := { s with acks := s.acks.erase (b, st, dt), sent := s.sent ++ out }
        let s := if v.mode = 2 then
            modNetq q (fun v => { v with unacked := v.unacked ++ ms.map fun m => m.map fun x => x.toNat }) s else s
        .next (frames e 0 ms.length s)

/-- ROCE_ACK_TIMEOUT: the timeout of the oldest SEND that the peer has not acknowledged lapses, after `n` SENDs were
acknowledged; it is sent again up to RETRY times, and then given up (R430, Table 13.13). -/
def execRoceAckTimeout (q n : Nat) (s : State) : Out :=
  if 1024 ≤ q then .fault .noSuchUnit
  else
    let s := if n = 0 then s else modNetq q (fun v => { v with unacked := v.unacked.drop n, tries := 0 }) s
    let v := netqOf s q
    match v.unacked with
    | [] => .next s
    | m :: r =>
      if v.tries < bits (v.w 1) 50 48 then
        .next (frames (q / 256) 0 1 (modNetq q (fun v => { v with tries := v.tries + 1 })
          { s with sent := s.sent ++ [(5, q :: 0 :: m)] }))
      else .next (modNetq q (fun v => { v with unacked := r, tries := 0 }) s)

/-! ### Congestion and pause (R438) -/

/-- Line rate in Mb/s. -/
def lineRate : Nat := 800000

/-- The send rate of a queue now: restored linearly over RECOVER microseconds (25 ticks each). -/
def sendRate (s : State) (q : Nat) : Nat :=
  match (netqOf s q).cut with
  | none => lineRate
  | some (r, t) =>
    let rec' := 25 * bits (dreg s (netReg (q / 256) Reg.NET_CC)) 15 0
    let d := s.now - t
    if rec' ≤ d then lineRate else r + (lineRate - r) * d / rec'

/-- CNP_RECEIVE: the queue's send rate is halved, to 1 Gb/s at least (R438). -/
def execCnpReceive (q : Nat) (s : State) : Out :=
  if 1024 ≤ q then .fault .noSuchUnit
  else if !portUp s (q / 256) then .next s
  else
    let r := max 1000 (sendRate s q / 2)
    let t := s.now
    .next (bumpD (netReg (q / 256) Reg.NET_CNP) 32 1 (modNetq q (fun v => { v with cut := some (r, t) }) (frames (q / 256) 1 0 s)))

/-- ECN_CE_RECEIVE: the port sends a CNP to the packet's source, one per queue every 50 µs (R438). -/
def execEcnCeReceive (q : Nat) (s : State) : Out :=
  if 1024 ≤ q then .fault .noSuchUnit
  else if !portUp s (q / 256) then .next s
  else
    let t := s.now
    match (netqOf s q).cnpAt with
    | some a => if t < a + 1250 then .next s
      else .next (frames (q / 256) 0 1 (bumpD (netReg (q / 256) Reg.NET_CNP) 0 1
        (modNetq q (fun v => { v with cnpAt := some t }) { s with sent := s.sent ++ [(9, [q])] })))
    | none => .next (frames (q / 256) 0 1 (bumpD (netReg (q / 256) Reg.NET_CNP) 0 1
        (modNetq q (fun v => { v with cnpAt := some t }) { s with sent := s.sent ++ [(9, [q])] })))

/-- PFC_PAUSE_RECEIVE: sending on a priority pauses, or goes on when the frame's time is zero (R430). -/
def execPfcPauseReceive (e prio : Nat) (pause : Bool) (s : State) : Out :=
  if 4 ≤ e ∨ 8 ≤ prio then .fault .noSuchUnit
  else if !portUp s e then .next s
  else
    let s := bumpD (netReg e Reg.NET_PFC) 32 1 s
    if !bitAt (dreg s (netReg e Reg.NET_CFG)) (16 + prio) then .next s
    else
      let w := mget 0 s.paused e
      .next { s with paused := mset 0 s.paused e (if pause then orBit w prio else if bitAt w prio then w - 2 ^ prio else w) }

/-! ### Ports and contexts (R458) -/

/-- A failure event: counted, and recorded (R515). -/
def failEvent (e : ErrInfo) (s : State) : State := bumpD Reg.ERR_EVENTS 0 1 (fwRecord e s)

/-- The record of a link or port: kind 0 fabric, 1 host, 2 Ethernet, 3 bulk (Table 15.3). -/
def linkRecord (s : State) (kind n aux : Nat) : ErrInfo := devRecord s 5 3 0 (n + kind * 32) aux

/-- ETHERNET_LINK_DOWN: a port loses its link (0), has trained it again by IEEE 802.3 rules (1), or stays held down (2,
a failure event) (R456, R515). -/
def execEthernetLinkDown (e res : Nat) (s : State) : Out :=
  if 4 ≤ e then .fault .noSuchUnit
  else
    let s := setDreg (netReg e Reg.NET_STATUS) (if res = 1 then 3 else 0) { s with paused := merase s.paused e }
    .next (if res = 2 then failEvent (linkRecord s 2 e 0) s else s)

/-- A discarded QUIET write of the management function (R419). -/
def mgmtViol (off : Nat) (s : State) : State :=
  flagD Reg.PMAP_ERR 1 (fwRecord (devRecord s 4 2 0 (2 * 2 ^ 16) off) s)

/-- NET_PORT_ENABLE: NET_CTRL.ENABLE starts or stops a port. -/
def execNetPortEnable (e : Nat) (en : Bool) (s : State) : Out :=
  if 4 ≤ e then .fault .noSuchUnit
  else if !served s then .next s
  else .next (setDreg (netReg e Reg.NET_CTRL) (b2n en) s)

/-- Reserved bits of the context words (Table 13.13). -/
def ctxMask (w : Nat) : Nat :=
  match w with
  | 0 => fm 50 0
  | 1 => fm 55 0
  | 2 => fm 63 0
  | 3 => fm 63 0
  | 4 => fm 63 0
  | 5 => fm 47 0
  | 6 => fm 42 0
  | 7 => fm 31 0
  | 8 => fm 47 0
  | 9 => fm 6 0
  | _ => 0

/-- A range lies in the HBM or the bulk space of a partition. -/
def inSpaces (s : State) (p a n : Nat) : Bool :=
  let o := a % 2 ^ 44
  if regionOf a = some 1 then decide (o + n ≤ ((part s p).hbm.map (extentBytes false)).sum)
  else if regionOf a = some 2 then decide (o + n ≤ ((part s p).bulk.map (extentBytes true)).sum)
  else false

/-- The queue's context lets it enable (R433, R460's Table 13.13). -/
def ctxOk (s : State) (v : NetQ) : Bool :=
  let m := bits (v.w 0) 2 0
  ((upto 16).all fun i => Nat.land (v.w i) (compl 64 (ctxMask i)) == 0) && decide (m ≤ 3) && v.unbind.isNone &&
    match v.part with
    | none => false
    | some p => inSpaces s p v.base v.len && (m == 1 || (decide (2 ^ 14 ≤ v.len) && ingestOk s p v))

/-- A write of word w of the selected queue's context (R458). -/
def writeCtx (w v : Nat) (s : State) : State :=
  let q := bits (dreg s Reg.NET_QSEL) 9 0
  if (netqOf s q).mode ≠ 0 then mgmtViol (Reg.NET_QCTX + 8 * w) s
  else
    let s := modNetq q (fun x => { x with ctx := mset 0 x.ctx w (v % 2 ^ 64) }) s
    if w ≠ 0 ∨ bits v 2 0 = 0 then s
    else if ctxOk s (netqOf s q) then
      modNetq q (fun x => { x with mode := bits v 2 0, notices := 0, wp := 0, used := 0, seqs := [], rnr := false, cut := none,
                                   cnpAt := none, unacked := [], tries := 0 }) s
    else flagD (netReg (q / 256) Reg.NET_ERR) 0 s

/-- QUEUE_ENABLE: a write of word 0 of the selected queue's context (R458). -/
def execQueueEnable (v : Nat) (s : State) : Out := if !served s then .next s else .next (writeCtx 0 v s)

end Sys2Proof.Machine
end

