-- ==== Sys2Proof/Machine/Links.lean ====
section
/-!
DEFINITION. The fabric links: flits and replay (R441 to R445), forwarding (R447), training (R450 to R454) and live
retrains (R455, R456), and the module's placement (R439).
-/
namespace Sys2Proof.Machine

/-- Register o of link l. -/
def lnkReg (l o : Nat) : Nat := o + 0x100 * l

/-- LNK_STATUS.STATE: 0 DOWN, 1 TRAINING, 2 SOAK, 3 UP, 4 EXCLUDED, 5 RETRAINING, 6 DISABLED. -/
def lnkState (s : State) (l : Nat) : Nat := bits (dreg s (lnkReg l Reg.LNK_STATUS)) 2 0

/-- Set LNK_STATUS.STATE; the other fields stay. -/
def setLnk (l st : Nat) (s : State) : State :=
  let w := dreg s (lnkReg l Reg.LNK_STATUS)
  setDreg (lnkReg l Reg.LNK_STATUS) (w - w % 8 + st) s

/-- LNK_DIRS: links in service, and their number in each direction; no link serves before the outcome (R453, R472). -/
def dirsOf (s : State) : Nat :=
  let up (l : Nat) : Bool := lnkState s l == 3 && served s
  let mask := ((upto 16).filter up).foldl (fun r l => r + 2 ^ l) 0
  let cnt (d : Nat) : Nat := ((upto 4).filter fun i => up (4 * d + i)).length
  mask + cnt 0 * 2 ^ 16 + cnt 1 * 2 ^ 20 + cnt 2 * 2 ^ 24 + cnt 3 * 2 ^ 28

/-- Recompute routing (R453). -/
def setDirs (s : State) : State := setDreg Reg.LNK_DIRS (dirsOf s) s

/-- The links of direction d are trained: its dimension has more than one module (R439). -/
def dirCounted (s : State) (d : Nat) : Bool := if d < 2 then decide (1 < domX s) else decide (1 < domY s)

/-! ### Leaving service (R453) -/

/-- The flits that a link holds, unacknowledged ones first, go to the links of its direction that stay, by R448; where
none stays they wait for the link. -/
def moveFlows (l : Nat) (s : State) : State :=
  let v := linkOf s l
  let fs := v.replay ++ v.txq
  if (activeLinks s (l / 4)).isEmpty then
    modLink l (fun v => { v with txq := fs, replay := [], used := [], txSeq := 0, rxNext := 0, naked := false, rxb := [],
                                 slots := 0, opened := [] }) s
  else
    fs.foldl (fun s f =>
        let k := flowLink s (l / 4) f.flow
        pump k (modLink k (fun v => { v with txq := v.txq ++ [{ f with seq := 0 }] }) s))
      (modLink l (fun v => { sent := v.sent, rcvd := v.rcvd, inj := v.inj, pol := v.pol }) s)

/-- A link leaves service: routing is recomputed and its flows move; a direction left with too few links is flagged
(R453, R456). -/
def leaveService (l : Nat) (s : State) : State :=
  let s := moveFlows l (setDirs s)
  let n := (activeLinks s (l / 4)).length
  if dirCounted s (l / 4) && decide (n < bits (dreg s Reg.LNK_POLICY) 5 3) then flagD Reg.LNK_ERR 2 s else s

/-- A link is excluded with a reason of Table 13.7 (R452). -/
def excludeLink (l reason : Nat) (s : State) : State :=
  let w := dreg s (lnkReg l Reg.LNK_STATUS)
  let s := setDreg (lnkReg l Reg.LNK_STATUS) (4 + 3 * 8 + reason * 32 + bits w 17 8 * 256) s
  let s := flagD Reg.LNK_ERR 1 s
  setDirs (if reason = 3 then flagD Reg.LNK_ERR 0 s else s)

/-- A live retrain begins: the link leaves service (R455, Table 13.8a). -/
def startRetrain (l : Nat) (s : State) : State :=
  let up : Bool := lnkState s l == 3
  let s := setLnk l 5 (bumpD (lnkReg l Reg.LNK_TRAINS) 0 1 s)
  let s := failEvent (linkRecord s 0 l (dreg s (lnkReg l Reg.LNK_SER))) s
  if up then leaveService l s else s

/-! ### Flits (R441, R443, R444) -/

/-- Messages that stand whole at the front of a channel's bytes; the rest of a message's last flit is filling. -/
def takeMsg (l : List Byte) : Option (Msg × List Byte) :=
  if l.length < 16 then none
  else
    let n := 16 + bits (leNat ((l.drop 8).take 8)) 15 0
    if l.length < n then none else some (msgOf l, l.drop (cdiv n 248 * 248))

/-- A message has arrived: it is for this module, or on its way to another (R440, R445, R447). -/
def arriveMsg (m : Msg) (s : State) : State :=
  if m.dst ≠ moduleIndex s then { s with transit := s.transit ++ [m] }
  else if isResponse m.kind then { s with rspIn := s.rspIn ++ [m] }
  else if 5 < m.kind then trySend (reply m 5 [] s) s
  else { s with reqIn := s.reqIn ++ [m] }

/-- Every flit up to an acknowledged SEQ leaves the replay buffer. -/
def ackTo (seq : Nat) (v : Link) : Link :=
  if v.replay.any fun f => f.seq == seq then { v with replay := (v.replay.dropWhile fun f => f.seq != seq).drop 1 } else v

/-- The partner returns credits, by virtual channel. -/
def addCredits (cr : List Nat) (v : Link) : Link :=
  { v with used := (upto 4).foldl (fun m c => mset 0 m c (mget 0 m c - cr.getD c 0)) v.used }

/-- Count a data flit in units of 2^16 (LNK_FLITS). -/
def countFlit (l lo n : Nat) (s : State) : State :=
  if n % 65536 = 0 then bumpD (lnkReg l Reg.LNK_FLITS) lo 1 s else s

/-- A flit is discarded; the first one is answered with a NAK of the last good SEQ. -/
def discardFlit (l : Nat) (s : State) : State :=
  let v := linkOf s l
  if v.naked then s
  else modLink l (fun v => { v with naked := true }) { s with sent := s.sent ++ [(7, [l, (v.rxNext + 4095) % 4096])] }

/-- A good data flit in sequence; a message that it completes leaves the receive buffer, whose credits go back (R444). -/
def acceptFlit (l vc : Nat) (payload : List Byte) (s : State) : State :=
  let v := linkOf s l
  let b := mget [] v.rxb vc ++ payload
  let r := takeMsg b
  let s := countFlit l 32 (v.rcvd + 1) (modLink l (fun v => { v with
    rxNext := (v.rxNext + 1) % 4096, naked := false, rcvd := v.rcvd + 1,
    rxb := mset [] v.rxb vc (match r with | some (_, rest) => rest | none => b) }) s)
  match r with
  | some (m, rest) =>
    let n := (b.length - rest.length) / 248
    arriveMsg { m with link := l, vc := vc } { s with sent := s.sent ++ [(17, [l, vc, n])] }
  | none => s

/-- FLIT_RECEIVE: 256 bytes reach link l; `fec` is 0 for clean codewords, 1 where symbols were corrected, 2 for an
uncorrectable one, and `credits` are what a control flit returns on each channel. -/
def execFlitReceive (l fec : Nat) (bytes : List Byte) (credits : List Nat) (s : State) : Out :=
  if 16 ≤ l then .fault .noSuchUnit
  else if lnkState s l ≠ 3 ∨ bytes.length ≠ 256 then .next s
  else
    let s := if fec = 1 then bumpD (lnkReg l Reg.LNK_FEC) 0 1 s
      else if fec = 2 then bumpD (lnkReg l Reg.LNK_FEC) 32 1 s else s
    let w := leNat (bytes.take 4)
    let ty := bits w 1 0
    let v := linkOf s l
    let bad : Bool := v.inj || ty == 3 || crc32c (bytes.take 252) != leNat (bytes.drop 252)
    if fec = 2 then .next (discardFlit l s)
    else if bad then
      .next (discardFlit l (bumpD (lnkReg l Reg.LNK_REPLAY) 32 1 (modLink l (fun v => { v with inj := false }) s)))
    else
      let s := modLink l (ackTo (bits w 27 16)) s
      let s := if ty = 1 then modLink l (addCredits credits) s else s
      let s := pump l s
      if ty ≠ 0 then .next s
      else if bits w 15 4 ≠ (linkOf s l).rxNext then .next (discardFlit l s)
      else .next (acceptFlit l (bits w 3 2) ((bytes.drop 4).take 248) s)

/-- The transmitter replays every flit it holds; too many replays in a millisecond begin a live retrain (R443). -/
def replayLink (l : Nat) (s : State) : State :=
  let v := linkOf s l
  let ms := s.now / 25000
  let n := if v.ms = ms then v.replays + 1 else 1
  let s := bumpD (lnkReg l Reg.LNK_REPLAY) 0 1 (modLink l (fun v => { v with ms := ms, replays := n })
    { s with sent := s.sent ++ [(8, l :: v.replay.map fun f => f.seq)] })
  if bits v.pol 23 16 < n then startRetrain l s else s

/-- NAK_REPLAY: the partner asks for the flits after `seq`. -/
def execNakReplay (l seq : Nat) (s : State) : Out :=
  if 16 ≤ l then .fault .noSuchUnit
  else if lnkState s l ≠ 3 then .next s
  else .next (replayLink l (modLink l (ackTo (seq % 4096)) s))

/-- ACK_TIMEOUT_REPLAY: 4 µs without progress of the partner's ACK. -/
def execAckTimeoutReplay (l : Nat) (s : State) : Out :=
  if 16 ≤ l then .fault .noSuchUnit
  else when (lnkState s l == 3 && !(linkOf s l).replay.isEmpty) (replayLink l) s

/-- FABRIC_FORWARD: the first message in transit goes on along its route; one that has no path any more is dropped (R447,
R453). -/
def execFabricForward (s : State) : Out :=
  match s.transit with
  | [] => .next s
  | m :: r =>
    let s := { s with transit := r }
    match sendMsg m (some (m.link / 4, m.vc)) s with
    | some s => .next s
    | none => .next (countUnreach s)

/-! ### Training (R450 to R452) -/

/-- Width that a set of good lanes allows: its code, and how many lanes; none below 2 (R451). -/
def widthOf (good : Nat) : Option (Nat × Nat) :=
  let n := ((upto 9).filter fun i => bitAt good i).length
  if 8 ≤ n then some (0, 8) else if 4 ≤ n then some (1, 4) else if 2 ≤ n then some (2, 2) else none

/-- Island of a fabric link (Table 1.6). -/
def linkIsland (s : State) (l : Nat) : Nat := coreIsland (l / (4 * perDie s)) + 0x40 + l % (4 * perDie s)

/-- A unit stands in the defect list: entries match by kind, island and index (R479). -/
def inDfl (s : State) (kind island index : Nat) : Bool :=
  s.dfl.any fun e => bits e.1 3 0 == kind && bits e.1 31 16 == island && bits e.1 47 32 == index

/-- Words of an entry. -/
def dflWords (stage : Nat) (x : Finding) (boot : Nat) : Nat × Nat :=
  (x.kind % 16 + stage % 16 * 2 ^ 4 + x.cause % 256 * 2 ^ 8 + x.island % 2 ^ 16 * 2 ^ 16 + x.index % 2 ^ 16 * 2 ^ 32,
   boot % 2 ^ 32)

/-- Append an entry, or count it when the list is full. -/
def addDefect (stage : Nat) (x : Finding) (s : State) : State :=
  if 4096 ≤ s.dfl.length then flagD Reg.BRG_ERR 1 (bumpD Reg.DFL_LOST 0 1 s)
  else { s with dfl := s.dfl ++ [dflWords stage x (bits (dreg s Reg.BRG_BOOTS) 31 0)] }

/-- A unit is retired: a defect-list entry, the counts, the record, and the flag of its partition (R496, R502, R515). -/
def unitRetired (p : Option Nat) (x : Finding) (sub : Nat) (s : State) : State :=
  let s := bumpD Reg.ERR_EVENTS 32 1 (addDefect 15 x s)
  let s := failEvent { devRecord s 5 8 0x0F_0012 (x.island + x.kind * 2 ^ 16) sub with part := p } s
  match p with
  | some p => flagP p Reg.ERR_PFLAGS 0 s
  | none => s

/-- Lanes that the last training of a link found failed and the list does not hold are retired (R502). -/
def retireLanes (l : Nat) (s : State) : State :=
  (upto 9).foldl (fun s i =>
    if bitAt (dreg s (lnkReg l Reg.LNK_LANES)) (16 + i) && !inDfl s 7 (linkIsland s l) i then
      unitRetired none { kind := 7, cause := 8, island := linkIsland s l, index := i } 0 s
    else s) s

/-- Good lanes of a link but those that the defect list holds (R478). -/
def goodLanes (s : State) (l good : Nat) : Nat :=
  ((upto 9).filter fun i => bitAt good i && !inDfl s 7 (linkIsland s l) i).foldl (fun r i => r + 2 ^ i) 0

/-- Lanes in use: the lowest good ones. -/
def lanesUsed (good n : Nat) : Nat := (((upto 9).filter fun i => bitAt good i).take n).foldl (fun r i => r + 2 ^ i) 0

/-- The partner is the one that R439 asks for at link l. -/
def partnerOk (s : State) (l : Nat) (p : Partner) : Bool :=
  let d := l / 4
  let x := myX s
  let y := myY s
  let want := match d with
    | 0 => 8 * y + (x + 1) % domX s
    | 1 => 8 * y + (x + domX s - 1) % domX s
    | 2 => 8 * ((y + 1) % domY s) + x
    | _ => 8 * ((y + domY s - 1) % domY s) + x
  p.dom == bits (dreg s Reg.LNK_DOMAIN) 31 0 && p.dx == domX s && p.dy == domY s && p.index == want &&
    p.link == (if d % 2 = 0 then l + 4 else l - 4)

/-- Steps 2 to 6 of Table 13.6: the link goes to its soak, or is excluded. -/
def trainLink (l good : Nat) (lock : Bool) (p : Partner) (fail : Nat → State → State) (s : State) : State :=
  let pol := dreg s Reg.LNK_POLICY
  let s := modLink l (fun v => { v with pol := pol }) s
  let good := goodLanes s l good
  match widthOf good with
  | none => fail 1 (setDreg (lnkReg l Reg.LNK_LANES) (compl 9 (good % 512) * 2 ^ 16) s)
  | some (code, n) =>
    let s := setDreg (lnkReg l Reg.LNK_LANES) (lanesUsed good n + compl 9 (good % 512) * 2 ^ 16) s
    let s := setDreg (lnkReg l Reg.LNK_STATUS) (lnkState s l + code * 8 + p.index % 64 * 2 ^ 8 + p.link % 16 * 2 ^ 14) s
    if !lock then fail 1 s
    else if code ≠ 0 ∧ (!bitAt pol 2 ∨ bits pol 1 0 < code) then fail 2 s
    else if !partnerOk s l p then fail 3 s
    else setLnk l 2 s

/-- Training has been started for the links: stage LINKS has begun, or the start has ended. -/
def linksStarted (s : State) : Bool := s.pwr == 2 && (decide (3 ≤ s.stage) || s.training)

/-- LINK_TRAIN: a fabric link trains; `good` are its lanes with signal that equalized, `lock` says whether the FEC locked. -/
def execLinkTrain (l good : Nat) (lock : Bool) (p : Partner) (s : State) : Out :=
  if 16 ≤ l then .fault .noSuchUnit
  else if !linksStarted s || !dirCounted s (l / 4) || !(lnkState s l == 0 || lnkState s l == 1) then .next s
  else .next (trainLink l good lock p (excludeLink l) s)

/-- A soak passes (R466). -/
def soakPass (ser : Nat) (uncorr : Bool) : Bool := decide (ser ≤ 20000) && !uncorr

/-- LINK_SOAK_END: a link's 4 s soak ends with its symbol error ratio (R466, R467). -/
def execLinkSoakEnd (l ser : Nat) (uncorr : Bool) (s : State) : Out :=
  if 16 ≤ l then .fault .noSuchUnit
  else if lnkState s l ≠ 2 then .next s
  else
    let s := setDreg (lnkReg l Reg.LNK_SER) (min ser (2 ^ 32 - 1)) s
    if soakPass ser uncorr then .next (setDirs (setLnk l 3 s)) else .next (excludeLink l 4 s)

/-! ### Live retrains (R455, R456) -/

/-- LINK_LOSS_OF_LOCK: a link in service loses lock. -/
def execLinkLossOfLock (l : Nat) (s : State) : Out :=
  if 16 ≤ l then .fault .noSuchUnit else when (lnkState s l == 3) (startRetrain l) s

/-- A retrain is asked for; an excluded link is tried again by it (R452). -/
def askRetrain (l : Nat) (s : State) : State :=
  if dirCounted s (l / 4) && (lnkState s l == 3 || lnkState s l == 4 || lnkState s l == 0) then startRetrain l s else s

/-- RETRAIN: a write of LNK_CTRL.RETRAIN. -/
def execRetrain (l : Nat) (s : State) : Out :=
  if 16 ≤ l then .fault .noSuchUnit else when (served s) (askRetrain l) s

/-- LIVE_RETRAIN_END: steps 3 to 5 of Table 13.8a; a retrain that fails excludes the link with reason REPLAY, and is
recorded. Lanes newly failed are replaced, which retires them (R502). -/
def execLiveRetrainEnd (l good : Nat) (lock : Bool) (p : Partner) (ser : Nat) (uncorr : Bool) (s : State) : Out :=
  if 16 ≤ l then .fault .noSuchUnit
  else if lnkState s l ≠ 5 then .next s
  else
    let fail (_ : Nat) (s : State) : State :=
      excludeLink l 5 (fwRecord (linkRecord s 0 l (dreg s (lnkReg l Reg.LNK_SER))) s)
    let s := trainLink l good lock p fail s
    if lnkState s l ≠ 2 then .next s
    else
      let s := setDreg (lnkReg l Reg.LNK_SER) (min ser (2 ^ 32 - 1)) s
      if soakPass ser uncorr then
        let s := retireLanes l (setDirs (setLnk l 3 s))
        .next (pump l s)
      else .next (fail 4 s)

/-- LNK_CTRL.DISABLE takes a link out of service, or lets it train again (R453). -/
def disableLink (l : Nat) (dis : Bool) (s : State) : State :=
  let up : Bool := lnkState s l == 3
  let s := setDreg (lnkReg l Reg.LNK_CTRL) (b2n dis) s
  if dis then
    let s := setDreg (lnkReg l Reg.LNK_STATUS) (6 + 3 * 8) s
    if up then leaveService l s else s
  else if lnkState s l = 6 then setDreg (lnkReg l Reg.LNK_STATUS) (3 * 8) s else s

/-- DISABLE: a write of LNK_CTRL.DISABLE. -/
def execDisable (l : Nat) (dis : Bool) (s : State) : Out :=
  if 16 ≤ l then .fault .noSuchUnit else when (served s) (disableLink l dis) s

/-- The fabric block runs: a link is in a state other than DOWN, DISABLED and EXCLUDED (R457). -/
def fabricRuns (s : State) : Bool :=
  (upto 16).any fun l => lnkState s l != 0 && lnkState s l != 4 && lnkState s l != 6

/-- A write of LNK_DOMAIN: QUIET while the fabric runs; a placement outside its domain is refused (Table 13.10). -/
def domainWrite (v : Nat) (s : State) : State :=
  let dx := bits v 35 32
  let dy := bits v 39 36
  let x := bits v 42 40
  let y := bits v 45 43
  if fabricRuns s then mgmtViol Reg.LNK_DOMAIN s
  else if dx = 0 ∨ 8 < dx ∨ dy = 0 ∨ 8 < dy ∨ dx ≤ x ∨ dy ≤ y then s
  else setDreg Reg.LNK_DOMAIN (bits v 45 0 + (8 * y + x) * 2 ^ 46) s

/-- LNK_DOMAIN_WRITE. -/
def execLnkDomainWrite (v : Nat) (s : State) : Out := when (served s) (domainWrite v) s

end Sys2Proof.Machine
end

