-- ==== Sys2Proof/Machine/RegCmds.lean ====
section
/-!
DEFINITION. The registers of partition BAR0 (R536, R538 to R541): what each takes of a write and returns to a read, by
block, and the commands that are writes or reads of one of them.
-/
namespace Sys2Proof.Machine

/-! ### Helpers -/

/-- W1C: bits written as 1 are cleared (Table 0.2). -/
def w1c (old v n : Nat) : Nat := Nat.land old (compl 64 (v % 2 ^ n))

/-- A register of an instance's cluster. -/
def forInst (s : State) (p n : Nat) (f : Nat → WRes) : WRes :=
  match instOf s p n with
  | none => .took s
  | some c => f c

/-- A write that a QUIET field takes only while its block does not run (R12). -/
def quietIf (b : Bool) (s : State) : WRes := if b then .quiet else .took s

/-- A read of an instance's register; 0 for none (R540). -/
def readInst (s : State) (p n : Nat) (f : Nat → Nat) : Nat :=
  match instOf s p n with
  | none => 0
  | some c => f c

/-- A number of the list of bits that satisfy a test. -/
def maskOf (n : Nat) (f : Nat → Bool) : Nat := ((upto n).filter f).foldl (fun r i => r + 2 ^ i) 0

/-! ### PT, MBX and ERR pages (Table 11.15, Table 15.11) -/

/-- Write of the PT page. -/
def ptWrite (p off v : Nat) (s : State) : WRes :=
  if off = 0x10 then .took (modPart p (fun q => { q with tokW := v % 2 ^ 64 }) s)
  else if off = 0x18 then .took (modPart p (fun q => { q with tokWN := v % 2 ^ 64 }) s)
  else if off = 0x20 then
    let s := if bitAt v 2 then modPart p (fun q => { q with tokBad := false }) s else s
    .took (if bitAt v 0 then commitToken p s else s)
  else .took s

/-- Read of the PT page. -/
def ptRead (s : State) (p off : Nat) : Nat :=
  let q := part s p
  if off = 0 then p + q.port * 16 + q.vf * 64
  else if off = 8 then
    (match q.st with | .unbound => 0 | .active => 1 | .orphan => 2 | .resetting => 3) +
      8 * b2n (bitAt (dreg s Reg.DEV_EXPERT) p) + 16 * b2n (bitAt s.cxl q.port)
  else if off = 0x20 then 2 * b2n (q.token != 0) + 4 * b2n q.tokBad
  else if off = Reg.PT_RECLAIM_FAIL then preg s p Reg.PT_RECLAIM_FAIL
  else if off = 0x30 then (mbxOf s p).held.length
  else 0

/-- A ring register of a mailbox: refused while out of range, a violation while the mailbox runs (R406). -/
def ringReg (f off v : Nat) (ok : Bool) (g : Mbx → Mbx) (s : State) : WRes :=
  if mbxRunning s f then .quiet
  else if ok then .took (modMbx f g (setMreg f off v s))
  else .refused (flagM f 6 s)

/-- Write of mailbox f at offset o of its page. -/
def mbxWrite (f o v : Nat) (s : State) : WRes :=
  if o = Reg.MBX_CTRL then .took (setEnable f (bitAt v 0) s)
  else if o = Reg.MBX_CMD_BASE then ringReg f o (bits v 46 0) (bits v 11 0 == 0) id s
  else if o = Reg.MBX_CMD_CFG then
    ringReg f o (bits v 4 0 + bits v 63 32 * 2 ^ 32) (decide (6 ≤ bits v 4 0) && decide (bits v 4 0 ≤ 16)) id s
  else if o = 0x20 then .took (ringBell f (bits v 31 0) (bits v 63 32) s)
  else if o = Reg.MBX_CPL_BASE then ringReg f o (bits v 46 0) (bits v 11 0 == 0) (fun m => { m with newCpl := true }) s
  else if o = Reg.MBX_CPL_CFG then
    ringReg f o (bits v 4 0) (decide (8 ≤ bits v 4 0) && decide (bits v 4 0 ≤ 20)) (fun m => { m with newCpl := true }) s
  else if o = Reg.MBX_CPL_HEAD then .took (putCplHead f v s)
  else if o = Reg.MBX_ERR_BASE then ringReg f o (bits v 46 0) (bits v 11 0 == 0) (fun m => { m with newErr := true }) s
  else if o = Reg.MBX_ERR_CFG then
    ringReg f o (bits v 4 0) (decide (6 ≤ bits v 4 0) && decide (bits v 4 0 ≤ 16)) (fun m => { m with newErr := true }) s
  else if o = Reg.MBX_ERR_HEAD then .took (putErrHead f v s)
  else if o = Reg.MBX_IRQ_MOD then .took (setMreg f o (bits v 31 0) s)
  else if o = Reg.MBX_ERR then .took (setMreg f o (w1c (mreg s f o) v 8) s)
  else .took s

/-- Offsets of the MBX registers that State holds. -/
def mbxHeld (o : Nat) : Bool :=
  [Reg.MBX_CTRL, Reg.MBX_CMD_BASE, Reg.MBX_CMD_CFG, Reg.MBX_CMD_HEAD, Reg.MBX_CPL_BASE, Reg.MBX_CPL_CFG, Reg.MBX_CPL_HEAD,
   Reg.MBX_CPL_TAIL, Reg.MBX_ERR_BASE, Reg.MBX_ERR_CFG, Reg.MBX_ERR_HEAD, Reg.MBX_ERR_TAIL, Reg.MBX_IRQ_MOD, Reg.MBX_ERR,
   Reg.MBX_COUNTS, Reg.MBX_ERR_LOST, Reg.MBX_CPL_WAIT].contains o

/-- Read of mailbox f. -/
def mbxRead (s : State) (f o : Nat) : Nat :=
  if o = 8 then b2n (mbxRunning s f) + 2 * b2n (mbxOf s f).ahead + 4 * b2n ((mbxOf s f).reads != 0)
  else if mbxHeld o then mreg s f o
  else 0

/-! ### STR (Table 9.12, Table 9.13) -/

/-- Write of a register of engine e of cluster c. -/
def strWrite (c e o v : Nat) (s : State) : WRes :=
  if o = 0 then
    let s := setCreg c (strReg e Reg.STR_CTRL) (v % 2) s
    .took (if bitAt v 1 then setCreg c (strReg e Reg.STR_MIN_SLACK) 0x7FFF_FFFF s else s)
  else if o = 0x10 then
    let s := setCreg c (strReg e Reg.STR_ERR) (w1c (creg s c (strReg e Reg.STR_ERR)) v 5) s
    .took (if bitAt v 0 then setCreg c (strReg e Reg.STR_FAULT) 0 s else s)
  else if o = 0x20 then .took (setCreg c (strReg e Reg.STR_LEAD) (bits v 31 0) s)
  else if 0x80 ≤ o ∧ o < 0xC0 then .took (setCreg c (strReg e (0x10000 + o)) (v % 2 ^ 64) s)
  else if o = 0xC0 then .took (armSlot c e (bits v 2 0) s)
  else .took s

/-- STATE of a slot: a transfer whose last element is granted is retiring (Table 9.13). -/
def slotState (x : Slot) : Nat :=
  if x.st == 1 && !x.words.isEmpty && xKind x.words == 0 && decide (xN x.words ≤ x.elem) then 5 else x.st

/-- STR_SLOT_STATUS. -/
def slotStatus (x : Slot) : Nat :=
  slotState x + 8 * b2n x.shadow.isSome + 16 * b2n (!x.words.isEmpty && x.armed) + 32 * b2n (!x.words.isEmpty && xFixed x.words) +
    64 * x.buf.length + 2 ^ 32 * (x.retired % 2 ^ 32)

/-- Read of a register of engine e of cluster c. -/
def strRead (s : State) (p c e o : Nat) : Nat :=
  let slot (i : Nat) : Slot := slotOf s c e i
  if o = 8 then
    maskOf 8 (fun i => !(slot i).words.isEmpty) + 2 ^ 8 * maskOf 8 (fun i => (slot i).st == 4) +
      2 ^ 16 * min 64 (outstanding s c e) +
      2 ^ 23 * b2n (bitAt (creg s c (strReg e Reg.STR_CTRL)) 0 && outstanding s c e == 0) + 2 ^ 24 * b2n (isFrozen s p (.str c e)) +
      2 ^ 25 * b2n (loaderPends s c e)
  else if o < 0x50 ∨ (0x80 ≤ o ∧ o < 0xC0) then creg s c (strReg e (0x10000 + o))
  else if 0x100 ≤ o ∧ o < 0x180 then
    let x := slot ((o - 0x100) / 16)
    if o % 16 = 0 then slotStatus x else if x.words.isEmpty || x.armed then 0 else x.daddr
  else 0

/-- Write of STR_SAVE_BASE. -/
def saveWrite (p v : Nat) (s : State) : WRes :=
  if strBusy s p then .quiet
  else if saveBaseOk s p (bits v 47 0) then .took (setPreg p Reg.STR_SAVE_BASE (bits v 47 0) s)
  else .refused (flagP p Reg.STR_PERR 1 s)

/-- Write of a partition-wide STR register. -/
def strPartWrite (p off v : Nat) (s : State) : WRes :=
  if off = Reg.STR_SAVE_BASE then saveWrite p v s
  else if off = Reg.STR_HALT_LIMIT then .took (setPreg p off (max 1 (bits v 7 0)) s)
  else if off = Reg.STR_BAR_WAIT then .took (setPreg p off (bits v 15 0) s)
  else if off = Reg.STR_PERR then .took (setPreg p off (w1c (preg s p off) v 2) s)
  else .took s

/-- Instances that hold a participant not yet arrived. -/
def missInst (s : State) (p : Nat) : List Nat :=
  (upto 96).filter fun n => match instOf s p n with
    | some c => !(missingIn s c).isEmpty
    | none => false

/-- Read of a partition-wide STR register. -/
def strPartRead (s : State) (p off : Nat) : Nat :=
  if off = Reg.STR_BAR_EPOCH then preg s p off % 2 ^ 32 + 2 ^ 32 * (missing s p).length
  else if off = 0x30020 then
    b2n (barWaiting s p) + 2 * b2n (!(part s p).hostBar.isEmpty) + 4 * ((missInst s p).headD 0)
  else if off = 0x30030 then maskOf 64 (missInst s p).contains
  else if off = 0x30038 then maskOf 32 (fun n => (missInst s p).contains (64 + n))
  else if off = Reg.STR_SAVE_BASE ∨ off = Reg.STR_HALT_LIMIT ∨ off = Reg.STR_BAR_WAIT ∨ off = Reg.STR_PERR then preg s p off
  else 0

/-! ### BNK (Table 8.11, Table 8.12) -/

/-- Write of a BNK register. -/
def bnkWrite (p off v : Nat) (s : State) : WRes :=
  if off = Reg.BNK_SEL then .took (setPreg p off (bits v 6 0) s)
  else if off = Reg.BNK_WIN_BASE then winBaseWrite p v s
  else if off = Reg.BNK_WIN_CTRL then .took (setPreg p off (v % 2) s)
  else if off = Reg.BNK_WIN_STATUS then .took (setPreg p off (w1c (preg s p off) v 2) s)
  else if off = Reg.BNK_ERR then .took (setPreg p off (w1c (preg s p off) v 4) s)
  else if 0x41000 ≤ off ∧ off < 0x41000 + 8 * 576 then ownerWrite false p ((off - 0x41000) / 8) v s
  else .took s

/-- Words of an extent register, its base first computed. -/
def extentWord (bulk : Bool) (es : List Extent) (i w : Nat) : Nat :=
  match es[i]? with
  | none => 0
  | some e =>
    if w = 1 then ((es.take i).map (extentBytes bulk)).sum
    else if bulk then e.ports + 16 + e.lo * 2 ^ 16 + e.hi * 2 ^ 32
    else e.first + (e.n - 1) * 2 ^ 9 + 2 ^ 18 + e.lo * 2 ^ 32 + e.hi * 2 ^ 40

/-- Read of BNK_OWNER of a bank. -/
def ownerRead (v : Bank) : Nat :=
  v.code + v.codeN * 2 ^ 16 + 2 ^ 32 * b2n v.pending.isSome + 2 ^ 33 * b2n (!v.staged.isEmpty)

/-- Read of a BNK register. -/
def bnkRead (s : State) (p off : Nat) : Nat :=
  let sel := selClu s p Reg.BNK_SEL
  if off = Reg.BNK_SEL then preg s p off + 2 ^ 63 * b2n sel.isNone
  else if off < 0x40048 then preg s p off
  else if 0x40100 ≤ off ∧ off < 0x40120 then (match sel with | some c => creg s c off | none => 0)
  else if 0x41000 ≤ off ∧ off < 0x41000 + 8 * 576 then
    (match sel with | some c => ownerRead (bankOf s c ((off - 0x41000) / 8)) | none => 0)
  else if 0x43000 ≤ off ∧ off < 0x43100 then extentWord false (part s p).hbm ((off - 0x43000) / 16) (off / 8 % 2)
  else if 0x43100 ≤ off ∧ off < 0x43180 then extentWord true (part s p).bulk ((off - 0x43100) / 16) (off / 8 % 2)
  else 0

/-! ### LUT (Table 5.16 to Table 5.22) -/

/-- The cell that LUT_SEL selects (Table 5.17). -/
def selCell (s : State) (p : Nat) : Option (Nat × Nat) :=
  let w := preg s p Reg.LUT_SEL
  match instOf s p (bits w 6 0) with
  | none => none
  | some c => if bits w 12 8 < (clu s c).ncell then some (c, bits w 12 8) else none

/-- A context is neither HALTED nor FREE (Table 12.5). -/
def Ctx.runs (v : Ctx) : Bool := v.task.isSome && !v.halted

/-- LUT_CTX_CTRL: HALT takes bits [3:0]; STEP lets halted contexts issue one instruction (Table 5.19). -/
def ctxCtrl (c k v : Nat) (s : State) : State :=
  (upto 4).foldl (fun s x => modCtx c k x (fun q =>
    let q := { q with halt := bitAt v x }
    if bitAt v (4 + x) && q.halted then { q with step := true } else q) s) s

/-- Write of a general register; g0 discards it. -/
def gregWrite (c k x i v : Nat) (s : State) : WRes :=
  quietIf ((ctxOf s c k x).runs) (modCtx c k x (fun q => q.setReg i (BitVec.ofNat 64 v)) s)

/-- Write of a program word, which it marks written. -/
def pmWrite (c k w v : Nat) (s : State) : WRes :=
  quietIf ((upto 4).any fun x => (ctxOf s c k x).runs)
    (modCell c k (fun q => { q with pm := mset 0 q.pm w (BitVec.ofNat 64 v), pmw := mset false q.pmw w true,
                                    pmEcc := merase q.pmEcc w }) s)

/-- Write of a context's program counter. -/
def pcWrite (c k x v : Nat) (s : State) : WRes := quietIf ((ctxOf s c k x).runs) (jump c k x (bits v 10 0) s)

/-- Clear LUT_ERR bits; clearing FAULT clears LUT_FAULT (Table 5.21). -/
def lutErrClear (c k v : Nat) (s : State) : State :=
  modCell c k (fun q =>
    { q with err := (upto 4).foldl (fun m i => if bitAt v i then mset false m i false else m) q.err
             flt := if bitAt v 0 then {} else q.flt }) s

/-- Write of a LUT register. -/
def lutWrite (p off v : Nat) (s : State) : WRes :=
  if off = Reg.LUT_SEL then .took (setPreg p off (bits v 6 0 + bits v 12 8 * 256) s)
  else match selCell s p with
    | none => .took s
    | some (c, k) =>
      if off = 0x60010 then .took (ctxCtrl c k v s)
      else if off = 0x60020 then .took (lutErrClear c k v s)
      else if 0x60040 ≤ off ∧ off < 0x60060 then pcWrite c k ((off - 0x60040) / 8) v s
      else if 0x60100 ≤ off ∧ off < 0x60500 then gregWrite c k ((off - 0x60100) / 256) (off % 256 / 8) v s
      else if 0x68000 ≤ off ∧ off < 0x6C000 then pmWrite c k ((off - 0x68000) / 8) v s
      else .took s

/-- LUT_CELL_STATUS. -/
def cellStatus (v : Cell) : Nat :=
  maskOf 4 (fun x => (v.ctxOf x).task.isSome) + v.curWtag * 16 + v.curAdig * 256 + 2 ^ 9 * b2n v.engOwner.isSome +
    2 ^ 10 * b2n v.run.isSome + 2 ^ 11 * b2n v.pend.isSome + 2 ^ 12 * b2n (!v.fences.isEmpty) + 2 ^ 13 * v.builds.length +
    2 ^ 16 * v.rq.length + 2 ^ 22 * b2n v.frozen

/-- Code of a context state (Table 5.2). -/
def stCode : CtxState → Nat
  | .free => 0 | .ready => 1 | .waitMem => 2 | .waitEngine => 3 | .waitSync => 4 | .halted => 5 | .faulted => 6

/-- Code of the state a context is in: a context that no halt stops and that stands between two instructions is in the state
its next instruction holds it in (Table 5.2, log 67). -/
def ctxCode (s : State) (c k x : Nat) : Nat :=
  let v := ctxOf s c k x
  if v.task.isNone then 0
  else if v.halted then 5
  else if v.pushed ≠ 0 then 3
  else if v.st = .ready then stCode ((waitsFor s c k x).getD .ready)
  else stCode v.st

/-- The context's last QPUSH has not yet produced VALID = 1 (Table 5.20). -/
def qjobOpen (s : State) (p : Nat) (v : Ctx) : Bool :=
  match v.qrec with
  | none => false
  | some a => match runEM (rd .fw p none a 1) s with
    | .good l _ => l.all fun b => b.toNat < 128
    | .stop _ _ => true

/-- LUT_FAULT. -/
def faultWord (f : FaultLatch) : Nat :=
  f.detail % 2 ^ 24 + f.ctx % 4 * 2 ^ 24 + f.pc % 2048 * 2 ^ 26 + f.status % 256 * 2 ^ 40 + 2 ^ 48 * b2n f.valid + f.ovf * 2 ^ 56

/-- Bytes of codebook entries from j on, eight of them. -/
def cbBytes (cb : Option Codebook) (j : Nat) : Nat :=
  match cb with
  | none => 0
  | some b => leNat ((upto 8).map fun i => BitVec.ofInt 8 (b.k.getD (j + i) 0))

/-- LUT_ACC: 0, and ACC_BUSY, while a sweep runs or is pending. An accumulator with an uncorrectable error is counted, and its
read gives a free value (R108, R291, log 72). -/
def accRead (p c k l n : Nat) (s : State) : Nat × State :=
  let v := cellOf s c k
  let e := mget 0 v.accEcc (16 * l + n)
  if v.run.isSome || v.pend.isSome then (0, modCell c k (fun q => { q with err := mset false q.err 1 true }) s)
  else if e = 2 then
    let r := takeFree (sramUnc c k p s)
    (r.1 % 2 ^ 32, r.2)
  else
    let s := if e = 1 then sramCorr c (modCell c k (fun v => { v with accEcc := merase v.accEcc (16 * l + n) }) s) else s
    let r := readAcc c k l n s
    (toBits 32 r.1, r.2)

/-- Read of a LUT register. -/
def lutRead (p off : Nat) (s : State) : Nat × State :=
  if off = Reg.LUT_SEL then (preg s p off + 2 ^ 63 * b2n (selCell s p).isNone, s)
  else match selCell s p with
    | none => (0, s)
    | some (c, k) =>
      let v := cellOf s c k
      if 0x6C000 ≤ off ∧ off < 0x6E000 then accRead p c k ((off - 0x6C000) / 128) (off % 128 / 8) s
      else (
        if off = 0x60008 then cellStatus v
        else if off = 0x60010 then maskOf 4 (fun x => (v.ctxOf x).halt)
        else if off = 0x60018 then faultWord v.flt
        else if off = 0x60020 then maskOf 4 (mget false v.err)
        else if off = 0x60028 then cbBytes v.cb 0
        else if off = 0x60030 then cbBytes v.cb 8
        else if off = 0x60038 then toBits 8 ((v.cb.getD {}).e)
        else if 0x60040 ≤ off ∧ off < 0x60060 then
          let q := v.ctxOf ((off - 0x60040) / 8)
          q.pc + 2 ^ 11 * ctxCode s c k ((off - 0x60040) / 8) + 2 ^ 14 * b2n (qjobOpen s p q)
        else if off = 0x60060 then v.imageId % 2 ^ 32 + 2 ^ 32 * v.pmw.length
        else if 0x60080 ≤ off ∧ off < 0x600D8 then mget 0 v.cnt ((off - 0x60080) / 8)
        else if off = 0x600D8 then mget 0 v.cnt 11
        else if off = 0x600E0 then mget 0 v.cnt 12
        else if off = 0x600E8 then mget 0 v.cnt 13
        else if 0x60100 ≤ off ∧ off < 0x60500 then ((v.ctxOf ((off - 0x60100) / 256)).reg (off % 256 / 8)).toNat
        else if 0x68000 ≤ off ∧ off < 0x6C000 then (mget 0 v.pm ((off - 0x68000) / 8)).toNat
        else 0, s)

/-! ### QNT (Table 4.9 to Table 4.13) -/

/-- The host pushes a quantizer job (R111). -/
def pushJob (c v : Nat) (s : State) : State :=
  if 8 ≤ (clu s c).qq.length then flagC c Reg.QNT_ERR 0 s
  else modClu c (fun q => { q with qq := q.qq ++ [{ addr := bits v 47 0 }] }) s

/-- A channel-scale entry goes to its shadow, and the index advances (R14, R130). -/
def pushScale (c v : Nat) (s : State) : State :=
  let i := creg s c Reg.QNT_CST_INDEX
  setCreg c Reg.QNT_CST_INDEX ((i + 1) % 2 ^ 14) (modClu c (fun q => { q with cstSh := mset none q.cstSh i (some (v % 2 ^ 32)) }) s)

/-- Rows of the running job are still to come. -/
def rowsAhead (q : Cluster) : Bool := match q.qrun with | some r => r.phase != 0 | none => false

/-- QNT_CLEAR.STAT_CLR: the slots named are cleared, at the next row boundary of a job that runs (R122). -/
def clearStats (c v : Nat) (s : State) : State :=
  if rowsAhead (clu s c) then modClu c (fun q => { q with statClr := Nat.lor q.statClr (v % 256) }) s else clearSlots c v s

/-- QNT_CLEAR.CNT_CLR: the counts of Table 4.4 are cleared. -/
def clearQntCounts (c : Nat) (s : State) : State :=
  [Reg.QNT_CB_MAXERR, Reg.QNT_ROW_ESC, Reg.QNT_SR_NAN, Reg.QNT_OA_CLAMP].foldl (fun s o => setCreg c o 0 s) s

/-- Write of a register of a quantizer. -/
def qntWrite (c o v : Nat) (s : State) : WRes :=
  if o = 0 then .took (setCreg c Reg.QNT_CTRL (v % 2) s)
  else if o = 0x10 then .took (pushJob c v (setCreg c Reg.QNT_JOB_ADDR (bits v 47 0) s))
  else if o = 0x20 then .took (setCreg c Reg.QNT_CST_INDEX (bits v 13 0) s)
  else if o = 0x28 then .took (pushScale c v s)
  else if o = 0x38 then
    let s := clearStats c v s
    .took (if bitAt v 8 then clearQntCounts c s else s)
  else if o = 0x58 then .took (setCreg c Reg.QNT_ERR (w1c (creg s c Reg.QNT_ERR) v 3) s)
  else .took s

/-- QNT_STATUS. -/
def qntStatus (s : State) (c : Nat) : Nat :=
  let q := clu s c
  let w := match q.qrun with
    | some r => if r.phase = 2 then 64 + 128 * bits (r.w.getD 7 0) 39 34 else 0
    | none => 0
  q.qq.length + 16 * b2n q.qrun.isSome + 32 * b2n (bitAt (creg s c Reg.QNT_CTRL) 0 && q.qrun.isNone) + w

/-- A read of QNT_STAT_SUM latches the slot's other fields (R122). -/
def statSumRead (c i : Nat) (s : State) : Nat × State :=
  let v := mget {} (clu s c).stats i
  (v.sum, modClu c (fun q => { q with snap := mset {} q.snap i v }) s)

/-- Read of a register of a quantizer. -/
def qntRead (c o : Nat) (s : State) : Nat × State :=
  if 0x100 ≤ o then
    let i := (o - 0x100) / 32
    let v := mget {} (clu s c).snap i
    if o % 32 = 0 then statSumRead c i s
    else (if o % 32 = 8 then v.count else if o % 32 = 16 then v.esc + v.clamped * 2 ^ 32 else v.nonfin, s)
  else (
    if o = 8 then qntStatus s c
    else if o = 0x28 then
      let i := creg s c Reg.QNT_CST_INDEX
      (mget none (clu s c).cstSh i).getD (mget 0xFFFF_0000 (clu s c).cst i)
    else if o = 0x38 ∨ 0x60 ≤ o then 0
    else creg s c (0x70000 + o), s)

/-- Every range-monitor count of the partition is cleared. -/
def clearRm (p : Nat) (s : State) : State := (upto 64).foldl (fun s i => setPreg p (Reg.QNT_RM_COUNT + 8 * i) 0 s) s

/-- Write of a partition-wide QNT register. -/
def qntPartWrite (p off v : Nat) (s : State) : WRes :=
  if off = 0x7C200 then .took (if bitAt v 0 then clearRm p s else s)
  else if off = Reg.QNT_RM_WAIT then .took (setPreg p off (max 1 (bits v 15 0)) s)
  else .took s

/-- Read of a partition-wide QNT register. -/
def qntPartRead (s : State) (p off : Nat) : Nat :=
  if off < 0x7C200 ∨ off = Reg.QNT_RM_WAIT then preg s p off
  else if off = 0x7C210 then maskOf 64 (fun i => !(combineOf s p i).posts.isEmpty)
  else 0

/-! ### TBL, UPD and GPE (Table 7.17, Table 7.18) -/

/-- A gather-pool engine or the update engine of a cluster has work queued, running or in flight (Table 12.5). -/
def gatherBusy (s : State) (c : Nat) : Bool :=
  let q := clu s c
  !(q.gq.isEmpty && q.gw.isEmpty && q.gRun.isEmpty && q.uj.isEmpty && q.uw.isEmpty && q.ujRun.isNone && q.bq.isEmpty &&
    q.uq.isEmpty && q.infl.isEmpty && q.redo.isEmpty)

/-- Write of a TBL register. -/
def tblWrite (p off v : Nat) (s : State) : WRes :=
  let busy : Bool := (clustersOf s p).any (gatherBusy s)
  if off = Reg.TBL_DIR_BASE then quietIf busy (setPreg p off (bits v 47 0) s)
  else if off = Reg.TBL_DIR_COUNT then quietIf busy (setPreg p off (min 4096 (bits v 12 0)) s)
  else if off = Reg.TBL_GRANT then .took (setPreg p off (bits v 31 0) s)
  else if off = Reg.TBL_CACHE_INV then .took (invTable p (bits v 11 0) s)
  else if off = Reg.TBL_REMOTE_WAIT then .took (setPreg p off (max 1 (bits v 15 0)) s)
  else if off = Reg.TBL_ERR then .took (setPreg p off (w1c (preg s p off) v 2) s)
  else .took s

/-- Read of a TBL register. -/
def tblRead (s : State) (p off : Nat) : Nat := if off = Reg.TBL_CACHE_INV ∨ 0x80040 ≤ off then 0 else preg s p off

/-- Write of an UPD register of a cluster. -/
def updWrite (c o v : Nat) (s : State) : WRes :=
  if o = 0 then .took (setCreg c Reg.UPD_CTRL (v % 2) s)
  else if o = 0x10 then quietIf (gatherBusy s c) (setCreg c Reg.UPD_CACHE_BANKS (v % 2 ^ 64) s)
  else if o = 0x18 then quietIf (gatherBusy s c) (setCreg c Reg.UPD_CACHE_CFG (v % 4) s)
  else if o = 0x48 then .took (setCreg c Reg.UPD_ERR (w1c (creg s c Reg.UPD_ERR) v 2) s)
  else .took s

/-- Read of an UPD register. -/
def updRead (s : State) (c o : Nat) : Nat :=
  let q := clu s c
  if o = 8 then
    let n := q.infl.length + q.redo.length
    q.uq.length + 2 ^ 11 * min 128 n + 2 ^ 19 * b2n (n == 0 && q.fills.isEmpty) +
      2 ^ 20 * b2n (bitAt (creg s c Reg.UPD_CTRL) 0 && n == 0)
  else if o < 0x50 then creg s c (0x88000 + o) else 0

/-- Write of a GPE register of engine j. -/
def gpeWrite (c j o v : Nat) (s : State) : WRes :=
  if o = 0 then .took (setCreg c (gpeReg j Reg.GPE_CTRL) (v % 2) s)
  else if o = 0x38 then .took (setCreg c (gpeReg j Reg.GPE_ERR) (w1c (creg s c (gpeReg j Reg.GPE_ERR)) v 2) s)
  else .took s

/-- Row reads outstanding of a running job (R246). -/
def rowsOut (g : Option GRun) : Nat :=
  match g with
  | none => 0
  | some r => readsOut (r.rows.getD [])

/-- Read of a GPE register. -/
def gpeRead (s : State) (c j o : Nat) : Nat :=
  let q := clu s c
  let g := mget none q.gRun j
  if o = 8 then (mget [] q.gq j).length + 32 * b2n g.isSome + 64 * rowsOut g
  else if o < 0x40 then creg s c (gpeReg j (0x90000 + o)) else 0

/-! ### DSP and PWR (Table 10.8, Table 10.9) -/

/-- Write of a DSP register of a cluster. -/
def dspWrite (c o v : Nat) (s : State) : WRes := if o = 0 then .took (setCreg c Reg.DSP_CTRL (v % 2) s) else .took s

/-- A staging register of the cluster holds an entry: it has to drain before IDLE is entered (Table 8.8). -/
def cluStaged (s : State) (c : Nat) : Bool := s.banks.any fun b => b.1 / 576 == c && !b.2.staged.isEmpty

/-- PSTATE of a cluster: IDLE while nothing runs or waits on it and nothing is staged (R361). -/
def pstate (s : State) (c : Nat) : Nat :=
  match (clu s c).pw with
  | .on => if cluIdle s c && !cluStaged s c then 1 else 0
  | .brum => 2
  | .off => 3

/-- Read of a DSP register. -/
def dspRead (s : State) (p c o : Nat) : Nat :=
  let q := clu s c
  if o = 8 then (queuedOn s c).length + 128 * (runningOn s c).length + 2 ^ 14 * pstate s c + 2 ^ 16 * b2n q.hot
  else if o = 0x10 then
    q.bud % 2 ^ 16 + held s c % 2 ^ 16 * 2 ^ 16 + q.bud * bits (preg s p Reg.PWR_RESV) 3 0 / 16 % 2 ^ 16 * 2 ^ 32
  else if o < 0x38 then creg s c (0xA0000 + o) else 0

/-- Write of a partition-wide DSP register. -/
def dspPartWrite (p off v : Nat) (s : State) : WRes :=
  let busy : Bool := !(reqsIn s p .queued).isEmpty || !(reqsIn s p .service).isEmpty
  if off = Reg.DSP_PLAN_BASE then quietIf busy (setPreg p off (bits v 47 0) s)
  else if off = Reg.DSP_PLAN_COUNT then quietIf busy (setPreg p off (min 256 (bits v 8 0)) s)
  else if off = Reg.DSP_QMAX ∨ off = Reg.DSP_HOLD then .took (setPreg p off (max 1 (bits v 15 0)) s)
  else if off = Reg.DSP_ERR then .took (setPreg p off (w1c (preg s p off) v 2) s)
  else .took s

/-- Read of a partition-wide DSP register. -/
def dspPartRead (s : State) (p off : Nat) : Nat :=
  if off = 0xA8010 then
    (part s p).quota % 2 ^ 16 + inUse s p % 2 ^ 16 * 2 ^ 16 + (reqsIn s p .queued).length % 2 ^ 16 * 2 ^ 32 +
      (reqsIn s p .service).length % 2 ^ 16 * 2 ^ 48
  else if off < 0xA8048 then preg s p off else 0

/-- PWR_CLK goes to its shadow (R14, R363, R544). -/
def clkWrite (c v : Nat) (s : State) : State :=
  modClu c (fun q => { q with clkSh := some (min 48 (bits v 5 0) + 256 * min 48 (bits v 13 8)) }) s

/-- Write of a PWR register of the partition. -/
def pwrWrite (p off v : Nat) (s : State) : WRes :=
  if off = Reg.PWR_RESV then .took (setPreg p off (bits v 3 0) s)
  else if off = Reg.PWR_STATE_CFG then .took (setPreg p off (bits v 32 0) s)
  else if Reg.PWR_CLK ≤ off then forInst s p ((off - Reg.PWR_CLK) / 8) fun c => .took (clkWrite c v s)
  else .took s

/-- Tokens held by a partition, in W. -/
def drawOf (s : State) (p : Nat) : Nat := ((clustersOf s p).map (held s)).sum / 16

/-- Read of a PWR register of the partition. -/
def pwrRead (s : State) (p off : Nat) : Nat :=
  if off = Reg.PWR_PT_CAP then capOf s p % 2 ^ 16
  else if off = 0xAC018 then drawOf s p % 2 ^ 16
  else if off = Reg.PWR_RESV ∨ off = Reg.PWR_STATE_CFG then preg s p off
  else if Reg.PWR_CLK ≤ off then
    readInst s p ((off - Reg.PWR_CLK) / 8) fun c =>
      let w := ((clu s c).clkSh).getD (creg s c Reg.PWR_CLK)
      bits w 5 0 + bits w 13 8 * 2 ^ 8 + ((clu s c).cellMHz - 400) / 25 * 2 ^ 14
  else 0

/-! ### Partition BAR0 (Table 17.1) -/

/-- The offset lies in a range of expert level. -/
def expertOff (off : Nat) : Bool :=
  (decide (0x10000 ≤ off) && decide (off < 0x28000)) || (decide (0x30000 ≤ off) && decide (off < 0x31000)) ||
    (decide (0x40000 ≤ off) && decide (off < 0x44000)) || (decide (0x60000 ≤ off) && decide (off < 0x6E000)) ||
    (decide (0x70000 ≤ off) && decide (off < 0x7D000)) || (decide (0x80000 ≤ off) && decide (off < 0x81000)) ||
    (decide (0x88000 ≤ off) && decide (off < 0x8E000)) || (decide (0x90000 ≤ off) && decide (off < 0x9C000)) ||
    (decide (0xA0000 ≤ off) && decide (off < 0xA3000)) || (decide (0xA8000 ≤ off) && decide (off < 0xA9000)) ||
    (decide (0xAC000 ≤ off) && decide (off < 0xAD000))

/-- A 64-bit write at an aligned offset of partition BAR0. -/
def partWrite (p off v : Nat) (s : State) : WRes :=
  if off < 0x1000 then ptWrite p off v s
  else if off < 0x2000 then mbxWrite p (off - 0x1000) v s
  else if off = Reg.ERR_PFLAGS then .took (setPreg p off (w1c (preg s p off) v 4) s)
  else if off < 0x10000 then .took s
  else if off < 0x28000 then
    forInst s p ((off - 0x10000) / 0x400) fun c => strWrite c (off / 0x200 % 2) (off % 0x200) v s
  else if off < 0x30000 then .took s
  else if off < 0x31000 then strPartWrite p off v s
  else if off < 0x44000 then bnkWrite p off v s
  else if off < 0x60000 then .took s
  else if off < 0x6E000 then lutWrite p off v s
  else if off < 0x70000 then .took s
  else if off < 0x7C000 then forInst s p ((off - 0x70000) / 0x200) fun c => qntWrite c (off % 0x200) v s
  else if off < 0x7D000 then qntPartWrite p off v s
  else if off < 0x81000 then tblWrite p off v s
  else if off < 0x88000 then .took s
  else if off < 0x8E000 then forInst s p ((off - 0x88000) / 0x100) fun c => updWrite c (off % 0x100) v s
  else if off < 0x90000 then .took s
  else if off < 0x9C000 then
    forInst s p ((off - 0x90000) / 0x200) fun c => gpeWrite c (off % 0x200 / 0x80) (off % 0x80) v s
  else if off < 0xA0000 then .took s
  else if off < 0xA3000 then forInst s p ((off - 0xA0000) / 0x80) fun c => dspWrite c (off % 0x80) v s
  else if off < 0xA9000 then dspPartWrite p off v s
  else if off < 0xAD000 then pwrWrite p off v s
  else .took s

/-- A read at an aligned offset of partition BAR0; some reads change state (R538). -/
def partRead (p off : Nat) (s : State) : Nat × State :=
  if 0x60000 ≤ off ∧ off < 0x6E000 then lutRead p off s
  else if 0x70000 ≤ off ∧ off < 0x7C000 then
    match instOf s p ((off - 0x70000) / 0x200) with
    | some c => qntRead c (off % 0x200) s
    | none => (0, s)
  else (
    if off < 0x1000 then ptRead s p off
    else if off < 0x2000 then mbxRead s p (off - 0x1000)
    else if off < 0x2018 ∨ (0x2040 ≤ off ∧ off < 0x2080) then preg s p off
    else if off < 0x10000 then 0
    else if off < 0x28000 then
      readInst s p ((off - 0x10000) / 0x400) fun c => strRead s p c (off / 0x200 % 2) (off % 0x200)
    else if off < 0x30000 then 0
    else if off < 0x31000 then strPartRead s p off
    else if off < 0x40000 then 0
    else if off < 0x44000 then bnkRead s p off
    else if off < 0x7C000 then 0
    else if off < 0x7D000 then qntPartRead s p off
    else if off < 0x80000 then 0
    else if off < 0x81000 then tblRead s p off
    else if off < 0x88000 then 0
    else if off < 0x8E000 then readInst s p ((off - 0x88000) / 0x100) fun c => updRead s c (off % 0x100)
    else if off < 0x90000 then 0
    else if off < 0x9C000 then
      readInst s p ((off - 0x90000) / 0x200) fun c => gpeRead s c (off % 0x200 / 0x80) (off % 0x80)
    else if off < 0xA0000 then 0
    else if off < 0xA3000 then readInst s p ((off - 0xA0000) / 0x80) fun c => dspRead s p c (off % 0x80)
    else if off < 0xA8000 then 0
    else if off < 0xA9000 then dspPartRead s p off
    else if off < 0xAC000 then 0
    else if off < 0xAD000 then pwrRead s p off
    else 0, s)

/-! ### Commands of their own rows -/

/-- A write of the partition's host at an expert offset. -/
def hostReg (p off : Nat) (f : State → WRes) (s : State) : Out :=
  if 16 ≤ p then .fault .noSuchUnit else .next (hostWrite p true (fun s => takeWrite p off (f s) s) s)

/-- A read of the partition's host at an expert offset, answered with the value. -/
def hostRead (p : Nat) (f : State → Nat × State) (s : State) : Out :=
  if 16 ≤ p then .fault .noSuchUnit
  else if !mbxExists s p then .next s
  else if !bitAt (dreg s Reg.DEV_EXPERT) p then .next { flagM p 5 s with ans := (1, []) }
  else let r := f s; .next { r.2 with ans := (0, leBytes 8 r.1) }

/-- STR_SAVE_BASE_WRITE (Table 9.13). -/
def execStrSaveBaseWrite (p v : Nat) (s : State) : Out := hostReg p Reg.STR_SAVE_BASE (saveWrite p v) s

/-- GPE_HALT: a write of GPE_CTRL of engine j of instance n (Table 7.18). -/
def execGpeHalt (p n j v : Nat) (s : State) : Out :=
  if 4 ≤ j then .fault .noSuchUnit else hostReg p 0x90000 (fun s => forInst s p n fun c => gpeWrite c j 0 v s) s

/-- UPD_HALT: a write of UPD_CTRL of instance n (Table 7.18). -/
def execUpdHalt (p n v : Nat) (s : State) : Out := hostReg p 0x88000 (fun s => forInst s p n fun c => updWrite c 0 v s) s

/-- TBL_CACHE_INV: a write of TBL_CACHE_INV (R234). -/
def execTblCacheInv (p t : Nat) (s : State) : Out := hostReg p Reg.TBL_CACHE_INV (tblWrite p Reg.TBL_CACHE_INV t) s

/-- LUT_CTX_HALT: a write of LUT_CTX_CTRL.HALT (Table 5.19). -/
def execLutCtxHalt (p v : Nat) (s : State) : Out := hostReg p 0x60010 (lutWrite p 0x60010 (v % 16)) s

/-- LUT_CTX_STEP: a write of LUT_CTX_CTRL with STEP bits (Table 5.19). -/
def execLutCtxStep (p v : Nat) (s : State) : Out := hostReg p 0x60010 (lutWrite p 0x60010 (v % 256)) s

/-- LUT_GREG_WRITE: register gi of context x of the selected cell (Table 5.16, Table 12.5). -/
def execLutGregWrite (p x i v : Nat) (s : State) : Out :=
  if 4 ≤ x ∨ 32 ≤ i then .fault .noSuchUnit
  else hostReg p (0x60100 + 0x100 * x + 8 * i) (lutWrite p (0x60100 + 0x100 * x + 8 * i) v) s

/-- LUT_PM_WRITE: program word w of the selected cell. -/
def execLutPmWrite (p w v : Nat) (s : State) : Out :=
  if 2048 ≤ w then .fault .noSuchUnit else hostReg p (0x68000 + 8 * w) (lutWrite p (0x68000 + 8 * w) v) s

/-- LUT_CTX_PC_WRITE: LUT_CTX_STATE.PC of context x (Table 5.20). -/
def execLutCtxPcWrite (p x v : Nat) (s : State) : Out :=
  if 4 ≤ x then .fault .noSuchUnit else hostReg p (0x60040 + 8 * x) (lutWrite p (0x60040 + 8 * x) v) s

/-- LUT_ACC_READ: accumulator n of lane l (Table 5.16). -/
def execLutAccRead (p l n : Nat) (s : State) : Out :=
  if 64 ≤ l ∨ 16 ≤ n then .fault .noSuchUnit else hostRead p (lutRead p (0x6C000 + 0x80 * l + 8 * n)) s

/-- LUT_FAULT_CLEAR: a write of LUT_ERR; clearing FAULT clears the latch (Table 5.22). -/
def execLutFaultClear (p v : Nat) (s : State) : Out := hostReg p 0x60020 (lutWrite p 0x60020 v) s

/-- QNT_JOB_ADDR_WRITE (R111). -/
def execQntJobAddrWrite (p n v : Nat) (s : State) : Out :=
  hostReg p (0x70010 + 0x200 * n) (fun s => forInst s p n fun c => qntWrite c 0x10 v s) s

/-- QNT_CST_DATA_WRITE (R130). -/
def execQntCstDataWrite (p n v : Nat) (s : State) : Out :=
  hostReg p (0x70028 + 0x200 * n) (fun s => forInst s p n fun c => qntWrite c 0x28 v s) s

/-- QNT_STAT_CLEAR: QNT_CLEAR.STAT_CLR (R122). -/
def execQntStatClear (p n v : Nat) (s : State) : Out :=
  hostReg p (0x70038 + 0x200 * n) (fun s => forInst s p n fun c => qntWrite c 0x38 (v % 256) s) s

/-- QNT_COUNT_CLEAR: QNT_CLEAR.CNT_CLR (R123). -/
def execQntCountClear (p n : Nat) (s : State) : Out :=
  hostReg p (0x70038 + 0x200 * n) (fun s => forInst s p n fun c => qntWrite c 0x38 256 s) s

/-- QNT_RM_CLEAR. -/
def execQntRmClear (p v : Nat) (s : State) : Out := hostReg p 0x7C200 (qntPartWrite p 0x7C200 v) s

/-- QNT_HALT: QNT_CTRL.HALT (Table 4.10). -/
def execQntHalt (p n v : Nat) (s : State) : Out :=
  hostReg p (0x70000 + 0x200 * n) (fun s => forInst s p n fun c => qntWrite c 0 v s) s

/-- QNT_STAT_SUM_READ: latches the slot's snapshot (R122). -/
def execQntStatSumRead (p n i : Nat) (s : State) : Out :=
  if 8 ≤ i then .fault .noSuchUnit
  else hostRead p (fun s => match instOf s p n with
    | some c => qntRead c (0x100 + 0x20 * i) s
    | none => (0, s)) s

end Sys2Proof.Machine
end

