-- ==== Sys2Proof/Machine/Commands.lean ====
section
/-!
DEFINITION. The commands of a partition's mailbox that load models, apply updates, query, budget and reclaim (R386 to
R388, R398, R399, R260).
-/
namespace Sys2Proof.Machine

/-- The I/O stream engines that serve the commands of a mailbox: those of its port's die (R332). -/
def ioOf (s : State) (f : Nat) : Master := .io (dieOf s (mbxPort s f))

/-! ### CMD_LOAD_MODEL (R386) -/

/-- Replace the load in progress of a partition. -/
def setLoad (f : Nat) (l : Load) (s : State) : State := modPart f (fun q => { q with load := some l }) s

/-- The load ends, and dispatch goes on. -/
def endLoad (f : Nat) (s : State) : State := 
  modPart f (fun q => { q with load := none, loading := false }) { s with ioSlots := s.ioSlots.filter fun x => x.2.mbx != f }

/-- A record is invalid or has failed: LOAD_RECORD with its index (R386). -/
def failLoad (f : Nat) (l : Load) (s : State) : State := endCmd f l.cmd 1 0x0B_000E l.idx (endLoad f s)

/-- An access made for the load was stopped (R332, R420). -/
def stopLoad (f : Nat) (l : Load) (e : Stop) (s : State) : State := stopCmd f l.cmd 0x09_000A l.idx e (endLoad f s)

/-- The segments of a CHORUS payload, each with its header (Table 5.14); none when one is refused. -/
def segsOf : Nat → List Byte → Option (List Seg)
  | 0, l => if l.isEmpty then some [] else none
  | f + 1, l =>
    if l.isEmpty then some []
    else if l.length < 32 then none
    else
      let w0 := leNat (l.take 8)
      let w1 := leNat ((l.drop 8).take 8)
      let n := bits w0 31 16
      let base := bits w0 47 32
      let body := (l.drop 32).take (8 * n)
      if bits w0 15 0 ≠ 1 ∨ n = 0 ∨ 2048 < n ∨ 2048 < base + n ∨ body.length < 8 * n then none
      else
        let ws := (upto n).map fun i => BitVec.ofNat 64 (leNat ((body.drop (8 * i)).take 8))
        (segsOf f (l.drop (32 + 8 * n))).map fun r =>
          { base := base, crc := bits w1 31 0, id := bits w1 63 32, words := ws } :: r

/-- Apply the pairs of a REG record; true when every one was taken. -/
def regPairs (f : Nat) : List Nat → State → Bool × State
  | off :: v :: r, s =>
    if off % 8 ≠ 0 then regPairs f r s
    else match (if 0x41000 ≤ off ∧ off < 0x41000 + 8 * 576 then ownerWrite true f ((off - 0x41000) / 8) v s else partWrite f off v s) with
      | .took s => regPairs f r s
      | .refused s => (false, s)
      | .quiet => (false, s)
      | .owner s => (false, s)
  | [], s => (true, s)
  | [_], s => (false, s)

/-- What a SHARD record can do now: wait for the old home engine to be idle, or move (R254). -/
inductive ShardRes where
  | wait
  | bad
  | moved

/-- Move a shard: copy its records, rewrite its entry, invalidate the table's lines (R254). -/
def moveShard (f : Nat) (io : Master) (w0 : Nat) (entry : List Byte) : EM ShardRes := do
  let t := bits w0 11 0
  let i := bits w0 63 24
  let d ← readTable .fw f t
  let s ← get
  let n := leNat entry
  let tier := bits n 1 0
  if cdiv d.rows (2 ^ d.shlog) ≤ i ∨ tier = 3 ∨ (tier < 2 ∧ (clu s (bits n 14 8)).part ≠ some f) then pure .bad
  else do
    let old ← readShard .fw f d (i * 2 ^ d.shlog)
    let s ← get
    let q := clu s old.home
    if old.tier < 2 ∧ (clu s old.home).part = some f ∧ !(q.infl.isEmpty && q.redo.isEmpty && q.fills.isEmpty) then pure .wait
    else do
      let rows := min (2 ^ d.shlog) (d.rows - i * 2 ^ d.shlog)
      if old.tier < 2 ∧ tier < 2 ∧ old.base ≠ bits n 111 64 then do
        let l ← rd io f none old.base (rows * recBytes d)
        wr io f none (bits n 111 64) l
      else pure ()
      wr .fw f none (d.smap + 16 * i) entry
      modify (invTable f t)
      pure .moved

/-- The record of a load that has been applied: the next one follows it. -/
def nextRecord (l : Load) (len : Nat) : Load :=
  { l with addr := l.addr + 16 + len, idx := l.idx + 1, sent := false, copying := false }

/-- Send a CHORUS record's segments to every enabled cell of every bound cluster, and keep them as the image. -/
def sendRecord (f : Nat) (l : Load) (segs : List Seg) (s : State) : State :=
  let s := modPart f (fun q => { q with image := if l.imaged then q.image ++ segs else segs }) s
  (clustersOf s f).foldl (fun s c => sendCluster c segs (some (f, l.cmd.seq)) s)
    (setLoad f { l with sent := true, imaged := true } s)

/-- Apply the present record of a load (Table 11.9). -/
def applyRecord (f : Nat) (l : Load) (hdr : List Byte) (s : State) : State :=
  let io := ioOf s f
  let w0 := leNat (hdr.take 8)
  let dest := bits (leNat (hdr.drop 8)) 47 0
  let ty := bits w0 3 0
  let len := bits w0 63 32
  let body := rd io f none (l.addr + 16) len
  if 3 < ty ∨ len % 8 ≠ 0 ∨ bits (l.cmd.a 0) 47 0 + bits (l.cmd.a 1) 39 0 < l.addr + 16 + len ∨ (ty ≠ 0 ∧ dest ≠ 0) then
    failLoad f l s
  else match ty with
    | 0 => match ioStart (dieOf s (mbxPort s f)) f l.cmd.seq f (l.addr + 16) dest len s with
      | none => s
      | some s => setLoad f { l with copying := true } s
    | 1 => match runEM body s with
      | .stop e s => stopLoad f l e s
      | .good b s => match segsOf (len / 32) b with
        | none => failLoad f l s
        | some segs => sendRecord f l segs s
    | 2 => match runEM body s with
      | .stop e s => stopLoad f l e s
      | .good b s =>
        let r := regPairs f ((upto (len / 8)).map fun i => leNat ((b.drop (8 * i)).take 8)) s
        if r.1 then setLoad f (nextRecord l len) r.2 else failLoad f l r.2
    | _ => match runEM body s with
      | .stop e s => stopLoad f l e s
      | .good b s =>
        if len ≠ 24 then failLoad f l s
        else match runEM (moveShard f io (leNat (b.take 8)) (b.drop 8)) s with
          | .stop (.fail _ _ _) s => failLoad f l s
          | .stop e s => stopLoad f l e s
          | .good .bad s => failLoad f l s
          | .good .wait s => s
          | .good .moved s => setLoad f (nextRecord l len) s

/-- The package's header, read once no request is in service (Table 11.9). -/
def openLoad (f : Nat) (l : Load) (s : State) : State :=
  let a := bits (l.cmd.a 0) 47 0
  if bits (l.cmd.a 1) 39 0 < 32 then failLoad f l s
  else match runEM (rd (ioOf s f) f none a 32) s with
    | .stop e s => stopLoad f l e s
    | .good b s =>
      let w0 := leNat (b.take 8)
      if bits w0 15 0 ≠ 1 then failLoad f l s
      else setLoad f { l with opened := true, addr := a + 32, total := bits w0 63 32 } s

/-- One step of a load: its header, its present record, the wait for that record's chorus, or its end. -/
def stepLoad (f : Nat) (l : Load) (s : State) : State :=
  if !l.opened then (if (reqsIn s f .service).isEmpty then openLoad f l s else s)
  else if l.failed then dueCmd f l.cmd 1 0x05_0008 l.idx (endLoad f s)
  else if l.copying then
    match s.ioSlots.find? fun x => x.2.mbx == f with
    | none => setLoad f { l with copying := false } s
    | some x => match x.2.stop with
      | some e => stopLoad f l e s
      | none =>
        if !x.2.todo.isEmpty then s
        else match runEM (rdN (ioOf s f) f none l.addr 8) s with
          | .good w s => setLoad f (nextRecord l (bits w 63 32)) { s with ioSlots := merase s.ioSlots x.1 }
          | .stop e s => stopLoad f l e s
  else if l.sent then
    if s.chorus.any fun j => j.cmd == some (f, l.cmd.seq) then s
    else match runEM (rdN (ioOf s f) f none l.addr 8) s with
      | .good w s => setLoad f (nextRecord l (bits w 63 32)) s
      | .stop e s => stopLoad f l e s
  else if l.total ≤ l.idx then endCmd f l.cmd 0 0 l.idx (endLoad f s)
  else if bits (l.cmd.a 0) 47 0 + bits (l.cmd.a 1) 39 0 < l.addr + 16 then failLoad f l s
  else match runEM (rd (ioOf s f) f none l.addr 16) s with
    | .stop e s => stopLoad f l e s
    | .good h s => applyRecord f l h s

/-- CMD_LOAD_MODEL: it starts, which stops dispatch, or goes on by one record (R386). -/
def execCmdLoadModel (f : Nat) (s : State) : Out :=
  if 20 < f then .fault .noSuchUnit
  else match nextCmd s f 0x02 with
    | some c =>
      .next (modPart f (fun q => { q with loading := true, load := some { cmd := c } }) (startCmd f c s))
    | none => match (part s f).load with
      | some l => .next (stepLoad f l s)
      | none => .next s

/-! ### CMD_UPDATE_ROWS (R260) -/

/-- Clusters of a partition that may take in a host command's batch. -/
def takers (s : State) (p : Nat) : List Nat :=
  (clustersOf s p).filter fun c => !(clu s c).leaving && !isFrozen s p (.upd c)

/-- CMD_UPDATE_ROWS: the batch goes to an update engine of the partition, a free pick; it waits while none is bound. -/
def execCmdUpdateRows (f : Nat) (s : State) : Out :=
  if 20 < f then .fault .noSuchUnit
  else match nextCmd s f 0x05 with
    | none => .next s
    | some c =>
      match (clustersOf s f).find? fun k => isFrozen s f (.upd k), takers s f with
      | none, [] => .next s
      | some k, [] => .next (endCmd f c 7 (masterId (.upd k)) 0 (startCmd f c s))
      | _, l =>
        let r := takeFree (startCmd f c s)
        .next (newBatch {
          part := f, clu := l.getD (r.1 % l.length) 0, kind := 0, addr := bits (c.a 0) 47 0, out := bits (c.a 1) 47 0,
          due := { mbx := f, tag := c.tag, seq := c.seq, island := fwIsland s f, fvis := c.fvis, noirq := c.noirq } } r.2)

/-! ### CMD_QUERY (R387) -/

/-- A mask of vacant logical clusters. -/
def vacantMask (s : State) : Nat := ((upto 96).filter fun c => (clu s c).vacant).foldl (fun r c => r + 2 ^ c) 0

/-- Enabled clusters of the module. -/
def enabledClus (s : State) : Nat := ((upto 96).filter fun c => !(clu s c).vacant).length

/-- The variant, as SELECT 0 gives it. -/
def variantCode (s : State) : Nat :=
  match s.variant with
  | .v16x4 => 0x1604
  | .v12x4 => 0x1204
  | .v16x2 => 0x1602
  | .v8x2 => 0x0802

/-- SELECT 0. -/
def queryModule (s : State) (p : Nat) : List Nat :=
  let m := vacantMask s
  let rel := bits (dreg s Reg.ERR_FW) 15 0
  [variantCode s + 0xB0 * 2 ^ 16 + rel / 256 * 2 ^ 32 + rel % 256 * 2 ^ 40 + Config.fwPatch rel % 65536 * 2 ^ 48,
   enabledClus s + nStacks s * 2 ^ 8 + nIoDies s * 2 ^ 16 + p * 2 ^ 24, m % 2 ^ 64, m / 2 ^ 64, 0, 0, 0, 0]

/-- SELECT 1: a word for each bound cluster. -/
def queryClus (s : State) (p : Nat) : List Nat :=
  (clustersOf s p).map fun c => c + (clu s c).ncell * 2 ^ 8 + sluSlot s c * 2 ^ 16 + c / 12 * 2 ^ 24

/-- SELECT 2: the physical slot of each logical cell; the byte of a number with no cell is free (log 4). -/
def queryCells (s : State) (p : Nat) : List Byte :=
  (clustersOf s p).flatMap fun c => (upto 32).map fun k =>
    if k < (clu s c).ncell then BitVec.ofNat 8 (cellSlotOf s c k) else Config.freeByte (s.fresh + 32 * c + k)

/-- SELECT 3: BASE_e of the update, vector and quantizer engines. -/
def querySeeds (s : State) (p : Nat) : List Nat :=
  [0, 96, 192].flatMap fun k => (clustersOf s p).map fun c => segNum (moduleIndex s) (mget 0 s.srGen (k + c)) (k + c) 0

/-- The response that SELECT names; none for a reserved SELECT. -/
def queryBytes (s : State) (p sel : Nat) : Option (List Byte) :=
  match sel with
  | 0 => some (wordsBytes (queryModule s p))
  | 1 => some (wordsBytes (queryClus s p))
  | 2 => some (queryCells s p)
  | 3 => some (wordsBytes (querySeeds s p))
  | _ => none

/-- Answer a query: into its buffer, or inline in a sideband response (R387, R531). -/
def runQuery (f : Nat) (c : Cmd) (s : State) : State :=
  let p := if f < 16 then f else bits (c.a 0) 11 8
  if (part s p).mapBad ∧ bits (c.a 0) 7 0 ≠ 0 then mapFails f c s
  else match queryBytes s p (bits (c.a 0) 7 0) with
    | none => endCmd f c 1 0x0B_0004 0 s
    | some l =>
      let s := { s with fresh := s.fresh + 3072 }
      if f = 20 then
        endCmd f c 0 0 l.length { s with sent := s.sent ++ [(10, (l.take 256).map fun b => b.toNat)] }
      else if bits (c.a 2) 31 0 < l.length then endCmd f c 1 0x0B_000F l.length s
      else match runEM (wr (ioOf s f) f none (bits (c.a 1) 47 0) l) s with
        | .good _ s => endCmd f c 0 0 l.length s
        | .stop e s => stopCmd f c 0x09_000A 0 e s

/-- CMD_QUERY. -/
def execCmdQuery (f : Nat) (s : State) : Out := cmdEvent f 0x07 (runQuery f) s

/-! ### CMD_SET_BUDGET (R388) -/

/-- Set the cap of a partition. -/
def setBudget (f : Nat) (c : Cmd) (s : State) : State :=
  let p := if f < 16 then f else bits (c.a 0) 19 16
  let cap := bits (c.a 0) 15 0
  if (part s p).mapBad then mapFails f c s
  else if cap ≠ 0 ∧ cap < 16 * (clustersOf s p).length then endCmd f c 1 0x0B_0010 0 s
  else endCmd f c 0 0 0
    (if f < 16 then modPart p (fun q => { q with capReq := cap }) s else setDreg (Reg.PWR_PT_CAP_SET + 8 * p) cap s)

/-- CMD_SET_BUDGET. -/
def execCmdSetBudget (f : Nat) (s : State) : Out := cmdEvent f 0x09 (setBudget f) s

/-! ### CMD_RECLAIM (R398, R399) -/

/-- The partition leaves orphan hold. -/
def leaveOrphan (p : Nat) (s : State) : State :=
  modPart p (fun q => { q with st := if q.st = .orphan then .active else q.st }) s

/-- Check a token in the order of R398. -/
def reclaim (f p : Nat) (c : Cmd) (s : State) : State :=
  let q := part s p
  if !complOk 64 (c.a 0) (c.a 1) then endCmd f c 0x0D 0x0B_0008 0 s
  else if !complOk 64 q.token q.tokenN then
    endCmd f c 0x0D 0x0B_0008 0 (fwRecord { cmdErr s f c 0x0D 0x0B_0008 0 with part := none, mgmtMbx := none } s)
  else if q.token = 0 ∨ c.a 0 ≠ q.token then
    endCmd f c 1 0x0B_0007 0 (bumpP p Reg.PT_RECLAIM_FAIL 0 1 (modPart p (fun q => { q with lockout := true }) s))
  else if f < 16 then endCmd f c 0 0 0 (leaveOrphan p (deliverHeld p s))
  else endCmd f c 0 0 0 (modMbx p (fun m => { m with letGo := true }) (leaveOrphan p s))

/-- CMD_RECLAIM: from the management function with FORCE it needs no token, and the held records follow the next
doorbell; after a failure it is not examined for 1 s (R398, R399). -/
def execCmdReclaim (f : Nat) (s : State) : Out :=
  if 20 < f then .fault .noSuchUnit
  else match nextCmd s f 0x0A with
    | none => .next s
    | some c =>
      let p := if f < 16 then f else bits (c.a 2) 3 0
      if 16 ≤ f ∧ bitAt (c.a 2) 4 then
        let s := startCmd f c s
        .next (endCmd f c 0 0 0 (if (part s p).st = .orphan then
          modMbx p (fun m => { m with letGo := true }) (leaveOrphan p s) else s))
      else if (part s p).lockout then .next s
      else .next (reclaim f p c (startCmd f c s))

end Sys2Proof.Machine
end

