-- ==== Sys2Proof/Machine/Host.lean ====
section
/-!
DEFINITION. The host ports: PERST#, Function Level Reset and orphan hold (R395 to R401), the DEV registers (R368, R389),
and a bulk port's loss of its expander (R372).
-/
namespace Sys2Proof.Machine

/-- Management BAR0 serves an offset: the DEV, BRG and DFL pages from the end of stage MGMT, the rest once the outcome is
READY or READY_DEGRADED (R461, R472). -/
def mgmtPage (s : State) (off : Nat) : Bool :=
  mgmtEnded s &&
    (served s || (decide (0x900 ≤ off) && decide (off < 0x2000)) || (decide (0x40000 ≤ off) && decide (off < 0x41000)))

/-! ### Orphan hold (R396) -/

/-- A command or request of the partition has a record due that the new driver has to see (R396). -/
def heldDue (p : Nat) (d : Due) : Bool := d.mbx == p && d.kind == 0 && d.status != 0x08

/-- Order of admission: sequence numbers count up to the mailbox's S. -/
def earlier (q : Nat) (a b : Due) : Bool :=
  decide ((a.seq + 2 ^ 32 - q % 2 ^ 32) % 2 ^ 32 < (b.seq + 2 ^ 32 - q % 2 ^ 32) % 2 ^ 32)

/-- What is left of a mailbox whose function was reset: disabled, nothing fetched, no interrupt counted. -/
def Mbx.silent (m : Mbx) : Mbx :=
  { m with target := none, reads := 0, ahead := false, cmds := [], counted := 0, since := 0, errs := 0, waitAt := none,
           reqSeqs := [], msixPend := [], letGo := false }

/-- Put a partition in orphan hold; its open items end with HOST_GONE (R396). -/
def orphan (p detail : Nat) (s : State) : State :=
  let s := endAll p 0x0B detail s
  let old := (sortBy (earlier (mbxS s p)) (s.due.filter (heldDue p))).map fun d => { d with old := true }
  let s := setEnable p false { s with due := s.due.filter fun d => d.mbx != p }
  modPart p (fun q => { q with st := .orphan })
    (modMbx p (fun m => { m.silent with held := m.held ++ old }) s)

/-- The page requests and waiting window accesses of a partition's function are lost with its link or function. -/
def dropHost (p : Nat) (s : State) : State :=
  { s with pages := s.pages.filter fun r => (clu s r.clu).part != some p
           winQ := s.winQ.filter fun q => q.part != p }

/-- PERST# or FLR reaches a bound partition (R395, R396, R401, R426). -/
def hostGone (p detail : Nat) (s : State) : State :=
  let s := dropHost p s
  match (part s p).st with
  | .unbound => s
  | .resetting => setEnable p false s
  | _ =>
    if bitAt (dreg s (Reg.DEV_PORT_CFG + 8 * (part s p).port)) 0 then beginReset p 0x06 0 (setEnable p false s)
    else orphan p detail s

/-- PF0 of a port is reset: a management mailbox's registers take their reset values, and its rings are gone. A command that it
has read still runs, and its record waits until the rings are set up again (R17, R395; log 40). -/
def resetPf0 (port : Nat) (s : State) : State :=
  let f := 16 + port
  let m := mbxOf s f
  let cmds := m.cmds.filter fun c => !(c.due || s.due.any fun d => d.mbx == f && d.seq == c.seq)
  let due := s.due.map fun d => if d.mbx = f then { d with old := true } else d
  if !cmds.isEmpty || (due.any fun d => d.mbx == f) then
    { s with mbx := mset {} s.mbx f { cmds := cmds, lost := m.lost, gone := true }, due := due }
  else { s with mbx := merase s.mbx f }

/-- Partitions bound to a port. -/
def boundTo (s : State) (port : Nat) : List Nat :=
  (upto 16).filter fun p => (part s p).st != .unbound && (part s p).port == port

/-- A mask without a bit. -/
def clearBit (w b : Nat) : Nat := if bitAt w b then w - 2 ^ b else w

/-- Give a bit of a mask a value. -/
def putBit (w b : Nat) (v : Bool) : Nat := clearBit w b + (if v then 2 ^ b else 0)

/-- A port's configuration space changes: the translations of a VF whose ATS Enable is clear are dropped (R369). -/
def setHostCfg (port : Nat) (h : HostCfg) (s : State) : State :=
  { s with hostCfg := mset {} s.hostCfg port h
           atc := s.atc.filter fun x => x.port != port || bitAt h.ats (x.vf - 1) }

/-- A link that PCIe allows: generations 1 to 6, widths 1 to 16 (Table 11.1). -/
def linkOk (gen width : Nat) : Bool := decide (1 ≤ gen) && decide (gen ≤ 6) && [1, 2, 4, 8, 16].contains width

/-- PERST: PERST# of a host port; its configuration space is reset, and it trains again, as CXL if so configured, at a generation
and width (R366, R371, R395). -/
def execPerst (port gen width : Nat) (s : State) : Out :=
  if 4 ≤ port ∨ !linkOk gen width then .fault .noSuchUnit
  else if s.pwr ≠ 2 then .next s
  else
    let s := (boundTo s port).foldl (fun s p => hostGone p 0x0B_000B s) s
    let s := resetPf0 port (setHostCfg port {} { s with pages := s.pages.filter fun r => r.port != port })
    .next { s with cxl := putBit s.cxl port (bitAt (dreg s (Reg.DEV_PORT_CFG + 8 * port)) 2)
                   hostLnk := mset (0, 0) s.hostLnk port (gen, width) }

/-- FLR: a Function Level Reset of PF0 (fn 0) or of VF fn of a host port, which clears that VF's ATS and PRI Enable (R395; log
84). -/
def execFlr (port fn : Nat) (s : State) : Out :=
  if 4 ≤ port ∨ 16 < fn then .fault .noSuchUnit
  else if s.pwr ≠ 2 then .next s
  else if fn = 0 then .next (resetPf0 port s)
  else
    let h := mget {} s.hostCfg port
    let s := ((boundTo s port).filter fun p => (part s p).vf == fn).foldl (fun s p => hostGone p 0x0B_000C s) s
    .next (setHostCfg port { h with ats := clearBit h.ats (fn - 1), pri := clearBit h.pri (fn - 1) } s)

/-! ### DEV registers -/

/-- DEV_EXPERT_WRITE (R389). -/
def execDevExpertWrite (v : Nat) (s : State) : Out :=
  when (mgmtPage s Reg.DEV_EXPERT) (setDreg Reg.DEV_EXPERT (bits v 15 0)) s

/-- A write of DEV_PORT_CFG: QUIET while VF Enable is 1; BAR2_LOG is clamped; the last MGMT_OK stays unless a sideband
session is open (R368, R544, Table 11.16). -/
def portCfgWrite (port v : Nat) (s : State) : State :=
  let off := Reg.DEV_PORT_CFG + 8 * port
  if (mget {} s.hostCfg port).vfen then mgmtViol off s
  else if !bitAt v 1 && !s.session && (upto 4).all (fun q => q == port || !mgmtOk s q) then s
  else setDreg off (bits v 2 0 + min 36 (max 30 (bits v 13 8)) * 256) s

/-- DEV_PORT_CFG_WRITE: `h` is what the host has set in the port's configuration space by then (R366, R368). -/
def execDevPortCfgWrite (port v : Nat) (h : HostCfg) (s : State) : Out :=
  if 4 ≤ port then .fault .noSuchUnit
  else
    let s := setHostCfg port { h with ats := h.ats % 2 ^ 16, pri := h.pri % 2 ^ 16 } s
    when (mgmtPage s Reg.DEV_PORT_CFG) (portCfgWrite port v) s

/-! ### Bulk ports -/

/-- BULK_PORT_LINK_DOWN: a bulk port loses its link or its expander, a failure event, or has trained it again (R372,
R515). -/
def execBulkPortLinkDown (port : Nat) (trained : Bool) (s : State) : Out :=
  if 4 ≤ port then .fault .noSuchUnit
  else if trained then .next { s with bulkOut := clearBit s.bulkOut port }
  else if bitAt s.bulkOut port then .next s
  else .next (failEvent (linkRecord s 3 port 0) { s with bulkOut := putBit s.bulkOut port true })

end Sys2Proof.Machine
end

