-- ==== Sys2Proof/Machine/Bringup.lean ====
section
/-!
DEFINITION. Device reset and bring-up (R426, R459 to R481): the five stages, spare substitution, the restore of the
partition map, the outcome, the report and the defect list.
-/
namespace Sys2Proof.Machine

/-! ### Device reset (R426) -/

/-- Ports whose policy is RETAIN, as a mask (R395). -/
def retainPorts (s : State) : Nat := maskOf 4 fun q => !bitAt (dreg s (Reg.DEV_PORT_CFG + 8 * q)) 0

/-- The records of one partition, as far as its ring takes them. -/
def lastRecords (p : Nat) (s : State) : State :=
  (s.due.filter fun d => d.mbx == p).foldl (fun s d =>
    if cplRoom s p then writeCpl p d { s with due := s.due.erase d } else s) s

/-- A device reset ends the open items of every partition, and first writes their PARTITION_RESET records as far as the rings of
ports under RETAIN take them (R426). -/
def finalRecords (s : State) : State :=
  ((upto 16).filter fun p => (part s p).st != .unbound).foldl (fun s p =>
    let s := endAll p 0x06 0 s
    if bitAt (retainPorts s) (part s p).port && mbxEnabled s p && mbxExists s p then lastRecords p s else s) s

/-- Items of a mailbox whose records a device reset leaves unwritten: HOST_GONE records held, records due and, of a management
function, commands still open (R17; log 40). -/
def unwritten (s : State) (f : Nat) : Nat :=
  let m := mbxOf s f
  let due := s.due.filter fun d => d.mbx == f
  m.held.length + due.length +
    (if f < 16 then 0 else (m.cmds.filter fun c => !(c.due || due.any fun d => d.seq == c.seq)).length)

/-- Registers that flash keeps (R460), and what flash holds of ERR_MGMT and PWR_MERR. -/
def flashReg (x : Nat × Nat) : Option (Nat × Nat) :=
  let o := x.1
  if o = Reg.LNK_DOMAIN ∨ o = Reg.LNK_POLICY ∨ o = Reg.BRG_BOOTS ∨ (0x900 ≤ o ∧ o < 0x920) then some x
  else if o = Reg.BRG_CFG then some (o, x.2 % 2)
  else if o = Reg.ERR_MGMT then some (o, bits x.2 63 32 * 2 ^ 32)
  else if o = Reg.PWR_MERR then some (o, bits x.2 18 16 * 2 ^ 16)
  else none

/-- The map entry of a partition, as flash holds it (R408, R426). -/
def mapEntry (s : State) (p : Nat) (q : Part) : Part :=
  if q.st = .unbound then {}
  else { st := .resetting, insts := clustersOf s p, hbm := q.hbmNext, bulk := q.bulkNext, hbmNext := q.hbmNext,
         bulkNext := q.bulkNext, port := q.port, vf := q.vf, quota := q.quota, shares := q.shares }

/-- A blank report (R477). -/
def blankReport : List Nat := State.reset.rpt

/-- The state in which a start begins: what module flash, external memory and the host ports keep (R426, R459, R460).
`keep` are the host ports that keep their link and configuration space. Cycle counters go on, but for those of a cluster that was OFF, which
wakes (R27; log 66). -/
def newStart (warm : Bool) (keep : Nat) (s : State) : State :=
  { variant := s.variant
    clus := mmap {} (fun c q => { part := q.part, regs := q.regs.filter fun x => x.1 == Reg.PWR_CLK
                                  cycCell := if q.pw = .off then 0 else cellCycles s c
                                  cycCmp := if q.pw = .off then 0 else cmpCycles s c, cycAt := s.now }) s.clus
    parts := mmap {} (mapEntry s) s.parts
    netq := mmap {} (fun _ q => { part := q.part }) s.netq
    mem := s.mem.filter fun x => decide (2 ^ 37 ≤ x.1)
    ecc := s.ecc.filter fun x => decide (2 ^ 37 ≤ x.1)
    srGen := s.srGen
    dregs := s.dregs.filterMap flashReg |>.filter fun x => x.2 != devReset x.1
    dfl := s.dfl, logs := (s.rpt :: s.logs).take 7
    slotRel := s.slotRel, slotAct := s.slotAct
    chanSlot := s.chanSlot, stackOff := s.stackOff, bulkCap := s.bulkCap, bulkWd := s.bulkWd
    cxl := maskOf 4 fun q => if bitAt keep q then bitAt s.cxl q else bitAt (dreg s (Reg.DEV_PORT_CFG + 8 * q)) 2
    hostCfg := s.hostCfg.filter fun x => bitAt keep x.1
    hostLnk := s.hostLnk.filter fun x => bitAt keep x.1
    warm := warm, stepped := bitAt (dreg s Reg.BRG_CFG) 0, began := s.now, stageAt := s.now, beatAt := s.now
    pwrEn := s.pwrEn, trip := s.trip, vinBad := s.vinBad, session := s.session, sessAt := s.sessAt
    pldm := if s.pldm = 2 then 2 else 0
    sent := s.sent, ans := s.ans, now := s.now, upAt := s.upAt, fresh := s.fresh, pending := s.pending }

/-- A device reset; `held` says that HBM held self-refresh throughout (R459). The records that no ring takes are counted (R17, R399). -/
def deviceReset (held : Bool) (s : State) : State :=
  if s.pwr ≠ 2 then s
  else
    let s := finalRecords s
    let n := ((upto 20).map (unwritten s)).sum
    loseRecords n (newStart (held && !bitAt (dreg s Reg.BRG_CFG) 1) (retainPorts s) s)

/-- DEVICE_RESET (R426, R481). -/
def execDeviceReset (held : Bool) (s : State) : Out := .next (deviceReset held s)

/-! ### The defect list (R478, R479) -/

/-- A unit is out of service: listed, or found failing at this start. -/
def unitBad (s : State) (kind island index : Nat) : Bool :=
  inDfl s kind island index || s.bad.any fun x => x.kind == kind && x.island == island && x.index == index

/-- The units out of service, as kind, island and index. -/
def badUnits (s : State) : List (Nat × Nat × Nat) :=
  (s.dfl.map fun e => (bits e.1 3 0, bits e.1 31 16, bits e.1 47 32)) ++ s.bad.map fun x => (x.kind, x.island, x.index)

/-- A finding names a unit that the module has, by its kind (Table 1.6, Table 14.6). -/
def namesUnit (s : State) (x : Finding) : Bool :=
  let slot : Bool := decide (x.island / 4096 < 8) && decide (bits x.island 11 6 ≤ 12)
  let cell : Bool := slot && decide (x.island % 64 ≤ 33)
  let clu : Bool := slot && (x.island % 64 == 0x30 || x.island % 64 == 0x31)
  let stack : Bool := (upto (nStacks s)).any fun k => hbmIsland s (32 * k) == x.island
  let link : Bool := (upto 16).any fun l => linkIsland s l == x.island
  let port (base : Nat) : Bool := (upto 4).any fun q => portIsland s base q == x.island
  match x.kind with
  | 1 => cell && x.index == 0
  | 2 => clu && x.index == 0
  | 3 => cell && decide (x.index < 16)
  | 4 => clu && decide (x.index < 64)
  | 5 => stack && decide (x.index < 34)
  | 6 => stack && x.index == 0
  | 7 => link && decide (x.index < 9)
  | 8 => port 0x30 && decide (x.index < 2048)
  | 9 => (port 0x10 || port 0x20 || port 0x30) && x.index == 0
  | _ => false

/-- Findings of a stage: units not listed before fail, and are appended; a warm restart appends nothing for external
memory, and a failed flash write nothing at all (R465, R478, R483). -/
def noteFindings (stage : Nat) (flashBad : Bool) (fs : List Finding) (s : State) : State :=
  fs.foldl (fun s x =>
    if unitBad s x.kind x.island x.index || !namesUnit s x then s
    else
      let s := { s with bad := s.bad ++ [x] }
      if s.warm && (x.kind == 5 || x.kind == 6 || x.kind == 8) then s
      else if flashBad then flagD Reg.BRG_ERR 0 s
      else addDefect stage x s) s

/-! ### Spare substitution (R25, R469, Table 14.2) -/

/-- Each unit takes its own slot or, if that is bad, the next good eft's; what is left without one is missing. -/
def assignEfts (isBad : Nat → Bool) : List Nat → List Nat → List Nat
  | [], _ => []
  | k :: r, efts =>
    if isBad k then
      match efts with
      | [] => assignEfts isBad r []
      | e :: es => e :: assignEfts isBad r es
    else k :: assignEfts isBad r efts

/-- A cell slot fails: the cell, or one of its banks. -/
def cellBad (b : List (Nat × Nat × Nat)) (island : Nat) : Bool := b.any fun x => (x.1 == 1 || x.1 == 3) && x.2.1 == island

/-- A cluster slot fails by itself: its store, an engine or an island. -/
def cluBad (b : List (Nat × Nat × Nat)) (die cs : Nat) : Bool :=
  b.any fun x => (x.1 == 2 || x.1 == 4) && x.2.1 / 64 == 64 * die + cs

/-- The slots of a cluster's enabled cells, in logical order. -/
def cellSlots (b : List (Nat × Nat × Nat)) (die cs : Nat) : List Nat :=
  let isl (k : Nat) : Nat := 4096 * die + 64 * cs + k
  assignEfts (fun k => cellBad b (isl k)) (upto 32) ([32, 33].filter fun k => !cellBad b (isl k))

/-- Slots of a die's clusters: a failed one takes the eft; without it, it stays if it fails on its cell count alone. -/
def placeClus (fails hard : Nat → Bool) : List Nat → List Nat → List (Option Nat)
  | [], _ => []
  | k :: r, efts =>
    if !fails k then some k :: placeClus fails hard r efts
    else match efts with
      | e :: es => some e :: placeClus fails hard r es
      | [] => (if hard k then none else some k) :: placeClus fails hard r []

/-- Slots of the twelve logical clusters of a die. -/
def dieSlots (b : List (Nat × Nat × Nat)) (die : Nat) : List (Option Nat) :=
  let short (k : Nat) : Bool := decide ((cellSlots b die k).length < 32)
  let hard (k : Nat) : Bool := cluBad b die k
  placeClus (fun k => hard k || short k) hard (upto 12) (if hard 12 || short 12 then [] else [12])

/-- Slot and cell slots of each logical cluster, ascending; none for a vacant number. -/
def cluPlaces (b : List (Nat × Nat × Nat)) : List (Option (Nat × List Nat)) :=
  (upto 8).flatMap fun d => (dieSlots b d).map fun x => x.map fun cs => (cs, cellSlots b d cs)

/-- Island of an HBM stack's controller. -/
def stackIsland (s : State) (k : Nat) : Nat := hbmIsland s (32 * k)

/-- Slots of a stack's 32 channels; none when the stack is disabled or the variant has none of its number. -/
def stackSlots (s : State) (k : Nat) : Option (List Nat) :=
  let b := badUnits s
  let chBad (j : Nat) : Bool := b.any fun x => x.1 == 5 && x.2.1 == stackIsland s k && x.2.2 == j
  let l := assignEfts chBad (upto 32) ([32, 33].filter fun j => !chBad j)
  if b.any (fun x => x.1 == 6 && x.2.1 == stackIsland s k) || decide (l.length < 32) || decide (nStacks s ≤ k) then none else some l

/-- A logical cluster takes its place. -/
def placeClu (c : Nat) (x : Option (Nat × List Nat)) (s : State) : State :=
  match x with
  | none => modClu c (fun q => { q with vacant := true }) s
  | some (cs, l) =>
    let cells := (upto l.length).foldl (fun m k => mset 0 m k (if l.getD k 0 = k then 0 else l.getD k 0 + 1)) []
    modClu c (fun q => { q with vacant := false, slot := if cs = c % 12 then 0 else cs + 1, ncell := l.length,
                                cellSlot := cells }) s

/-- Substitute cells and clusters. -/
def substClus (s : State) : State :=
  ((upto 96).zip (cluPlaces (badUnits s))).foldl (fun s x => placeClu x.1 x.2 s) s

/-- Substitute HBM channels. -/
def substHbm (s : State) : State :=
  (upto 16).foldl (fun s k =>
    match stackSlots s k with
    | none => { s with stackOff := putBit s.stackOff k true }
    | some l =>
      { s with stackOff := clearBit s.stackOff k
               chanSlot := (upto 32).foldl (fun m j =>
                 mset 0 m (32 * k + j) (if l.getD j 0 = j then 0 else l.getD j 0 + 1)) s.chanSlot }) s

/-- Every cluster and cell of Table 1.4 is enabled, efts included. -/
def fullClus (s : State) : Bool :=
  (cluPlaces (badUnits s)).all fun x => match x with
    | some (_, l) => l.length == 32
    | none => false

/-- Efts in use among clusters and cells. -/
def eftsUsed (l : List (Option (Nat × List Nat))) : Nat :=
  (l.map fun x => match x with
    | some (cs, ks) => b2n (cs == 12) + (ks.filter fun k => decide (32 ≤ k)).length
    | none => 0).sum

/-! ### Reports (R477, Table 14.5) -/

/-- Milliseconds since a tick. -/
def msSince (s : State) (t : Nat) : Nat := (s.now - t) / 25000 % 2 ^ 32

/-- Replace record i of the present report. -/
def setRec (i : Nat) (ws : List Nat) (s : State) : State :=
  { s with rpt := s.rpt.take (8 * i) ++ ws ++ s.rpt.drop (8 * i + 8) }

/-- RESULT of stage i. -/
def resultOf (s : State) (i : Nat) : Nat := bits (s.rpt.getD (8 * i) 0) 4 3

/-- Listed units of the kinds that a stage tests. -/
def listedOf (s : State) (kinds : List Nat) : Nat := (s.dfl.filter fun e => kinds.contains (bits e.1 3 0)).length

/-- What a stage's record tells beside its own words. -/
structure StageOut where
  result : Nat := 0
  detail : Nat := 0
  failed : Nat := 0
  efts : Nat := 0
  newDfl : Nat := 0
  first : Nat := 0
  listed : Nat := 0
  w3 : Nat := 0
  w4 : Nat := 0
  deriving DecidableEq, Repr

/-- Write the record of stage i; TESTED is a free value (log 4). -/
def putStage (i : Nat) (o : StageOut) (s : State) : State :=
  let r := takeFree s
  setRec i [i + o.result * 8 + o.detail % 2 ^ 24 * 2 ^ 8 + msSince s s.stageAt * 2 ^ 32,
            r.1 % 2 ^ 16 + min o.failed 65535 * 2 ^ 16 + min o.efts 65535 * 2 ^ 32 + min o.newDfl 65535 * 2 ^ 48,
            o.first % 2 ^ 16 + min o.listed 65535 * 2 ^ 16, o.w3, o.w4, 0, 0, 0] r.2

/-! ### The outcome (R471, R472) -/

/-- A counted direction keeps fewer links than MIN_LINKS; before the outcome a link in service is one that is UP. -/
def dirShort (s : State) : Bool :=
  (upto 4).any fun d => dirCounted s d &&
    decide (((upto 4).filter fun i => lnkState s (4 * d + i) == 3).length < bits (dreg s Reg.LNK_POLICY) 5 3)

/-- The outcome of a start. -/
def outcomeOf (s : State) : Nat :=
  if s.recovery || s.netBad || enabledClus s == 0 || s.stackOff == 65535 || dirShort s then 3
  else if (upto 5).all fun i => resultOf s i == 0 then 1 else 2

/-- A record of class MANAGEMENT (Table 15.3). -/
def mgmtRecord (s : State) (detail : Nat) : ErrInfo :=
  devRecord s 6 6 detail (dreg s Reg.ERR_MGMT % 2) (bits (dreg s Reg.ERR_MGMT) 63 32)

/-- The module has no standby (R508). -/
def noStandby (s : State) : State :=
  flagD Reg.ERR_DFLAGS 1 (fwRecord (mgmtRecord s 0x0F_0011) (setDreg Reg.ERR_MGMT (clearBit (dreg s Reg.ERR_MGMT) 1) s))

/-- The consolidated report is posted with an outcome; READY and READY_DEGRADED begin to serve (R462, R472, R477). -/
def postOutcome (o : Nat) (s : State) : State :=
  let boot := bits (dreg s Reg.BRG_BOOTS) 31 0
  let s := setRec 5 [o + 4 * b2n s.warm + 8 * b2n s.stepped + boot * 2 ^ 32, msSince s s.began + s.dropped % 2 ^ 16 * 2 ^ 32,
                     0, 0, 0, 0, 0, 0] s
  let s := { s with stage := if s.recovery then 0 else 5, staging := false, halted := false, outcome := o, reported := true }
  let s := if s.stbyOk then setDreg Reg.ERR_MGMT (orBit (dreg s Reg.ERR_MGMT) 1) s else noStandby s
  if o = 3 then s
  else setDirs { s with parts := mmap {} (fun _ q => if q.st = .resetting then { q with st := .active } else q) s.parts }

/-! ### Stages (R473 to R476) -/

/-- Fabric training begins on every counted link (R473). -/
def startTraining (s : State) : State :=
  (upto 16).foldl (fun s l => if dirCounted s (l / 4) && lnkState s l != 6 then setLnk l 1 s else s) { s with training := true }

/-- A stage starts; in native mode the links train beside stage MEMORY. -/
def startStage (i : Nat) (s : State) : State :=
  let s := { s with stage := i, staging := true, halted := false, stageAt := if i = 3 ∧ s.training then s.stageAt else s.now }
  if i = 3 ∧ !s.training ∨ i = 2 ∧ !s.stepped then startTraining s else s

/-- A stage has ended: the next one starts, or the device halts. -/
def endStage (i : Nat) (s : State) : State :=
  if s.stepped then { s with staging := false, halted := true }
  else if i = 4 then postOutcome (outcomeOf s) s
  else startStage (i + 1) s

/-- Stage i is running. -/
def stageRuns (s : State) (i : Nat) : Bool := s.pwr == 2 && s.stage == i && s.staging

/-- STAGE_MGMT: the boot ROMs have checked the image slots; `slots` are those whose image passes, `stby` says that the
standby's check passed (R460, R462). -/
def execStageMgmt (slots : Nat) (stby flashBad : Bool) (s : State) : Out :=
  if !stageRuns s 0 then .next s
  else
    let b := dreg s Reg.BRG_BOOTS
    let s := if flashBad then flagD Reg.BRG_ERR 0 s else s
    let s := if resultOf s 0 = 3 then setDreg Reg.BRG_BOOTS (bump32 0 1 (if s.warm then b else bump32 32 1 b)) s else s
    let first := bitAt slots s.slotAct
    let other := bitAt slots (1 - s.slotAct)
    if !first && !other then
      let s := putStage 0 { result := 2, detail := 0x0E_0005, failed := 2, first := coreIsland 0 + 1 } s
      .next (postOutcome 3 { s with recovery := true, stbyOk := false })
    else
      let s := if first then s else flagD Reg.BRG_ERR 2 { s with slotAct := 1 - s.slotAct }
      let rel := mget 0 s.slotRel s.slotAct
      let s := setDreg Reg.ERR_FW (rel + (if stby then rel * 2 ^ 16 else 0) + s.slotAct * 2 ^ 32) { s with stbyOk := stby }
      .next (endStage 0 (putStage 0 {
        result := if first && stby then 0 else 1, detail := if first then 0 else 0x0E_0005,
        failed := b2n (!first) + b2n (!stby),
        first := if first && stby then 0 else coreIsland (b2n first) + 1 } s))

/-- STAGE_CLOCKNET: `fs` are the cells, clusters, HBM stacks and ports whose islands failed; `net` is the island of a die network or I/O die
network that failed (R463). -/
def execStageClocknet (fs : List Finding) (net : Option Nat) (flashBad : Bool) (s : State) : Out :=
  if !stageRuns s 1 then .next s
  else
    let n := s.dfl.length
    let kinds := [1, 2, 6, 9]
    let listed := listedOf s kinds
    let fs := fs.filter fun x => kinds.contains x.kind && namesUnit s x && !unitBad s x.kind x.island x.index
    let s := (upto 96).foldl (fun s c => setClocks c s) (noteFindings 1 flashBad fs { s with netBad := net.isSome })
    .next (endStage 1 (putStage 1 {
      result := if net.isSome then 2 else if fullClus s && (badUnits s).all (fun x => x.1 != 6 && x.1 != 9) then 0 else 1
      detail := if net.isSome then 0x0E_0006 else 0,
      failed := fs.length + b2n net.isSome, newDfl := s.dfl.length - n, listed := listed,
      first := net.getD ((fs.head?.map fun x => x.island).getD 0) } s))

/-- Channels that this stage moved from the slot they had. -/
def movedChans (old new : SMap Nat) : List Nat := (upto 512).filter fun ch => mget 0 old ch != mget 0 new ch

/-- Units withdrawn: those that the list or the tests name (Table 14.2). -/
def withdrawn (s : State) : List Nat :=
  (badUnits s).filterMap fun x =>
    if x.1 = 8 then ((upto 4).find? fun q => portIsland s 0x30 q == x.2.1).map fun q => 2048 * q + x.2.2 else none

/-- GiB in service on the bulk ports. -/
def bulkGib (s : State) : Nat :=
  (((upto 4).filter fun q => !bitAt s.bulkOut q).map fun q =>
    mget 0 s.bulkCap q - (s.bulkWd.filter fun u => u / 2048 == q).length).sum

/-- Memory after the tests: SRAM holds 0; a cold start leaves external memory 0, a warm one loses the channels that an
eft replaced (R464, R465). -/
def testedMem (old : SMap Nat) (s : State) : State :=
  let lost := movedChans old s.chanSlot
  clearKeys (fun k => decide (k < 2 ^ 37) ||
    (decide (2 ^ 50 ≤ k) && decide (k < 2 ^ 52) &&
      (!s.warm || (decide (k < 2 ^ 51) && lost.contains ((k - 2 ^ 50) / 2 ^ 31))))) s

/-- STAGE_MEMORY: `fs` are the cells, clusters, banks, channels, stacks and bulk units that failed, `caps` the capacities
of the expanders fitted, in GiB, and `trained` the bulk ports that trained (R464, R465). -/
def execStageMemory (fs : List Finding) (caps : List Nat) (trained : Nat) (flashBad : Bool) (s : State) : Out :=
  if !stageRuns s 2 then .next s
  else
    let n := s.dfl.length
    let kinds := [1, 2, 3, 4, 5, 6, 8]
    let listed := listedOf s kinds
    let fs := fs.filter fun x => kinds.contains x.kind && namesUnit s x && !unitBad s x.kind x.island x.index
    let old := s.chanSlot
    let s := substHbm (noteFindings 2 flashBad fs s)
    let cap (q : Nat) : Nat := min 2048 (caps.getD q 0)
    let s := { s with bulkCap := (upto 4).foldl (fun m q => mset 0 m q (cap q)) []
                      bulkOut := maskOf 4 fun q => !(bitAt trained q && cap q != 0)
                      bulkWd := withdrawn s }
    let s := testedMem old s
    let nstk := ((upto 16).filter fun k => !bitAt s.stackOff k).length
    let full : Bool := nstk == nStacks s && s.bulkWd.isEmpty && fullClus s &&
      (upto 4).all fun q => cap q == 0 || bitAt trained q
    .next (endStage 2 (putStage 2 {
      result := if nstk = 0 then 2 else if full then 0 else 1, failed := fs.length,
      efts := (s.chanSlot.filter fun x => x.2 != 0).length, newDfl := s.dfl.length - n,
      first := (fs.head?.map fun x => x.island).getD 0, listed := listed,
      w3 := (32 * nstk - if s.warm then (movedChans old s.chanSlot).length else 0) + nstk * 2 ^ 10 +
        min s.bulkWd.length 65535 * 2 ^ 16 + bulkGib s * 2 ^ 32 } s))

/-- Lanes of the counted links that their training found failed. -/
def laneFindings (s : State) : List Finding :=
  ((upto 16).filter fun l => dirCounted s (l / 4)).flatMap fun l =>
    ((upto 9).filter fun i => bitAt (dreg s (lnkReg l Reg.LNK_LANES)) (16 + i) && !unitBad s 7 (linkIsland s l) i).map fun i =>
      { kind := 7, cause := 3, island := linkIsland s l, index := i }

/-- Every counted link has passed its soak or is excluded. -/
def linksSettled (s : State) : Bool :=
  (upto 16).all fun l => !dirCounted s (l / 4) || lnkState s l == 3 || lnkState s l == 4 || lnkState s l == 6

/-- Width code of a link. -/
def lnkWidth (s : State) (l : Nat) : Nat := bits (dreg s (lnkReg l Reg.LNK_STATUS)) 4 3

/-- Ports that the defect list keeps out of service, as a mask: base 0x10 host, 0x20 Ethernet, 0x30 bulk. -/
def portsListed (s : State) (base : Nat) : Nat := maskOf 4 fun q => unitBad s 9 (portIsland s base q) 0

/-- STAGE_LINKS: every counted link has settled. `host`, `eth` and `bulk` are the ports that trained, `hostOk`, `ethOk` and
`bulkOk` those that passed their soak, and `absent` the Ethernet ports with no cage module or partner (R466, R467). -/
def execStageLinks (host hostOk eth ethOk absent bulk bulkOk : Nat) (flashBad : Bool) (s : State) : Out :=
  if !stageRuns s 3 || !linksSettled s then .next s
  else
    let n := s.dfl.length
    let listed := listedOf s [7, 9]
    let fs := laneFindings s
    let s := noteFindings 3 flashBad fs s
    let good (ok base q : Nat) : Bool := bitAt ok q && !bitAt (portsListed s base) q
    let up := maskOf 16 fun l => lnkState s l == 3
    let excl := maskOf 16 fun l => lnkState s l == 4
    let narrow := maskOf 16 fun l => lnkState s l == 3 && lnkWidth s l != 0
    let hostM := maskOf 4 fun q => bitAt host q && good hostOk 0x10 q
    let ethM := maskOf 4 fun q => bitAt eth q && good ethOk 0x20 q
    let bulkM := maskOf 4 fun q => bitAt bulk q && good bulkOk 0x30 q && mget 0 s.bulkCap q != 0
    let s := (upto 4).foldl (fun s q => setDreg (netReg q Reg.NET_STATUS) (if bitAt ethM q then 3 else 0) s) s
    let s := { s with bulkOut := maskOf 4 fun q => !bitAt bulkM q }
    let cnt (d : Nat) : Nat := ((upto 4).filter fun i => bitAt up (4 * d + i)).length
    let bad : Bool := (upto 16).any (fun l => dirCounted s (l / 4) && (!bitAt up l || bitAt narrow l)) ||
      (upto 4).any fun q => (bitAt host q && !bitAt hostM q) || (!bitAt absent q && !bitAt ethM q) ||
        (mget 0 s.bulkCap q != 0 && !bitAt bulkM q)
    .next (endStage 3 (putStage 3 {
      result := if dirShort s then 2 else if bad then 1 else 0,
      failed := fs.length + ((upto 16).filter fun l => bitAt excl l).length,
      efts := ((upto 16).filter fun l => bitAt (dreg s (lnkReg l Reg.LNK_LANES)) 8).length, newDfl := s.dfl.length - n,
      first := match fs.head? with
        | some x => x.island
        | none => ((upto 16).find? fun l => bitAt excl l).elim 0 (linkIsland s)
      listed := listed, w3 := up + excl * 2 ^ 16 + narrow * 2 ^ 32,
      w4 := cnt 0 + cnt 1 * 2 ^ 4 + cnt 2 * 2 ^ 8 + cnt 3 * 2 ^ 12 + hostM * 2 ^ 16 + ethM * 2 ^ 20 + bulkM * 2 ^ 24 } s))

/-! ### Restore of the partition map (R470) -/

/-- An extent names a channel of a disabled stack. -/
def extentLost (s : State) (e : Extent) : Bool :=
  (upto 16).any fun k => bitAt s.stackOff k && decide (e.first < 32 * k + 32) && decide (32 * k < e.first + e.n)

/-- Map resources were removed. -/
def mapDropped (n : Nat) (s : State) : State :=
  if n = 0 then s else flagD Reg.BRG_ERR 3 { s with dropped := s.dropped + n }

/-- A bound cluster is restored, or leaves its partition because its number is vacant. -/
def restoreClu (c : Nat) (s : State) : State :=
  let s := reseedClu c s
  match (clu s c).part with
  | none => s
  | some _ => if (clu s c).vacant then mapDropped 1 (modClu c (fun q => { q with part := none }) s) else bindOwners c s

/-- A partition's extents are restored up to the first that names a disabled stack. -/
def restorePart (p : Nat) (s : State) : State :=
  let q := part s p
  if q.st = .unbound then s
  else
    let es := q.hbm.takeWhile fun e => !extentLost s e
    mapDropped (q.hbm.length - es.length)
      (modPart p (fun q => { q with hbm := es, hbmNext := es, insts := clustersOf s p }) s)

/-- Restore the partition map. -/
def restoreMap (s : State) : State :=
  (upto 16).foldl (fun s p => restorePart p s) ((upto 96).foldl (fun s c => restoreClu c s) { s with dropped := 0 })

/-- STAGE_COMPUTE: `fs` are the cells and clusters that failed their chorus or self-test (R468 to R471). -/
def execStageCompute (fs : List Finding) (flashBad : Bool) (s : State) : Out :=
  if !stageRuns s 4 then .next s
  else
    let n := s.dfl.length
    let listed := listedOf s [1, 2]
    let fs := fs.filter fun x => (x.kind == 1 || x.kind == 2) && namesUnit s x && !unitBad s x.kind x.island x.index
    let s := restoreMap (substClus (noteFindings 4 flashBad fs s))
    let places := cluPlaces (badUnits s)
    let cells := (places.map fun x => match x with
      | some (_, l) => l.length
      | none => 0).sum
    .next (endStage 4 (putStage 4 {
      result := if enabledClus s = 0 then 2 else if fullClus s then 0 else 1, failed := fs.length, efts := eftsUsed places,
      newDfl := s.dfl.length - n, first := (fs.head?.map fun x => x.island).getD 0, listed := listed,
      w3 := enabledClus s + cells * 2 ^ 7 } s))

/-! ### CMD_CONTINUE and CMD_REPAIR_RESET (R476, R480) -/

/-- The action of CMD_CONTINUE on the halt. -/
def continueStage (action : Nat) (s : State) : State :=
  if action = 2 then postOutcome 3 s
  else if action = 1 then startStage s.stage { s with training := s.training && s.stage != 3 }
  else if s.stage = 4 then postOutcome (outcomeOf s) s
  else startStage (s.stage + 1) s

/-- CMD_CONTINUE (R476). -/
def execCmdContinue (f : Nat) (s : State) : Out :=
  cmdEvent f 0x0D (fun c s =>
    let action := bits (c.a 0) 5 4
    if !s.halted then endCmd f c 1 0x0E_0001 0 s
    else if bits (c.a 0) 2 0 ≠ s.stage then endCmd f c 1 0x0E_0002 0 s
    else if action = 3 then endCmd f c 1 0x0B_0004 0 s
    else endCmd f c 0 0 0 (continueStage action s)) s

/-- Entries that CMD_REPAIR_RESET leaves. -/
def keptDefects (all : Bool) (w : Nat) (l : List (Nat × Nat)) : List (Nat × Nat) :=
  if all then []
  else l.filter fun e => !(bits e.1 3 0 == bits w 3 0 && bits e.1 31 16 == bits w 31 16 && bits e.1 47 32 == bits w 47 32)

/-- A defect-list entry as a finding. -/
def entryUnit (e : Nat × Nat) : Finding :=
  { kind := bits e.1 3 0, cause := bits e.1 15 8, island := bits e.1 31 16, index := bits e.1 47 32 }

/-- CMD_REPAIR_RESET: a removed unit stays out of service until the next start (R480). -/
def execCmdRepairReset (f : Nat) (s : State) : Out :=
  cmdEvent f 0x0E (fun c s =>
    if bits (c.a 0) 63 48 ≠ 0x5A5A then endCmd f c 1 0x0E_0003 0 s
    else
      let l := keptDefects (bitAt (c.a 0) 0) (c.a 1) s.dfl
      let gone := (s.dfl.filter fun e => !l.contains e).map entryUnit
      endCmd f c 0 0 (s.dfl.length - l.length) { s with dfl := l, bad := s.bad ++ gone }) s

end Sys2Proof.Machine
end

