-- ==== Sys2Proof/Machine/Repair.lean ====
section
/-!
DEFINITION. Error records of latches (R488 to R492), retirement and readmission (R496 to R504), management takeover and
core restart (R505 to R510), live firmware update (R511, R512) and error injection (R517).
-/
namespace Sys2Proof.Machine

/-! ### Servicing latches (R488, R491) -/

/-- The pending latch of the highest severity, the earliest captured among equals (R491). -/
def topLatch : List Latch → Option Latch
  | [] => none
  | l :: r => match topLatch r with
    | none => some l
    | some m => some (if l.err.sev < m.err.sev then m else l)

/-- Entries of an error log within the last 24 h (R496). -/
def recent (s : State) (l : List (Nat × Nat)) : List Nat := (l.filter fun x => decide (s.now < x.2 + day)).map fun x => x.1

/-- 1 GiB unit of a bulk key: port and unit. -/
def bulkUnit (k : Nat) : Nat × Nat := ((k - 2 ^ 51) / 2 ^ 41, (k - 2 ^ 51) % 2 ^ 41 / 2 ^ 30)

/-- Island of a bulk port (Table 1.6). -/
def bulkIsland (s : State) (q : Nat) : Nat := portIsland s 0x30 q

/-- Bulk units whose poisoned reads have reached BULK_UE_LIMIT and that the list does not hold (Table 15.5). -/
def bulkTriggers (s : State) : List (Nat × Nat) :=
  let us := ((recent s s.ueLog).filter fun k => memKind k == 2).map bulkUnit
  us.eraseDups.filter fun u =>
    decide (max 1 (bits (dreg s Reg.ERR_POLICY) 27 20) ≤ us.count u) && !inDfl s 8 (bulkIsland s u.1) u.2

/-- A record of severity UNIT and class UNIT about a unit. -/
def unitRecord (s : State) (p : Option Nat) (detail kind island : Nat) : ErrInfo :=
  { devRecord s 5 4 detail (island + kind * 2 ^ 16) 8 with part := p }

/-- A bulk unit's trigger: recorded and listed, and withdrawn at the next start (R502). -/
def bulkTrigger (u : Nat × Nat) (s : State) : State :=
  addDefect 15 { kind := 8, cause := 8, island := bulkIsland s u.1, index := u.2 }
    (fwRecord (unitRecord s none 0x0F_0015 8 (bulkIsland s u.1)) s)

/-- Firmware writes the record of the latch it services; a latch whose OVF reached 255 triggers a retirement (R492). -/
def serviceLatch (l : Latch) (s : State) : State :=
  let s := routeErr l.err l.ovf { s with latches := s.latches.filter fun x => x.unit != l.unit }
  if l.ovf = 255 then { s with trig := s.trig ++ [l.unit] } else s

/-- ERROR_RECORD_WRITE: the first record that firmware itself has due, or else the latch that comes first, is written;
errors stay pending during a takeover (R488, R491, R506). -/
def execErrorRecordWrite (s : State) : Out :=
  if takingOver s then .next s
  else
    let s := (bulkTriggers s).foldl (fun s u => bulkTrigger u s) s
    match s.dueErr with
    | e :: r => .next (routeErr e 0 { s with dueErr := r })
    | [] => match topLatch s.latches with
      | some l => .next (serviceLatch l s)
      | none => .next s

/-! ### Triggers (R496, Table 15.5) -/

/-- AUTO_RETIRE. -/
def autoRetire (s : State) : Bool := bitAt (dreg s Reg.ERR_POLICY) 0

/-- UE_LIMIT uncorrectable errors among keys that satisfy a test, or CE_LIMIT distinct corrected words in one group of
them. -/
def overLimit (s : State) (mine : Nat → Bool) (group : Nat → Nat) : Bool :=
  let ue := (recent s s.ueLog).filter mine
  let ce := ((recent s s.ceLog).filter mine).eraseDups
  decide (max 1 (bits (dreg s Reg.ERR_POLICY) 19 16) ≤ ue.length) ||
    ce.any fun k => decide (max 1 (bits (dreg s Reg.ERR_POLICY) 15 8) ≤ (ce.filter fun j => group j == group k).length)

/-- A key lies in the SRAM of a cell: a scratchpad bank, or the cell's own. -/
def inCell (c k a : Nat) : Bool :=
  (inClu c a && bitAt a 29 && bits a 28 24 == k) || (decide (2 ^ 53 ≤ a) && a / 2 ^ 20 % 2 ^ 20 == 32 * c + k)

/-- A key lies in a cluster's store. -/
def inStore (c a : Nat) : Bool := inClu c a && !bitAt a 29

/-- A key lies in a logical HBM channel. -/
def inChan (ch a : Nat) : Bool := decide (2 ^ 50 ≤ a) && decide (a < 2 ^ 51) && (a - 2 ^ 50) / 2 ^ 31 == ch

/-- Number of a bank among all banks. -/
def bankNo (a : Nat) : Nat := let cb := bankOfKey a; 576 * cb.1 + cb.2

/-- The cluster that a unit with a latch belongs to, cells apart. -/
def unitClu : UnitId → Option Nat
  | .store c => some c
  | .dense c => some c
  | .vector c => some c
  | .gpe c _ => some c
  | .update c => some c
  | .strEng c _ => some c
  | .dispatcher c => some c
  | .quant c => some c
  | _ => none

/-- The count of a unit starts again. -/
def forget (mine : Nat → Bool) (s : State) : State :=
  { s with ueLog := s.ueLog.filter (fun x => !mine x.1), ceLog := s.ceLog.filter fun x => !mine x.1
           complLog := s.complLog.filter fun x => !mine x.1 }

/-- An ERR_RETIRE operation names the unit. -/
def asked (s : State) (kind island index : Nat) : Bool := s.repair == some (1, kind, island, index)

/-- The operation of ERR_RETIRE or ERR_READMIT ends with a RESULT. -/
def endRepair (result : Nat) (s : State) : State :=
  match s.repair with
  | none => s
  | some (op, _, island, _) =>
    setDreg Reg.ERR_REPAIR_STATUS (op * 2 + result * 8 + island * 2 ^ 16) { s with repair := none }

/-- Words that firmware copies to another unit: one with a corrected error is written corrected, one that reads uncorrectable stays
so, and the old unit's counts end (R498 to R500). -/
def copyWords (mine : Nat → Bool) (s : State) : State :=
  forget mine ((s.ecc.filter fun x => mine x.1 && x.2 == 1).foldl (fun s x => scrubFix x.1 s) s)

/-! ### Cells (R497, R498, R501) -/

/-- Slots in use by a cluster's cells. -/
def usedSlots (s : State) (c : Nat) : List Nat := (upto (clu s c).ncell).map (cellSlotOf s c)

/-- The lowest good cell slot of the cluster that holds no logical cell. -/
def freeCellSlot (s : State) (c : Nat) : Option Nat :=
  let b := badUnits s
  let isl (k : Nat) : Nat := 4096 * (c / 12) + 64 * sluSlot s c + k
  (upto 34).find? fun k => !(usedSlots s c).contains k && !cellBad b (isl k)

/-- Slots in which a cell's banks lie: they move to another one when their owners allow. -/
def moveBanks (c k : Nat) (s : State) : State :=
  { s with bankMoves := ((upto 16).map fun j => 576 * c + 64 + 16 * k + j) ++
      s.bankMoves.filter fun b => !(b / 576 == c && decide (64 + 16 * k ≤ b % 576) && decide (b % 576 < 80 + 16 * k)) }

/-- A logical cell moves to another slot: reset, partial chorus of the present image, a quiet join, its banks to follow
(R497, R504). -/
def moveCell (c k slot : Nat) (s : State) : State :=
  let p := (clu s c).part
  let s := absorbCell c k s
  let s := modCell c k (fun v => { frozen := v.frozen, quiet := p.isSome }) s
  let s := modClu c (fun q => { q with cellSlot := mset 0 q.cellSlot k (if slot = k then 0 else slot + 1) }) s
  let s := { s with chorus := s.chorus.map fun j => if j.clu = c ∧ j.cell = k then { j with sent := false } else j }
  let s := match p with
    | some p => sendImage c k (part s p).image none s
    | none => s
  moveBanks c k s

/-- A cell's trigger or request has been handled. -/
def cellHandled (c k : Nat) (s : State) : State :=
  forget (inCell c k) { s with trig := s.trig.filter fun u => u != .cell c k }

/-- Retire a cell whose cluster has an eft for it. -/
def retireCell (c k slot : Nat) (s : State) : State :=
  let old := cellIsland s c k
  let s := moveCell c k slot s
  unitRetired (clu s c).part { kind := 1, cause := 8, island := old } (cellIsland s c k)
    { s with heldBy := mset 0 s.heldBy old (k + 1) }

/-- CELL_RETIREMENT: a trigger or ERR_RETIRE retires a cell; `seen` stands for the trigger that no state shows, a
failed handshake (R496, R497, R501). -/
def execCellRetirement (c k : Nat) (seen : Bool) (s : State) : Out :=
  if 96 ≤ c ∨ 32 ≤ k then .fault .noSuchUnit
  else
    let isl := cellIsland s c k
    let req := asked s 1 isl 0
    let due := seen || s.trig.contains (.cell c k) || overLimit s (inCell c k) bankNo
    if !served s || (clu s c).vacant || decide ((clu s c).ncell ≤ k) || !(req || due) then .next s
    else if !req && !autoRetire s then .next (cellHandled c k (fwRecord (unitRecord s (clu s c).part 0x0F_0015 1 isl) s))
    else match freeCellSlot s c with
      | some slot => .next (if req then endRepair 0 (cellHandled c k (retireCell c k slot s)) else cellHandled c k (retireCell c k slot s))
      | none =>
        if req then .next (endRepair 1 s)
        else .next (cellHandled c k { s with cluTrig := c :: s.cluTrig.filter (· != c) })

/-- Stream descriptors of a cluster's engines act for a domain. -/
def actsFor (s : State) (c : Nat) (code : Nat) : Bool :=
  (clu s c).slots.any fun x => !x.2.words.isEmpty && xDom x.2.words == some code

/-- BANK_MOVE: a bank of a moved cell is copied and redirected once its owner is its own domain or NONE and no descriptor
acts for that domain (R498). -/
def execBankMove (c b : Nat) (s : State) : Out :=
  if 96 ≤ c ∨ 576 ≤ b then .fault .noSuchUnit
  else
    let v := bankOf s c b
    let own := ownCell ((b - 64) / 16)
    when (s.bankMoves.contains (576 * c + b) && (v.code == 0 || v.code == own) && !actsFor s c own)
      (fun s => copyWords (fun k => decide (k < 2 ^ 37) && bankOfKey k == (c, b))
        (drainBank c b { s with bankMoves := s.bankMoves.filter (· != 576 * c + b) })) s

/-! ### Clusters (R499, R501) -/

/-- Slots in use on a die. -/
def usedClus (s : State) (die : Nat) : List Nat :=
  ((upto 12).filter fun i => !(clu s (12 * die + i)).vacant).map fun i => sluSlot s (12 * die + i)

/-- A good cluster slot of the die with 32 good cells that holds no logical cluster. -/
def freeCluSlot (s : State) (die : Nat) : Option Nat :=
  let b := badUnits s
  (upto 13).find? fun cs => !(usedClus s die).contains cs && !cluBad b die cs && (cellSlots b die cs).length == 32

/-- A logical cluster takes a slot, with the cells of that slot. -/
def takeSlot (c cs : Nat) (s : State) : State := placeClu c (some (cs, cellSlots (badUnits s) (c / 12) cs)) s

/-- A cluster moves to an eft: reset, redirected, reseeded, its image sent, joined quietly (R499, R504). -/
def moveClu (c cs : Nat) (s : State) : State :=
  let p := (clu s c).part
  let s := resetClu c s
  let s := (upto 32).foldl (fun s k => modCell c k (fun v => { frozen := v.frozen, quiet := p.isSome }) s) s
  let again (j : ChorusJob) : ChorusJob := if j.clu = c then { j with sent := false } else j
  let s := { s with chorus := s.chorus.map again, bankMoves := s.bankMoves.filter fun b => b / 576 != c }
  let s := takeSlot c cs (copyWords (inClu c) (drainClu c s))
  let s := reseedClu c (modClu c (fun q => { q with joining := p.isSome }) s)
  match p with
  | some p => sendCluster c (part s p).image none s
  | none => s

/-- A move or bind of the cluster in progress ends: the cluster does not exist any more. -/
def endMoves (c : Nat) (s : State) : State :=
  (s.moves.filter fun m => m.clu == c).foldl (fun s m => endCmd m.mbx m.cmd 1 dBadResource 0 s)
    { s with moves := s.moves.filter fun m => m.clu != c }

/-- A cluster with no eft leaves its partition as an unbind with forced drain does, and its number is vacant (R501). -/
def loseClu (c : Nat) (s : State) : State :=
  let p := (clu s c).part
  let isl := cmpIsland s c
  let s := endMoves c s
  let s := match p with
    | some p => joinClu { clu := c, src := some p } (forceDrain c (wakeClu c s))
    | none => s
  let s := modClu c (fun q => { q with vacant := true, leaving := false }) s
  let s := flagD Reg.ERR_DFLAGS 3 (fwRecord (unitRecord s p 0x0F_0014 2 isl) s)
  match p with
  | some p => flagP p Reg.ERR_PFLAGS 3 s
  | none => s

/-- A cluster's trigger or request has been handled. -/
def cluHandled (c : Nat) (s : State) : State :=
  forget (inStore c) { s with trig := s.trig.filter (fun u => unitClu u != some c), cluTrig := s.cluTrig.filter (· != c) }

/-- Retire a cluster. -/
def retireClu (c : Nat) (s : State) : State :=
  let old := cmpIsland s c
  let p := (clu s c).part
  let note (sub : Nat) (s : State) : State :=
    unitRetired p { kind := 2, cause := 8, island := old } sub { s with heldBy := mset 0 s.heldBy old (c + 1) }
  match freeCluSlot s (c / 12) with
  | some cs => let s := moveClu c cs s; note (cmpIsland s c) s
  | none => note 0 (loseClu c s)

/-- CLUSTER_RETIREMENT: `seen` stands for the triggers that no state shows, jobs far past their bounds among them (R496,
R499, R501). -/
def execClusterRetirement (c : Nat) (seen : Bool) (s : State) : Out :=
  if 96 ≤ c then .fault .noSuchUnit
  else
    let isl := cmpIsland s c
    let req := asked s 2 isl 0
    let due := seen || s.cluTrig.contains c || s.trig.any (fun u => unitClu u == some c) || overLimit s (inStore c) bankNo
    if !served s || (clu s c).vacant || !(req || due) then .next s
    else if !req && !autoRetire s then .next (cluHandled c (fwRecord (unitRecord s (clu s c).part 0x0F_0015 2 isl) s))
    else .next (if req then endRepair 0 (cluHandled c (retireClu c s)) else cluHandled c (retireClu c s))

/-! ### HBM channels (R500, R501) -/

/-- Slot of a logical channel in its stack. -/
def chanSlotOf (s : State) (ch : Nat) : Nat := let v := mget 0 s.chanSlot ch; if v = 0 then ch % 32 else v - 1

/-- The lowest good channel slot of a stack that holds no logical channel. -/
def freeChan (s : State) (k : Nat) : Option Nat :=
  let used := (upto 32).map fun j => chanSlotOf s (32 * k + j)
  (upto 34).find? fun j => !used.contains j && !unitBad s 5 (stackIsland s k) j

/-- HBM_CHANNEL_RETIREMENT: a trigger or ERR_RETIRE starts the copy of a channel to an eft (R500); with no eft the trigger
is recorded (R501). -/
def execHbmChannelRetirement (ch : Nat) (s : State) : Out :=
  if 512 ≤ ch then .fault .noSuchUnit
  else
    let isl := hbmIsland s ch
    let req := asked s 5 isl (chanSlotOf s ch)
    let due := overLimit s (inChan ch) (fun _ => 0)
    if !served s || bitAt s.stackOff (ch / 32) || s.hbmCopy.any (fun x => x.1 == ch) || !(req || due) then .next s
    else match freeChan s (ch / 32) with
      | some slot =>
        if req || autoRetire s then .next { s with hbmCopy := s.hbmCopy ++ [(ch, slot)] }
        else .next (forget (inChan ch) (fwRecord (unitRecord s none 0x0F_0015 5 isl) s))
      | none =>
        if req then .next (endRepair 1 s)
        else .next (forget (inChan ch) (fwRecord (unitRecord s none 0x0F_0015 5 isl) s))

/-- Partitions whose extents name a channel. -/
def usersOf (s : State) (ch : Nat) : List Nat :=
  (upto 16).filter fun p => ((part s p).hbm ++ (part s p).hbmNext).any fun e => decide (e.first ≤ ch) && decide (ch < e.first + e.n)

/-- HBM_MOVE_STEP: the copy has ended, and the channel's number moves to the eft in one step (R500). -/
def execHbmMoveStep (ch : Nat) (s : State) : Out :=
  if 512 ≤ ch then .fault .noSuchUnit
  else match s.hbmCopy.find? fun x => x.1 == ch with
    | none => .next s
    | some (_, slot) =>
      let old := chanSlotOf s ch
      let req := asked s 5 (hbmIsland s ch) old
      let s := { s with hbmCopy := s.hbmCopy.filter (fun x => x.1 != ch)
                        chanSlot := mset 0 s.chanSlot ch (if slot = ch % 32 then 0 else slot + 1) }
      let s := unitRetired none { kind := 5, cause := 8, island := hbmIsland s ch, index := old } (hbmIsland s ch)
        (copyWords (inChan ch) s)
      let s := (usersOf s ch).foldl (fun s p => flagP p Reg.ERR_PFLAGS 0 s) s
      .next (if req then endRepair 0 s else s)

/-! ### ERR_RETIRE, ERR_READMIT and readmission (R503) -/

/-- The logical cell in a slot, by island: cluster and cell. -/
def cellAt (s : State) (island : Nat) : Option (Nat × Nat) :=
  match (upto 96).find? fun c => !(clu s c).vacant && cmpIsland s c / 64 == island / 64 with
  | none => none
  | some c => ((upto (clu s c).ncell).find? fun k => cellIsland s c k == island).map fun k => (c, k)

/-- The logical cluster in a slot, by its compute island. -/
def cluAt (s : State) (island : Nat) : Option Nat := (upto 96).find? fun c => !(clu s c).vacant && cmpIsland s c == island

/-- The HBM stack of a controller island. -/
def stackAt (s : State) (island : Nat) : Option Nat := (upto (nStacks s)).find? fun k => stackIsland s k == island

/-- The unit is in use. -/
def unitInUse (s : State) (kind island index : Nat) : Bool :=
  match kind with
  | 1 => (cellAt s island).isSome
  | 2 => (cluAt s island).isSome
  | 5 => match stackAt s island with
    | some k => !bitAt s.stackOff k && (upto 32).any fun j => chanSlotOf s (32 * k + j) == index
    | none => false
  | _ => false

/-- The island and kind name a unit that the module has. -/
def unitExists (s : State) (kind island index : Nat) : Bool :=
  match kind with
  | 1 => decide (island < 0x8000) && decide (bits island 11 6 < 13) && decide (bits island 5 0 < 34)
  | 2 => decide (island < 0x8000) && decide (bits island 11 6 < 13) && bits island 5 0 == 0x30
  | 5 => (stackAt s island).isSome && decide (index < 34)
  | _ => false

/-- A write of ERR_RETIRE (op 1) or ERR_READMIT (op 2); GO starts the operation unless one is running. -/
def repairWrite (op v : Nat) (s : State) : State :=
  let off := if op = 1 then Reg.ERR_RETIRE else Reg.ERR_READMIT
  let s := setDreg off (bits v 27 0) s
  let isl := bits v 15 0
  let kind := bits v 19 16
  let idx := if kind = 5 then bits v 27 20 else 0
  if !bitAt v 63 || s.repair.isSome then s
  else
    let s := { s with repair := some (op, kind, isl, idx) }
    if !unitExists s kind isl idx then endRepair 4 s
    else if op = 2 && inDfl s kind isl idx then endRepair 3 s
    else if unitInUse s kind isl idx ≠ (op == 1) then endRepair 4 s
    else setDreg Reg.ERR_REPAIR_STATUS (1 + op * 2 + isl * 2 ^ 16) s

/-- The readmitted unit is out of service no longer. -/
def unlist (kind island index : Nat) (s : State) : State :=
  { s with bad := s.bad.filter fun x => !(x.kind == kind && x.island == island && x.index == index) }

/-- The record of a readmission; `sub` is the island of the unit that held its number. -/
def readmitted (p : Option Nat) (kind island sub : Nat) (s : State) : State :=
  fwRecord { devRecord s 5 8 0x0F_0013 (island + kind * 2 ^ 16) sub with part := p } s

/-- A readmitted cell: an eft, or, under RESTORE, back under its logical number (Table 15.7). -/
def readmitCell (island : Nat) (s : State) : State :=
  let k := mget 0 s.heldBy island
  let slot := bits island 5 0
  let k := if k = 0 then slot else k - 1
  match (upto 96).find? fun c => !(clu s c).vacant && cmpIsland s c / 64 == island / 64 with
  | some c =>
    if bitAt (dreg s Reg.ERR_POLICY) 1 ∧ k < (clu s c).ncell then
      let old := cellIsland s c k
      readmitted (clu s c).part 1 island old (moveCell c k slot s)
    else readmitted (clu s c).part 1 island 0 s
  | none => readmitted none 1 island 0 s

/-- A readmitted cluster: the die's eft, or a vacant number as a free cluster (Table 15.7). -/
def readmitClu (island : Nat) (s : State) : State :=
  let die := island / 4096
  let cs := bits island 11 6
  let h := mget 0 s.heldBy island
  let vac := (upto 12).filter fun i => (clu s (12 * die + i)).vacant
  let pick := if h ≠ 0 ∧ vac.contains ((h - 1) % 12) then some ((h - 1) % 12) else vac.head?
  match pick with
  | some i => readmitted none 2 island 0 (powerOn (12 * die + i) (takeSlot (12 * die + i) cs s))
  | none => readmitted none 2 island 0 s

/-- UNIT_READMIT: the self-test of the unit that ERR_READMIT names has ended (R503). -/
def execUnitReadmit (pass : Bool) (s : State) : Out :=
  match s.repair with
  | some (2, kind, isl, idx) =>
    if !served s then .next s
    else if !pass then .next (endRepair 2 (addDefect 15 { kind := kind, cause := 2, island := isl, index := idx } s))
    else
      let s := unlist kind isl idx s
      .next (endRepair 0 (if kind = 1 then readmitCell isl s else if kind = 2 then readmitClu isl s
        else readmitted none 5 isl 0 s))
  | _ => .next s

/-! ### Takeover (R505 to R509) -/

/-- STANDBY_READY. -/
def standbyReady (s : State) : Bool := bitAt (dreg s Reg.ERR_MGMT) 1

/-- HEARTBEAT: the primary sends its heartbeat, unless an injection has stopped it (R505, R517). -/
def execHeartbeat (s : State) : Out := when (s.pwr == 2 && !s.beatStop) (fun s => { s with beatAt := s.now }) s

/-- Steps 2 and 3: command reading and admission pause (R506). -/
def beginTakeover (s : State) : State := setDreg Reg.ERR_MGMT (orBit (dreg s Reg.ERR_MGMT) 2) s

/-- The roles change over: the new primary counts the takeover (Table 15.12). -/
def swapRoles (s : State) : State :=
  let w := dreg s Reg.ERR_MGMT
  let f := dreg s Reg.ERR_FW
  setDreg Reg.ERR_FW (bits f 31 16 + bits f 15 0 * 2 ^ 16 + bits f 32 32 * 2 ^ 32)
    (setDreg Reg.ERR_MGMT (1 - w % 2 + bump32 32 1 (bits w 63 32 * 2 ^ 32)) s)

/-- Steps 4 and 5: flags, record, seeds and open update of a takeover (R507, R508, R515). -/
def endTakeover (s : State) : State :=
  let s := { swapRoles s with beatAt := s.now, beatStop := false }
  let s := failEvent (mgmtRecord s 0x0F_0010) (flagD Reg.ERR_DFLAGS 2 s)
  let s := ((upto 16).filter fun p => (part s p).st != .unbound).foldl (fun s p => flagP p Reg.ERR_PFLAGS 1 s) s
  (upto 96).foldl (fun s c => settleSeeds c (modClu c (fun q => { q with reseedDue := true }) s)) s

/-- A firmware update that a takeover interrupts (R507). -/
def interruptUpdate (s : State) : State :=
  match s.fwUpd with
  | some (f, c, _) => endCmd f c 1 0x0F_0007 0 { s with fwUpd := none }
  | none => s

/-- A takeover begins, or with `finish` ends, after which the module has no standby. -/
def takeover (finish : Bool) (s : State) : State :=
  if finish then (if takingOver s then noStandby (interruptUpdate (endTakeover s)) else s)
  else if takingOver s then s else beginTakeover s

/-- TAKEOVER: 250 ms have passed without a heartbeat (R505). -/
def execTakeover (finish : Bool) (s : State) : Out :=
  when (served s && (finish || (standbyReady s && decide (s.beatAt + 6250000 ≤ s.now)))) (takeover finish) s

/-- PLANNED_TAKEOVER: the primary asks for it upon an error of its own (R509). -/
def execPlannedTakeover (finish : Bool) (s : State) : Out :=
  when (served s && (finish || standbyReady s)) (takeover finish) s

/-- STANDBY_BOOT: the old primary has booted as the standby and synced the journal; with `ok` false its image check has
failed (R508). -/
def execStandbyBoot (ok : Bool) (s : State) : Out :=
  if !served s || standbyReady s || takingOver s || !s.stbyOk then .next s
  else if !ok then .next { s with stbyOk := false }
  else
    let f := dreg s Reg.ERR_FW
    .next (setDreg Reg.ERR_FW (bits f 15 0 + mget 0 s.slotRel s.slotAct * 2 ^ 16 + bits f 32 32 * 2 ^ 32)
      (setDreg Reg.ERR_MGMT (orBit (dreg s Reg.ERR_MGMT) 1) s))

/-! ### Core restart (R510) -/

/-- The commands of a partition that its control core had started fail. -/
def failStarted (p : Nat) (s : State) : State :=
  let cs := (mbxOf s p).cmds.filter fun c => c.started && !c.due && c.op != 1
  if cs.isEmpty then s
  else
    let s := { s with batches := mmap {} (fun _ b => if b.part = p ∧ b.kind = 0 then { b with kind := 3 } else b) s.batches }
    let s := modPart p (fun q => { q with hostBar := [], loading := false, load := none })
      { s with ioSlots := s.ioSlots.filter fun x => x.2.mbx != p }
    cs.foldl (fun s c => endCmd p c 1 0x0F_0001 0 s) s

/-- CORE_RESTART: a control core silent for 50 ms is restarted (R510, R515). -/
def execCoreRestart (d : Nat) (s : State) : Out :=
  if 4 ≤ d then .fault .noSuchUnit
  else when (served s && decide (d < nIoDies s)) (fun s =>
    let s := failEvent (unitRecord s none 0x0F_0001 0 (coreIsland d)) s
    (((upto 4).filter fun q => dieOf s q == d).flatMap (boundTo s)).foldl (fun s p => failStarted p s) s) s

/-! ### Live firmware update (R511, R512) -/

/-- Steps 1 and 2 of CMD_FW_UPDATE: the image is checked and stored; without ACTIVATE the command is done (R511). -/
def beginUpdate (f : Nat) (c : Cmd) (s : State) : State :=
  let n := bits (c.a 1) 31 0
  let img := peeks s (hostKey f (bits (c.a 0) 46 0)) n
  let rel := Config.imageRelease img
  if s.fwUpd.isSome || s.pldm != 0 || takingOver s || !standbyReady s then endCmd f c 1 0x0F_0004 0 s
  else if 2 ^ 26 < n then endCmd f c 1 0x0B_0004 0 s
  else if !Config.imageGood img then endCmd f c 1 0x0F_0002 0 s
  else if rel / 256 ≠ bits (dreg s Reg.ERR_FW) 15 8 then endCmd f c 1 0x0F_0003 0 s
  else
    let s := { s with slotRel := mset 0 s.slotRel (1 - s.slotAct) rel }
    if bitAt (c.a 2) 0 then { s with fwUpd := some (f, c, rel) } else endCmd f c 0 0 0 s

/-- Every partition sees that the firmware was updated. -/
def noteUpdate (s : State) : State :=
  ((upto 16).filter fun p => (part s p).st != .unbound).foldl (fun s p => flagP p Reg.ERR_PFLAGS 2 s) s

/-- Steps 3 to 8 of Table 15.9: the standby boots the new slot (`boots`) and takes over; `rest` says that every later step
succeeds. Answers whether the update is done: 0 OK, 1 FW_STANDBY, 2 FW_PARTIAL. -/
def activateSlot (rel : Nat) (boots rest : Bool) (s : State) : Nat × State :=
  if !boots then (1, s)
  else
    let s := endTakeover { s with slotAct := 1 - s.slotAct }
    let sec := if rest then rel else bits (dreg s Reg.ERR_FW) 31 16
    let s := setDreg Reg.ERR_FW (rel % 65536 + sec % 65536 * 2 ^ 16 + s.slotAct * 2 ^ 32) s
    if rest then (0, noteUpdate (setDreg Reg.ERR_MGMT (orBit (dreg s Reg.ERR_MGMT) 1) s))
    else (2, noStandby (flagD Reg.ERR_DFLAGS 4 (fwRecord (mgmtRecord s 0x0F_0006) s)))

/-- CMD_FW_UPDATE: the command starts, or the one whose image is stored goes on to activation (R511, R512). -/
def execCmdFwUpdate (f : Nat) (boots rest : Bool) (s : State) : Out :=
  if 20 < f then .fault .noSuchUnit
  else match s.fwUpd with
    | some (f', c, rel) =>
      if f' ≠ f ∨ takingOver s then cmdEvent f 0x10 (beginUpdate f) s
      else
        let r := activateSlot rel boots rest { s with fwUpd := none }
        .next (if r.1 = 0 then endCmd f c 0 0 0 r.2 else if r.1 = 1 then endCmd f c 1 0x0F_0005 0 r.2
          else endCmd f c 1 0x0F_0006 0 r.2)
    | none => cmdEvent f 0x10 (beginUpdate f) s

/-! ### Error injection (R517) -/

/-- The word that ERR_INJECT_ADDR names, in a region; none where nothing is mapped. -/
def injectWord (s : State) (region : Nat) : Option Nat :=
  let w := dreg s Reg.ERR_INJECT_ADDR
  let a := bits w 47 0
  if regionOf a ≠ some region then none
  else match chk s .fw (bits w 51 48) none a with
    | .ok k => some (wordKey k)
    | _ => none

/-- A write of ERR_INJECT: LINK is taken within its range (R544), GO arms the injection of its TYPE. -/
def injectWrite (v : Nat) (s : State) : State :=
  let ty := bits v 3 0
  let link := min 15 (bits v 8 4)
  let s := setDreg Reg.ERR_INJECT (ty + link * 16) s
  if !bitAt v 63 then s
  else if 1 ≤ ty ∧ ty ≤ 4 then
    match injectWord s ((ty - 1) / 2) with
    | some w => { s with inj := mset 0 s.inj w (2 - ty % 2) }
    | none => s
  else if ty = 5 then modLink link (fun l => { l with inj := true }) s
  else if ty = 6 then { s with beatStop := true }
  else s

/-- INJECT_BANK_ERROR: one or two bytes of the next write to the bank word at ERR_INJECT_ADDR. -/
def execInjectBankError (two : Bool) (s : State) : Out := when (served s) (injectWrite (1 + b2n two + 2 ^ 63)) s

/-- INJECT_HBM_ERROR: likewise in HBM. -/
def execInjectHbmError (two : Bool) (s : State) : Out := when (served s) (injectWrite (3 + b2n two + 2 ^ 63)) s

/-- INJECT_CRC_FAILURE: one CRC failure on a link. -/
def execInjectCrcFailure (l : Nat) (s : State) : Out :=
  if 16 ≤ l then .fault .noSuchUnit else when (served s) (injectWrite (5 + l * 16 + 2 ^ 63)) s

/-- INJECT_HEARTBEAT_STOP: the primary's heartbeat stops. -/
def execInjectHeartbeatStop (s : State) : Out := when (served s) (injectWrite (6 + 2 ^ 63)) s

end Sys2Proof.Machine
end

