-- ==== Sys2Proof/Machine/Power.lean ====
section
/-!
DEFINITION. The module's input, rails, sensors and trip (R518 to R528), DEVRST#, and sideband management (R529 to R531).
-/
namespace Sys2Proof.Machine

/-! ### Rails (R519 to R523) -/

/-- PWRGD: the main rails are up (Table 16.3). -/
def pwrgd (s : State) : Bool := s.pwr == 2

/-- The main rails go: all that they feed is lost, no item has a record, and the cause is kept in flash (R519, R522,
R523). `left` is the state that the module enters. -/
def removeRails (cause left : Nat) (s : State) : State :=
  if s.pwr ≠ 2 then s
  else
    let s := newStart false 0 s
    setDreg Reg.PWR_MERR (cause % 8 * 2 ^ 16)
      { s with pwr := left, session := s.session && left != 0
               mem := s.mem.filter (fun x => decide (2 ^ 52 ≤ x.1)), ecc := s.ecc.filter fun x => decide (2 ^ 52 ≤ x.1) }

/-- Steps 3 to 5 of Table 16.3: the rails come up and a cold start begins; every cycle counter starts from 0 (log 66). -/
def powerUp (s : State) : State :=
  if s.pwr = 1 ∧ s.pwrEn ∧ !s.trip ∧ !s.vinBad then
    { s with pwr := 2, stage := 0, staging := true, began := s.now, stageAt := s.now, beatAt := s.now, upAt := s.now
             clus := mmap {} (fun _ q => { q with cycCell := 0, cycCmp := 0, cycAt := s.now }) s.clus }
  else s

/-- STANDBY_RAIL_UP: the input has reached its range and stayed in it; the module is in STANDBY, and goes on if PWR_EN is
tied high (R519, R521). -/
def execStandbyRailUp (s : State) : Out :=
  .next (if s.pwr = 2 then s else powerUp { s with pwr := 1, vinBad := false })

/-- PWR_EN_ASSERT (R521). -/
def execPwrEnAssert (s : State) : Out := .next (powerUp { s with pwrEn := true })

/-- PWR_EN_DEASSERT: removes the main rails; THERMTRIP# is released (R522, R528). -/
def execPwrEnDeassert (s : State) : Out := .next (removeRails 0 1 { s with pwrEn := false, trip := false })

/-- INPUT_DIP: a dip of at most 1 ms, not below 30 V, is ridden through (R519). -/
def execInputDip (s : State) : Out := when (s.pwr == 2) (flagD Reg.PWR_MERR 0) s

/-- UNDERVOLTAGE: below 38 V for more than 1 ms, or below 30 V; `gone` says that the input is absent, which leaves the
module OFF (R519, R520). -/
def execUndervoltage (gone : Bool) (s : State) : Out :=
  let s := removeRails 1 1 { s with vinBad := true }
  .next (if gone then { s with pwr := 0, session := false } else s)

/-- OVERVOLTAGE: above 62 V for more than 100 µs (R519). -/
def execOvervoltage (s : State) : Out := .next (removeRails 2 1 { s with vinBad := true })

/-- RAIL_FAULT: a rail out of its window for more than 1 ms (R522). -/
def execRailFault (s : State) : Out := .next (removeRails 3 1 s)

/-- DEVRST: DEVRST# low for at least 1 µs (R524); no effect in STANDBY. -/
def execDevrst (held : Bool) (s : State) : Out := when (s.pwr == 2) (deviceReset held) s

/-! ### Sensors (R527, R528, Table 16.6) -/

/-- A reply or an event leaves on the sideband bus: kind 11 MCTP control, 12 PLDM, 13 busy, 14 management access. -/
def reply2 (kind : Nat) (l : List Nat) (s : State) : State := { s with sent := s.sent ++ [(kind, l)] }

/-- Condition i of Table 16.6 is entered or left: entering it sets a flag of PWR_MERR, writes a record and sends a PLDM event
(R528, R530). -/
def warnAs (i bit : Nat) (on : Bool) (reading : Nat) (s : State) : State :=
  if !on then { s with warned := clearBit s.warned i }
  else if s.pwr ≠ 2 ∨ bitAt s.warned i then s
  else flagD Reg.PWR_MERR bit (fwRecord (devRecord s 6 7 0 0x7F (reading % 256))
    (reply2 12 [2, 10, bit] { s with warned := orBit s.warned i }))

/-- A warning condition whose number is its bit of PWR_MERR. -/
def warnIf (bit : Nat) (on : Bool) (reading : Nat) (s : State) : State := warnAs bit bit on reading s

/-- Sensor n gives no reading, or gives one again. -/
def sensorWarn (n : Nat) (on : Bool) (s : State) : State := warnAs (8 + n) 4 on 0 s

/-- Replace bits hi to lo of a register of management BAR0. -/
def putField (o hi lo v : Nat) (s : State) : State :=
  let w := dreg s o
  setDreg o (w - bits w hi lo * 2 ^ lo + v % 2 ^ (hi - lo + 1) * 2 ^ lo) s

/-- The flow is below its warning limit since some tick; the warning comes after 1 s. -/
def lowFlow (v : Nat) (s : State) : State :=
  if 450 ≤ v then warnIf 3 false 0 { s with flowLow := none }
  else
    let t := s.flowLow.getD s.now
    let s := { s with flowLow := some t }
    if t + 25000000 ≤ s.now then warnIf 3 true 0 s else s

/-- A sensor's reading: 0 input voltage and current, 1 input power, 2 coolant inlet, 3 outlet, 4 flow, 16 + c the
temperature of logical cluster c, 112 + d that of I/O die d, 128 + k that of HBM stack k (Table 16.5). -/
def takeReading (n v : Nat) (s : State) : State :=
  if n = 0 then setDreg Reg.PWR_VIN (bits v 31 0) s
  else if n = 1 then setDreg Reg.PWR_INPUT (bits v 31 0) s
  else if n = 2 then warnIf 1 (decide (45 < sext 8 (v % 256))) v (putField Reg.PWR_COOLANT 7 0 v s)
  else if n = 3 then warnIf 2 (decide (60 < sext 8 (v % 256))) v (putField Reg.PWR_COOLANT 15 8 v s)
  else if n = 4 then lowFlow (v % 65536) (putField Reg.PWR_COOLANT 31 16 v s)
  else if n < 112 then setTemp (n - 16) (v % 256) s
  else s

/-- The module has a sensor of this number. -/
def hasSensor (s : State) (n : Nat) : Bool :=
  decide (n < 5) || (decide (16 ≤ n) && decide (n < 112 + nIoDies s)) || (decide (128 ≤ n) && decide (n < 128 + nStacks s))

/-- SENSOR_READ: a sensor is read; `v` is none when it gives no reading. In STANDBY the coolant and input sensors are read
(R527, R528). -/
def execSensorRead (n : Nat) (v : Option Nat) (s : State) : Out :=
  if ¬ (n < 5 ∨ (16 ≤ n ∧ n < 116) ∨ (128 ≤ n ∧ n < 144)) then .fault .noSuchUnit
  else if !hasSensor s n ∨ s.pwr = 0 ∨ (s.pwr = 1 ∧ (n = 1 ∨ 5 ≤ n)) then .next s
  else
    let s := { s with sensors := mset none s.sensors n v }
    match v with
    | none => .next (sensorWarn n true (if 16 ≤ n ∧ n < 112 then setTemp (n - 16) 256 s else s))
    | some v => .next (takeReading n v (sensorWarn n false s))

/-- THERMTRIP: a trip condition has held for its time; cause 4 package, 5 outlet, 6 flow, 7 sensor (R528, Table 16.12). -/
def execThermtrip (cause : Nat) (s : State) : Out :=
  if cause < 4 ∨ 7 < cause then .fault .noSuchUnit
  else when (s.pwr == 2) (fun s => removeRails cause 1 (reply2 12 [2, 11, cause] { s with trip := true })) s

/-! ### Sideband management (R529 to R531) -/

/-- Messages that need firmware are served: stage MGMT has ended (R529). -/
def fwAnswers (s : State) : Bool := mgmtEnded s

/-- MCTP_CONTROL_MESSAGE: the answer is that of the outside standard (log 47). -/
def execMctpControlMessage (cmd arg : Nat) (s : State) : Out :=
  when (s.pwr != 0) (reply2 11 [cmd, Config.protocolReply cmd arg]) s

/-- An image that PLDM has transferred is checked and stored in the inactive slot; the reply's code is 0 for a good one
(R530). -/
def pldmImage (img : List Byte) (s : State) : State :=
  if s.pldm ≠ 1 then reply2 12 [5, 1] s
  else if Config.imageGood img then
    reply2 12 [5, 0] { s with pldm := 2, slotRel := mset 0 s.slotRel (1 - s.slotAct) (Config.imageRelease img) }
  else reply2 12 [5, 1] { s with pldm := 0 }

/-- A PLDM sensor read: `op` 0 of a numeric sensor, 1 of a state sensor, 0 the bring-up outcome and 1 the module power state; a sensor
with no reading answers 2^32 (R530, Table 16.7). -/
def sensorReply (op n : Nat) (s : State) : State :=
  reply2 12 [2, op, n, if op = 0 then (mget none s.sensors n).getD (2 ^ 32) else if n = 0 then s.outcome else s.pwr] s

/-- PLDM_MESSAGE: type 0 discovery, 2 monitoring, whose `op` 0 and 1 read the sensor that the first byte names, 5 firmware update; for
type 5, `op` 0 requests an update, 1 ends the
transfer of `img`, 2 cancels. A message that needs firmware waits for stage MGMT, but an update is taken in recovery
(R462, R529, R530). -/
def execPldmMessage (ty op : Nat) (img : List Byte) (s : State) : Out :=
  if s.pwr = 0 ∨ !(ty == 0 || ty == 2 || ty == 5) then .next s
  else if ty ≠ 5 then
    .next (if ty = 2 ∧ op < 2 then sensorReply op ((img.headD 0).toNat) s else if fwAnswers s then reply2 12 [ty, 0, Config.protocolReply ty op] s else reply2 13 [ty] s)
  else if !(fwAnswers s || s.recovery) then .next (reply2 13 [ty] s)
  else if op = 0 then
    .next (if s.fwUpd.isSome || s.pldm != 0 then reply2 12 [5, 1] s else reply2 12 [5, 0] { s with pldm := 1 })
  else if op = 1 then .next (pldmImage img s)
  else .next (reply2 12 [5, 0] { s with pldm := 0 })

/-- ACTIVATE_FIRMWARE: in recovery a cold start from the new slot; else steps 3 to 8 of Table 15.9, which need the standby
(R530). -/
def execActivateFirmware (boots rest : Bool) (s : State) : Out :=
  if s.pldm ≠ 2 ∨ s.pwr ≠ 2 then .next s
  else if s.recovery then .next (newStart false (retainPorts s) { s with slotAct := 1 - s.slotAct, pldm := 0 })
  else if !served s || takingOver s || !standbyReady s then .next (reply2 12 [5, 1] s)
  else
    let r := activateSlot (mget 0 s.slotRel (1 - s.slotAct)) boots rest { s with pldm := 0 }
    .next (reply2 12 [5, r.1] r.2)

/-- A vendor-defined message opens or keeps the session (R531). -/
def inSession (s : State) : State := { s with session := true, sessAt := s.now }

/-- SIDEBAND_COMMAND: a message carries the eight words of a command entry; firmware handles one at a time (R531). -/
def execSidebandCommand (ws : List Nat) (s : State) : Out :=
  if s.pwr = 0 then .next s
  else
    let s := inSession s
    let w (i : Nat) : Nat := ws.getD i 0
    if !fwAnswers s then .next (reply2 13 [1] s)
    else if !(mbxOf s 20).cmds.isEmpty then .next s
    else if complOk 64 (w 0) (w 7) then .next (takeEntry 20 (cmdOf s w) s)
    else
      let c : Cmd := { seq := bits (w 0) 63 32, tag := w 1, started := true }
      .next (endCmd 20 c 0x0D 0x0B_0001 0 (modMbx 20 (fun m => { m with cmds := m.cmds ++ [c] }) s))

/-- SIDEBAND_DEVICE_RESET: a vendor-defined message acts as DEVRST# (R531, Table 16.8). -/
def execSidebandDeviceReset (held : Bool) (s : State) : Out :=
  when (s.pwr != 0) (fun s => deviceReset held (inSession s)) s

/-- SIDEBAND_SESSION_TIMEOUT: the session closes by a close message, or after 60 s without a message (R531). -/
def execSidebandSessionTimeout (close : Bool) (s : State) : Out :=
  when (s.session && (close || decide (s.sessAt + 1500000000 ≤ s.now))) (fun s => { s with session := false }) s

end Sys2Proof.Machine
end

