-- ==== Sys2Proof/Machine/Access.lean ====
section
/-!
DEFINITION. One access at a bank's port (R265 to R267, R273 to R285): the checks, the collision classes and the arbitration of the
cycle, the access itself, and what a failed one does to its item.
-/
namespace Sys2Proof.Machine

/-! ### Requesters and collision classes (R192, R235, R280, R281) -/

/-- A requester belongs to a master and can send an access of this kind. -/
def sends (m : Master) (who : Requester) (op : BankOp) : Bool :=
  let rd : Bool := match op with | .read _ => true | _ => false
  let wr : Bool := match op with | .write _ => true | _ => false
  let at' : Bool := match op with | .atomic _ _ _ => true | _ => false
  match m, who with
  | .cell _ _, .lane => rd
  | .cell _ _, .builder => rd
  | .cell _ _, .loader => wr
  | .cell _ _, .writeOut => wr
  | .cell _ _, .seq x => decide (x < 4) && !at'
  | .cell _ _, .atomic x => decide (x < 4) && at'
  | .str _ e, .stream e' i => e == e' && decide (i < 8) && !at'
  | .vec _, .dense => !at'
  | .vec _, .vector => !at'
  | .vec _, .outlier => rd || at'
  | .vec _, .quant => !at'
  | .upd _, .update => rd
  | .upd _, .gpe j => decide (j < 4) && !at'
  | .host _, .window => !at'
  | .host _, .observe => rd
  | .netq _, .window => !at'
  | .io _, .window => !at'
  | _, _ => false

/-- Rank of Table 8.6. -/
def reqRank : Requester → Nat
  | .stream _ _ => 1
  | .loader => 1
  | .builder => 2
  | .lane => 3
  | .seq _ => 3
  | .dense => 3
  | .vector => 3
  | .quant => 3
  | .update => 3
  | .gpe _ => 3
  | .window => 3
  | .writeOut => 4
  | .atomic _ => 4
  | .outlier => 4
  | .observe => 5

/-- Place within the class, for the ties of one domain (R192, R235, R281). -/
def reqTie : Requester → Nat
  | .stream e _ => e
  | .loader => 2
  | .seq x => 1 + x
  | .vector => 1
  | .quant => 3
  | .gpe j => 1 + j
  | .atomic x => 1 + x
  | _ => 0

/-- Rank and place in one number, smaller ahead; it also names the requester at its bank. -/
def reqOrder (r : Requester) : Nat := 16 * reqRank r + reqTie r

/-- A requester can compete at a bank of an owner code: its own domain's, a stream engine acting for it, or an observe read (R275,
R282, R286). -/
def competes (code : Nat) (r : Requester) : Bool :=
  match r with
  | .observe => true
  | .stream e _ => code % 16 != 0 && decide (e < 2)
  | .loader => code % 16 == 1
  | .builder => code % 16 == 1
  | .lane => code % 16 == 1
  | .seq x => code % 16 == 1 && decide (x < 4)
  | .writeOut => code % 16 == 1
  | .atomic x => code % 16 == 1 && decide (x < 4)
  | .update => code % 16 == 3
  | .gpe j => code % 16 == 3 && decide (j < 4)
  | .dense => code % 16 == 4
  | .vector => code % 16 == 4
  | .outlier => code % 16 == 4
  | .quant => code % 16 == 4
  | .window => code % 16 == 5

/-- An access that has lost 16 cycles in a row goes ahead of every class (R283). -/
def promoted (v : Bank) (r : Requester) : Bool := decide (16 ≤ mget 0 v.lost (reqOrder r))

/-- Access r takes the port from access q: it is promoted and q is not, or else stands ahead by class and place (R280, R281,
R283). -/
def outranks (v : Bank) (r q : Requester) : Bool :=
  if promoted v r == promoted v q then decide (reqOrder r < reqOrder q) else promoted v r

/-- The access that would win by class and place alone loses the cycle to a promoted one, or q itself wins only by promotion. -/
def byPromotion (v : Bank) (rivals : List Requester) (q : Requester) : Bool :=
  promoted v q && rivals.any fun r => decide (reqOrder r < reqOrder q)

/-! ### Masters -/

/-- The partition that a requester works for. -/
def masterPart (s : State) (m : Master) (who : Requester) : Option Nat :=
  match m, who with
  | .cell c _, _ => (clu s c).part
  | .str c e, .stream _ i => if (slotOf s c e i).list.isSome then some (slotPart s c e i) else (clu s c).part
  | .str c _, _ => (clu s c).part
  | .upd c, _ => (clu s c).part
  | .vec c, _ => (clu s c).part
  | .host p, _ => some p
  | .netq q, _ => (netqOf s q).part
  | .io _, _ => none
  | .fw, _ => none

/-- The domain that an access acts for: a stream slot's descriptor names it (R282). -/
def actingFor (s : State) (m : Master) (who : Requester) : Option Nat :=
  match m, who with
  | .str c e, .stream _ i => if (slotOf s c e i).st = 1 then xDom (slotOf s c e i).words else none
  | _, _ => none

/-- A read through the window of a bank that another domain owns, with OBSERVE set (R286). -/
def observes (s : State) (p a : Nat) (who : Requester) : Bool :=
  who == .observe && bitAt (preg s p Reg.BNK_WIN_CTRL) 0 &&
    (match localLoc s p a with | some (c, b) => (bankOf s c b).code != ownHost | none => false)

/-- The master whose rights an access has: an observe read reaches every bank of the partition's clusters. -/
def rights (s : State) (p a : Nat) (m : Master) (who : Requester) : Master := if observes s p a who then .fw else m

/-- Freeze a master for a violation (R273, Table 12.6). -/
def freezeMaster (p : Nat) (m : Master) (kind addr : Nat) (s : State) : State :=
  match m with
  | .cell c k => freezeCell p c k kind addr s
  | .str c e => freezeStr p c e kind addr s
  | .upd c => freezeUpd p c kind addr s
  | .vec c => freezeVec p c none kind addr s
  | .host q => freezeHost q kind addr s
  | .netq q => freezeNet p q kind addr s
  | .io _ => s
  | .fw => s

/-! ### Items that a failed access ends (R273, R279, R291) -/

/-- The context, task and word of the engine operation that a cell's engine works on: the builder's, else the sweep's. -/
def engineWork (v : Cell) (who : Requester) : Option (Nat × Nat × Nat) :=
  let sweep := (v.run.orElse fun _ => v.pend).map fun w => (w.x, w.task, w.pc)
  if who = .builder then (v.builds.head?.map fun b => (b.x, b.task, b.pc)).orElse fun _ => sweep else sweep

/-- The item that an access belongs to, ended by a Stop of it: none where its requester has no work. -/
def itemStop (p : Nat) (m : Master) (who : Requester) (e : Stop) (s : State) : Option State :=
  let ofCtx (c k x : Nat) : Option State := (ctxOf s c k x).task.map fun t => cellStop c k x t (ctxOf s c k x).pc e s
  match m, who with
  | .cell c k, .seq x => ofCtx c k x
  | .cell c k, .atomic x => ofCtx c k x
  | .cell c k, w => (engineWork (cellOf s c k) w).map fun q => cellStop c k q.1 q.2.1 q.2.2 e s
  | .str c e', .stream _ i => if (slotOf s c e' i).st = 0 then none else some (strStop c e' i e s)
  | .vec c, .dense => (clu s c).dq.head?.map fun j => jobStop c 0 j.task e s
  | .vec c, .quant => (clu s c).qrun.map fun _ => quantStop c p e s
  | .vec c, _ => (clu s c).vq.head?.map fun j => jobStop c 1 j.task e s
  | .upd c, .gpe j =>
    (((mget none (clu s c).gRun j).map fun r => r.job).orElse fun _ => (mget [] (clu s c).gq j).head?).map fun q =>
      gpeStop c j q.task e s
  | .upd c, _ => some (match (clu s c).bq with | id :: _ => batchStop id e s | [] => updStop c p e s)
  | .host q, _ => some (winStop q e s)
  | _, _ => none

/-- What a Stop of an access of n bytes does: its item ends, or, where there is none, a violation freezes the master. A violating
read returns 0; a bad word or owner register gives no data (R273, R279, R291). -/
def accessStop (p : Nat) (m : Master) (who : Requester) (n : Nat) (e : Stop) (s : State) : State :=
  let s := (itemStop p m who e s).getD (match e with | .viol kind a => freezeMaster p m kind a s | _ => s)
  match e with
  | .viol _ _ => { s with ans := (0, List.replicate n 0) }
  | .fail _ _ _ => { s with ans := (6, []) }
  | .unc _ _ _ => { s with ans := (2, []) }

/-! ### The port (R267, R280 to R285) -/

/-- Bytes an access reads or writes (R162, R266). -/
def opSize : BankOp → Nat
  | .read n => n
  | .write l => l.length
  | .atomic swap f _ => if swap then (if f = 0 then 4 else 8) else (if f = 2 then 1 else 4)

/-- The access returns data. -/
def opReads : BankOp → Bool
  | .write _ => false
  | _ => true

/-- The access holds the port for a second cycle: a write narrower than the word, or an atomic (R267). -/
def opTwice (word : Nat) : BankOp → Bool
  | .read _ => false
  | .write l => decide (l.length < wordSize word)
  | .atomic _ _ _ => true

/-- The access itself; what it returns. -/
def opPerform (m : Master) (p : Nat) (dom : Option Nat) (a : Nat) (op : BankOp) : EM (List Byte) :=
  match op with
  | .read n => rd m p dom a n
  | .write l => do
    wr m p dom a l
    pure []
  | .atomic swap f g => do
    let n := opSize op
    let old ← rdAtomic m p dom a n
    wrN m p dom a n (if swap then g else aaddVal f old g)
    pure (leBytes n old)

/-- An access loses the cycle to another (R280); the cycles it has lost in a row are kept under its requester (R283). -/
def loseCycle (c b : Nat) (who : Requester) (s : State) : State :=
  bumpC c Reg.BNK_COLLIDE 0 1
    (modBank c b (fun v => { v with lost := mset 0 v.lost (reqOrder who) (mget 0 v.lost (reqOrder who) + 1) }) s)

/-- The access takes the port; `two` says that it holds it for a second cycle (R267). -/
def takePort (c b : Nat) (who : Requester) (two : Bool) (s : State) : State :=
  modBank c b (fun v => { v with lost := merase v.lost (reqOrder who), busy2 := two }) s

/-- The access that has won the port is performed. A read in the commit cycle of its word is answered BUSY: a cell reissues and
counts it (R159), an observe read ends and latches it (R287). -/
def performAccess (p : Nat) (m : Master) (who : Requester) (a : Nat) (op : BankOp) (commit : Bool) (c : Nat) (s : State) : State :=
  if commit && opReads op then
    let r := freeBytes (opSize op) s
    match m, who with
    | .host _, .observe => winBusy p a { r.2 with ans := (5, r.1) }
    | .cell _ k, _ => bumpCell c k 13 1 (bumpC c Reg.BNK_BUSY_RESP 0 1 { r.2 with ans := (5, r.1) })
    | _, _ => bumpC c Reg.BNK_BUSY_RESP 0 1 { r.2 with ans := (5, r.1) }
  else match runEM (opPerform (rights s p a m who) p (actingFor s m who) a op) s with
    | .good l s => if opReads op then { s with ans := (0, l) } else s
    | .stop e s => accessStop p m who (opSize op) e s

/-- A cycle of a bank's port in which an access competes with its rivals (R280 to R285). The second cycle of a 2-cycle access and a
forced drain come before it and do not count toward its promotion. -/
def portCycle (p : Nat) (m : Master) (who : Requester) (a : Nat) (op : BankOp) (rivals : List Requester) (commit : Bool)
    (s : State) : State :=
  let cb := bankOfKey (a % 2 ^ 37)
  let v := bankOf s cb.1 cb.2
  let word := wordKey (a % 2 ^ 37)
  let rs := rivals.filter fun r => competes v.code r && reqOrder r != reqOrder who
  if v.busy2 then bumpC cb.1 Reg.BNK_COLLIDE 0 1 (modBank cb.1 cb.2 (fun v => { v with busy2 := false }) s)
  else if 2 ≤ v.staged.length then
    match v.staged with
    | [] => s
    | e :: r =>
      bumpC cb.1 Reg.BNK_COLLIDE 32 1
        (bumpC cb.1 Reg.BNK_COLLIDE 0 1 (modBank cb.1 cb.2 (fun v => { v with staged := r }) (drainEntry e s)))
  else if rs.any fun r => outranks v r who then loseCycle cb.1 cb.2 who s
  else
    let s := if byPromotion v rs who then bumpC cb.1 Reg.BNK_PROMOTE 0 1 s else s
    performAccess p m who a op (commit && v.staged.any fun e => e.word == word) cb.1 (takePort cb.1 cb.2 who (opTwice word op) s)

/-- BANK_ACCESS: an access is checked and performed; one of a bank's word first competes for its bank's port in this cycle
with the rivals of its domain (R266, R271 to R273, R275). `commit` says that the cycle is the commit cycle of its word. A read or atomic answers
0 with its bytes, 5 for BUSY, 2 or 6 without data. -/
def execBankAccess (m : Master) (who : Requester) (a : Nat) (op : BankOp) (rivals : List Requester) (commit : Bool)
    (s : State) : Out :=
  if !sends m who op then .fault .noSuchUnit
  else match masterPart s m who with
  | none => .next s
  | some p =>
    if opSize op = 0 ∨ isFrozen s p m then .next s
    else if regionOf a ≠ some 0 then .next (performAccess p m who a op false 0 s)
    else if wordKey a ≠ wordKey (a + opSize op - 1) ∨ (sleepsAt s p a).isSome then .next s
    else match runEM (keysOf (rights s p a m who) p (actingFor s m who) a (opSize op)) s with
      | .stop e s => .next (accessStop p m who (opSize op) e s)
      | .good _ s => .next (portCycle p m who a op rivals commit s)

end Sys2Proof.Machine
end

