-- ==== Sys2Proof/Machine/Mgmt.lean ====
section
/-!
DEFINITION. Management BAR0 (Table 17.2): what each register takes of a write and returns to a read, accesses of the
host functions to registers that have no row of their own (R12, R389, R538 to R541), and management access by sideband
(R531).
-/
namespace Sys2Proof.Machine

/-! ### Helpers -/

/-- W1C of a management register with n bits. -/
def w1cD (o v n : Nat) (s : State) : State := setDreg o (w1c (dreg s o) v n) s

/-- The device error ring is set up only while it is stopped; a value out of range is refused (R517). -/
def ringSet (o v : Nat) (ok : Bool) (s : State) : State :=
  if bitAt (dreg s Reg.ERR_RING_CTRL) 0 then mgmtViol o s
  else if ok then setDreg o v { s with ringNew := true }
  else flagD Reg.ERR_DFLAGS 5 s

/-! ### PMAP (Table 12.8, Table 12.9) -/

/-- A value of PMAP_RESET that is taken: its target is bound, or it confirms a device reset. -/
def resetNamed (s : State) (v : Nat) : Bool :=
  let p := bits v 5 2
  let c := bits v 12 6
  match bits v 1 0 with
  | 3 => bits v 47 32 == 0xA5A5
  | 2 => (part s p).st != .unbound
  | 1 => (clu s c).part == some p && decide (c < 96)
  | _ => (clu s c).part == some p && decide (c < 96) && decide (bits v 17 13 < (clu s c).ncell)

/-- PMAP_RESET: the fields are held, GO issues the reset and reads 0; a write whose target is not bound is ignored
(Table 12.9, R12). -/
def pmapReset (v : Nat) (s : State) : State :=
  if !resetNamed s v then s
  else
    let s := setDreg Reg.PMAP_RESET (bits v 17 0 + bits v 47 32 * 2 ^ 32) s
    if !bitAt v 63 then s
    else match bits v 1 0 with
    | 3 => deviceReset true s
    | 2 => askPart (bits v 5 2) { s with pmapReset := some (bits v 5 2) }
    | 1 => askClu (bits v 12 6) s
    | _ => askCell (bits v 12 6) (bits v 17 13) s

/-- PMAP_ENTRY of a partition. -/
def pmapEntry (s : State) (p : Nat) : Nat :=
  let q := part s p
  let lo := if q.st = .unbound then 0
    else 1 + q.port * 2 + q.vf * 8 + q.quota % 2 ^ 17 * 2 ^ 8 + (clustersOf s p).length * 2 ^ 25
  lo + Nat.xor (compl 32 lo) (q.mapFlip % 2 ^ 32) * 2 ^ 32

/-- A bind, unbind or move of the partition is open. -/
def rebinding (s : State) (p : Nat) : Bool :=
  s.moves.any (fun m => m.src == some p || m.dst == some p) || (part s p).unbind.isSome || !(part s p).atRelease.isEmpty ||
    s.netq.any fun x => x.2.part == some p && x.2.unbind.isSome

/-- PMAP_STATE of a partition. -/
def pmapState (s : State) (p : Nat) : Nat :=
  (match (part s p).st with | .unbound => 0 | .active => 1 | .orphan => 2 | .resetting => 3) + 8 * b2n (rebinding s p) +
    16 * maskOf 6 fun k => (part s p).frozen.any fun m => m % 16 == k + 1

/-- A logical cluster is free. -/
def cluFree (s : State) (c : Nat) : Bool := decide (c < 96) && !(clu s c).vacant && (clu s c).part.isNone

/-- PMAP_NETQ: one byte for each of eight queues. -/
def pmapNetq (s : State) (w : Nat) : Nat :=
  (upto 8).foldl (fun r j =>
    match (netqOf s (8 * w + j)).part with
    | some p => r + (p + 128) * 2 ^ (8 * j)
    | none => r) 0

/-- Read of a PMAP register. -/
def pmapRead (s : State) (off : Nat) : Nat :=
  let p := bits (dreg s Reg.PMAP_SEL) 3 0
  let q := part s p
  if off = 0x2008 then pmapEntry s p
  else if off = 0x2010 then maskOf 64 fun c => (clu s c).part == some p
  else if off = 0x2018 then maskOf 32 fun c => (clu s (64 + c)).part == some p
  else if off = 0x2020 then pmapState s p
  else if off = 0x2028 then q.violMaster + q.violKind * 2 ^ 16 + b2n q.violValid * 2 ^ 18 + q.violOvf * 2 ^ 32
  else if off = 0x2030 then q.violAddr
  else if off = Reg.PMAP_RESET_STATUS then
    (match s.pmapReset with
    | some p => if (part s p).st = .resetting then 1 + 2 * 2 else 0
    | none => 0)
  else if off = 0x2060 then maskOf 64 (cluFree s)
  else if off = 0x2068 then maskOf 32 fun c => cluFree s (64 + c)
  else if 0x2100 ≤ off ∧ off < 0x2180 then shareOf q ((off - 0x2100) / 8) 0 + shareOf q ((off - 0x2100) / 8) 1 * 2 ^ 8
  else if 0x2200 ≤ off ∧ off < 0x2300 then extentWord false q.hbmNext ((off - 0x2200) / 16) (off / 8 % 2)
  else if 0x2300 ≤ off ∧ off < 0x2380 then extentWord true q.bulkNext ((off - 0x2300) / 16) (off / 8 % 2)
  else if 0x2800 ≤ off ∧ off < 0x2C00 then pmapNetq s ((off - 0x2800) / 8)
  else if off = Reg.PMAP_SEL ∨ off = Reg.PMAP_RESET ∨ off = Reg.PMAP_ERR ∨ off = Reg.PMAP_MOVES ∨ off = Reg.PMAP_DRAIN then dreg s off
  else 0

/-! ### BRG and DFL (Table 14.8, Table 14.9) -/

/-- BRG_STATUS: its reset value until stage MGMT has ended. -/
def brgStatus (s : State) : Nat :=
  if s.stage = 0 ∧ !s.halted ∧ !s.recovery then 8
  else s.stage + 8 * b2n s.staging + 16 * b2n s.halted + 32 * s.outcome + 128 * b2n s.warm + 256 * b2n s.recovery +
    512 * b2n s.reported

/-- The report of the start that BRG_LOG_SEL selects. -/
def shownReport (s : State) : List Nat :=
  let n := bits (dreg s Reg.BRG_LOG_SEL) 2 0
  if n = 0 then s.rpt else s.logs.getD (n - 1) []

/-- Read of a BRG register. -/
def brgRead (s : State) (off : Nat) : Nat :=
  if off = Reg.BRG_STATUS then brgStatus s
  else if Reg.BRG_RPT ≤ off ∧ off < Reg.BRG_RPT + 8 * 48 then (shownReport s).getD ((off - Reg.BRG_RPT) / 8) 0
  else if off ≤ Reg.BRG_LOG_SEL then dreg s off
  else 0

/-- Read of a DFL register. -/
def dflRead (s : State) (off : Nat) : Nat :=
  let e := s.dfl.getD (bits (dreg s Reg.DFL_SEL) 11 0) (0, 0)
  if off = Reg.DFL_COUNT then s.dfl.length + 2 ^ 13 * b2n (s.dfl.length == 4096)
  else if off = 0x40010 then e.1
  else if off = 0x40018 then e.2
  else if off = Reg.DFL_SEL ∨ off = Reg.DFL_LOST then dreg s off
  else 0

/-! ### LNK and NET (Table 13.9 to Table 13.12) -/

/-- LNK_POLICY with its fields in range. -/
def policyValue (v : Nat) : Nat :=
  min 2 (bits v 1 0) + bits v 2 2 * 4 + min 4 (bits v 5 3) * 8 + min 2 (bits v 7 6) * 64 + bits v 8 8 * 256 +
    max 1 (bits v 23 16) * 65536

/-- A write of LNK_CTRL: RETRAIN starts a retrain, DISABLE is held. -/
def lnkCtrl (l v : Nat) (s : State) : State :=
  let s := if bitAt v 0 ≠ bitAt (dreg s (lnkReg l Reg.LNK_CTRL)) 0 then disableLink l (bitAt v 0) s else s
  if bitAt v 1 then askRetrain l s else s

/-- Write of a LNK register. -/
def lnkWrite (off v : Nat) (s : State) : State :=
  if off < 0x11000 then (if off % 0x100 = 0 then lnkCtrl ((off - 0x10000) / 0x100) v s else s)
  else if off = Reg.LNK_DOMAIN then domainWrite v s
  else if off = Reg.LNK_POLICY then setDreg off (policyValue v) s
  else if off = Reg.LNK_ERR then w1cD off v 4 s
  else if Reg.LNK_DPART ≤ off ∧ off < Reg.LNK_DPART + 128 then setDreg off (bits v 4 0) s
  else s

/-- A write of a QUIET field of an Ethernet port. -/
def portField (e off v : Nat) (s : State) : State :=
  if bitAt (dreg s (netReg e Reg.NET_CTRL)) 0 then mgmtViol off s else setDreg off v s

/-- Write of a NET register. -/
def netWrite (off v : Nat) (s : State) : State :=
  let e := (off - 0x20000) / 0x1000
  let o := off % 0x1000
  if off < 0x24000 then
    if o = 0 then setDreg off (v % 2) s
    else if o = 0x10 then portField e off (bits v 47 0) s
    else if o = 0x18 then
      portField e off (min 9216 (max 1500 (bits v 13 0)) + bits v 23 16 * 2 ^ 16 + bits v 47 32 * 2 ^ 32) s
    else if o = 0x20 then portField e off (bits v 31 0) s
    else if o = 0x28 ∨ o = 0x30 then portField e off (v % 2 ^ 64) s
    else if o = 0x38 then setDreg off (bits v 15 0) s
    else if o = 0x68 then w1cD off v 3 s
    else s
  else if off = Reg.NET_QSEL then setDreg off (bits v 9 0) s
  else if Reg.NET_QCTX ≤ off ∧ off < Reg.NET_QCTX + 128 then writeCtx ((off - Reg.NET_QCTX) / 8) v s
  else s

/-- Read of a NET register. -/
def netRead (s : State) (off : Nat) : Nat :=
  let q := bits (dreg s Reg.NET_QSEL) 9 0
  let v := netqOf s q
  if off < 0x24000 then (if off % 0x1000 ≤ 0x68 then dreg s off else 0)
  else if off = Reg.NET_QSEL then dreg s off
  else if off = Reg.NET_QSTATUS then
    v.mode + 8 * b2n v.part.isSome + 16 * b2n (v.part.any fun p => isFrozen s p (.netq q)) + 32 * b2n v.rnr
  else if Reg.NET_QCTX ≤ off ∧ off < Reg.NET_QCTX + 128 then mget 0 v.ctx ((off - Reg.NET_QCTX) / 8)
  else 0

/-! ### PWR and ERR (Table 10.8, Table 15.11, Table 16.11) -/

/-- Write of a PWR register of management BAR0. -/
def mpwrWrite (off v : Nat) (s : State) : State :=
  if off = Reg.PWR_DEV_CAP then setDreg off (min 3000 (max 1200 (bits v 15 0))) s
  else if off = Reg.PWR_THERM then thermWrite v s
  else if off = Reg.PWR_CLK_MAX then setDreg off (min 48 (bits v 5 0)) s
  else if off = Reg.PWR_ERR then w1cD off v 4 s
  else if off = Reg.PWR_MERR then w1cD off v 5 s
  else if Reg.PWR_PT_CAP_SET ≤ off ∧ off < Reg.PWR_PT_CAP_SET + 128 then setDreg off (bits v 15 0) s
  else s

/-- Write of an ERR register of management BAR0. -/
def merrWrite (off v : Nat) (s : State) : State :=
  if off = Reg.ERR_RING_BASE then ringSet off (bits v 46 0) (bits v 11 0 == 0) s
  else if off = Reg.ERR_RING_CFG then ringSet off (bits v 4 0) (decide (6 ≤ bits v 4 0) && decide (bits v 4 0 ≤ 16)) s
  else if off = Reg.ERR_RING_HEAD then putRingHead v s
  else if off = Reg.ERR_RING_CTRL then enableRing (bitAt v 0) s
  else if off = Reg.ERR_POLICY then
    setDreg off (bits v 1 0 + max 1 (bits v 15 8) * 2 ^ 8 + max 1 (bits v 19 16) * 2 ^ 16 + max 1 (bits v 27 20) * 2 ^ 20) s
  else if off = Reg.ERR_RETIRE then repairWrite 1 v s
  else if off = Reg.ERR_READMIT then repairWrite 2 v s
  else if off = Reg.ERR_INJECT then injectWrite v s
  else if off = Reg.ERR_INJECT_ADDR then setDreg off (bits v 51 0) s
  else if off = Reg.ERR_DFLAGS then w1cD off v 7 s
  else s

/-! ### Management BAR0 -/

/-- A 64-bit write of the management function whose mailbox is f at an aligned offset (R419, R541, R544). -/
def mgmtWrite (f off v : Nat) (s : State) : State :=
  if 0x800 ≤ off ∧ off < 0x900 then
    (if !mbxExists s f then s
    else match mbxWrite f (off - 0x800) v s with
      | .took s => s
      | .refused s => s
      | .quiet => mgmtViol off s
      | .owner s => s)
  else if !mgmtPage s off then s
  else if 0x900 ≤ off ∧ off < 0x920 then portCfgWrite ((off - 0x900) / 8) v s
  else if off = Reg.DEV_EXPERT then setDreg off (bits v 15 0) s
  else if off = Reg.BRG_CFG then setDreg off (bits v 1 0) s
  else if off = Reg.BRG_ERR then w1cD off v 4 s
  else if off = Reg.BRG_LOG_SEL then setDreg off (bits v 2 0) s
  else if off = Reg.PMAP_SEL then setDreg off (bits v 3 0) s
  else if off = Reg.PMAP_RESET then pmapReset v s
  else if off = Reg.PMAP_ERR then w1cD off v 3 s
  else if off = Reg.PMAP_DRAIN then setDreg off (min 1000 (max 100 (bits v 15 0))) s
  else if 0x10000 ≤ off ∧ off < 0x18200 then lnkWrite off v s
  else if 0x20000 ≤ off ∧ off < 0x28100 then netWrite off v s
  else if 0x30000 ≤ off ∧ off < 0x30180 then mpwrWrite off v s
  else if off = Reg.DFL_SEL then setDreg off (bits v 11 0) s
  else if 0x50000 ≤ off ∧ off < 0x51000 then merrWrite off v s
  else s

/-- A read of management BAR0 at an aligned offset. -/
def mgmtRead (s : State) (f off : Nat) : Nat :=
  if 0x800 ≤ off ∧ off < 0x900 then (if mbxExists s f then mbxRead s f (off - 0x800) else 0)
  else if !mgmtPage s off then 0
  else if off < 0x900 then 0
  else if off < 0x1000 then
    (if off < 0x920 ∨ off = Reg.DEV_EXPERT ∨ off = Reg.DEV_CXL_UNMAPPED ∨ off = Reg.DEV_ORPHAN_LOST then dreg s off else 0)
  else if off < 0x2000 then brgRead s off
  else if off < 0x3000 then pmapRead s off
  else if off < 0x11000 then (if 0x10000 ≤ off ∧ off % 0x100 ≤ 0x38 then dreg s off else 0)
  else if off < 0x18200 then (if 0x18000 ≤ off ∧ (off ≤ Reg.LNK_UNREACH ∨ 0x18100 ≤ off) then dreg s off else 0)
  else if off < 0x20000 then 0
  else if off < 0x28100 then netRead s off
  else if off < 0x30000 then 0
  else if off < 0x31300 then
    (if off ≤ Reg.PWR_MERR ∨ (0x30100 ≤ off ∧ off < 0x30180) ∨ 0x31000 ≤ off then dreg s off else 0)
  else if off < 0x40000 then 0
  else if off < 0x41000 then dflRead s off
  else if 0x50000 ≤ off ∧ off < 0x500C0 then dreg s off
  else 0

/-! ### Accesses of the host functions (R538, R539) -/

/-- The bytes of an aligned read of 1, 2, 4 or 8 bytes; 0 for another. -/
def readBytes (off n v : Nat) : List Byte :=
  if (n = 1 ∨ n = 2 ∨ n = 4 ∨ n = 8) ∧ off % n = 0 then leBytes n (v / 2 ^ (8 * (off % 8)) % 2 ^ (8 * n))
  else List.replicate n 0

/-- A write of n bytes by a partition's host (R12, R376, R389, R538). -/
def partHostWrite (p off n v : Nat) (s : State) : State :=
  hostWrite p (expertOff off) (fun s =>
    if off / 8 * 8 = 0x1020 ∧ n < 8 then flagM p 0 s
    else if n ≠ 8 ∨ off % 8 ≠ 0 then s
    else takeWrite p off (partWrite p off v s) s) s

/-- A read of n bytes by a partition's host; where no partition answers, only PT_STATE is not 0 (R367, R426). -/
def partHostRead (p off n : Nat) (s : State) : State :=
  let at8 := off / 8 * 8
  if !mbxExists s p then
    { s with ans := (0, readBytes off n (if at8 = 8 ∧ (part s p).st = .resetting then 3 else 0)) }
  else if expertOff off && !bitAt (dreg s Reg.DEV_EXPERT) p then { flagM p 5 s with ans := (1, []) }
  else
    let r := partRead p at8 s
    { r.2 with ans := (0, readBytes off n r.1) }

/-- A write of n bytes by the PF0 of a port; an identity function discards it (R367). -/
def mgmtHostWrite (port off n v : Nat) (s : State) : State :=
  if !mgmtOk s port || !mgmtEnded s then s
  else if off / 8 * 8 = 0x820 ∧ n < 8 then flagM (16 + port) 0 s
  else if n ≠ 8 ∨ off % 8 ≠ 0 then s
  else mgmtWrite (16 + port) off v s

/-- A read of n bytes by the PF0 of a port. -/
def mgmtHostRead (port off n : Nat) (s : State) : State :=
  let at8 := off / 8 * 8
  let dev : Bool := decide (0x900 ≤ at8) && decide (at8 < 0x1000)
  if !mgmtEnded s then s
  else if !mgmtOk s port && !dev then { s with ans := (0, readBytes off n 0) }
  else { s with ans := (0, readBytes off n (mgmtRead s (16 + port) at8)) }

/-- REGISTER_WRITE: a host writes n bytes at an offset of BAR0: of partition f, or of the PF0 of port f - 16 (R12). -/
def execRegisterWrite (f off n v : Nat) (s : State) : Out :=
  if 20 ≤ f then .fault .noSuchUnit
  else if f < 16 then .next (partHostWrite f off n v s)
  else .next (mgmtHostWrite (f - 16) off n v s)

/-- EXPERT_RANGE_ACCESS: a host reads n bytes, or writes them, in an expert range of partition BAR0; at basic level it is
answered with Unsupported Request or discarded, and sets MBX_ERR.NOT_EXPERT (R389). A read of a basic range, or by the
PF0 of port f - 16, is answered alike. -/
def execExpertRangeAccess (f off n : Nat) (write : Bool) (v : Nat) (s : State) : Out :=
  if 20 ≤ f then .fault .noSuchUnit
  else if f < 16 then .next (if write then (if expertOff off then partHostWrite f off n v s else s) else partHostRead f off n s)
  else .next (if write then s else mgmtHostRead (f - 16) off n s)

/-- MANAGEMENT_ACCESS: a sideband message reads or writes 8 bytes of management BAR0 under its register classes; it is
answered with the value (R531). -/
def execManagementAccess (off : Nat) (write : Bool) (v : Nat) (s : State) : Out :=
  if s.pwr = 0 then .next s
  else
    let s := inSession s
    if !fwAnswers s then .next (reply2 13 [2] s)
    else if off % 8 ≠ 0 then .next (reply2 14 [0] s)
    else if write then .next (reply2 14 [0] (mgmtWrite (ringFn s) off v s))
    else .next (reply2 14 [mgmtRead s (ringFn s) off] s)

end Sys2Proof.Machine
end

