-- ==== Sys2Proof/Machine/Dispatch.lean ====
section
/-!
DEFINITION. The dispatch: what each command of the table does is one call of its meaning.
-/
namespace Sys2Proof.Machine

def exec (i : Instr) (s : State) : Host.Outcome State Fault Refusal :=
  match i with
  | .registerWrite f off n v => Sys2Proof.Machine.execRegisterWrite f off n v s
  | .expertRangeAccess f off n write v => Sys2Proof.Machine.execExpertRangeAccess f off n write v s
  | .opNop c k x => Sys2Proof.Machine.execNop c k x s
  | .opEnd c k x => Sys2Proof.Machine.execEnd c k x s
  | .opBr c k x => Sys2Proof.Machine.execBr c k x s
  | .opBc c k x => Sys2Proof.Machine.execBc c k x s
  | .opBrl c k x => Sys2Proof.Machine.execBrl c k x s
  | .opJr c k x => Sys2Proof.Machine.execJr c k x s
  | .opAdd c k x => Sys2Proof.Machine.execAdd c k x s
  | .opSub c k x => Sys2Proof.Machine.execSub c k x s
  | .opAnd c k x => Sys2Proof.Machine.execAnd c k x s
  | .opOr c k x => Sys2Proof.Machine.execOr c k x s
  | .opXor c k x => Sys2Proof.Machine.execXor c k x s
  | .opShl c k x => Sys2Proof.Machine.execShl c k x s
  | .opShr c k x => Sys2Proof.Machine.execShr c k x s
  | .opSar c k x => Sys2Proof.Machine.execSar c k x s
  | .opMul c k x => Sys2Proof.Machine.execMul c k x s
  | .opMin c k x => Sys2Proof.Machine.execMin c k x s
  | .opMax c k x => Sys2Proof.Machine.execMax c k x s
  | .opSlt c k x => Sys2Proof.Machine.execSlt c k x s
  | .opSltu c k x => Sys2Proof.Machine.execSltu c k x s
  | .opInsh c k x => Sys2Proof.Machine.execInsh c k x s
  | .opShacc c k x => Sys2Proof.Machine.execShacc c k x s
  | .opReq c k x => Sys2Proof.Machine.execReq c k x s
  | .opLd c k x => Sys2Proof.Machine.execLd c k x s
  | .opSt c k x => Sys2Proof.Machine.execSt c k x s
  | .opAadd c k x => Sys2Proof.Machine.execAadd c k x s
  | .opAswp c k x => Sys2Proof.Machine.execAswp c k x s
  | .opWaitm c k x => Sys2Proof.Machine.execWaitm c k x s
  | .opWaitmReread c k x => Sys2Proof.Machine.execWaitmReread c k x s
  | .opGive c k x => Sys2Proof.Machine.execGive c k x s
  | .opBuild c k x => Sys2Proof.Machine.execBuild c k x s
  | .buildStart c k => Sys2Proof.Machine.execBuildStart c k s
  | .opSweep c k x => Sys2Proof.Machine.execSweep c k x s
  | .sweepStart c k => Sys2Proof.Machine.execSweepStart c k s
  | .opFence c k x => Sys2Proof.Machine.execFence c k x s
  | .fenceComplete c k => Sys2Proof.Machine.execFenceComplete c k s
  | .opRqpush c k x => Sys2Proof.Machine.execRqpush c k x s
  | .opCbload c k x => Sys2Proof.Machine.execCbload c k x s
  | .opAccrd c k x => Sys2Proof.Machine.execAccrd c k x s
  | .opQpush c k x => Sys2Proof.Machine.execQpush c k x s
  | .opWait c k x => Sys2Proof.Machine.execWait c k x s
  | .opSig c k x => Sys2Proof.Machine.execSig c k x s
  | .opWaitf c k x => Sys2Proof.Machine.execWaitf c k x s
  | .opBar c k x => Sys2Proof.Machine.execBar c k x s
  | .opRdsys c k x => Sys2Proof.Machine.execRdsys c k x s
  | .taskFaultStop => Sys2Proof.Machine.execTaskFaultStop s
  | .laneTakeRow c k same => Sys2Proof.Machine.execLaneTakeRow c k same s
  | .rowRetire c k l => Sys2Proof.Machine.execRowRetire c k l s
  | .blockStaged c k => Sys2Proof.Machine.execBlockStaged c k s
  | .sweepComplete c k => Sys2Proof.Machine.execSweepComplete c k s
  | .tongueRequest c k => Sys2Proof.Machine.execTongueRequest c k s
  | .tongueAnswer c k => Sys2Proof.Machine.execTongueAnswer c k s
  | .stolenBlockReceive c k => Sys2Proof.Machine.execStolenBlockReceive c k s
  | .chorusSegment c k flip => Sys2Proof.Machine.execChorusSegment c k flip s
  | .chorusCrcReport c k => Sys2Proof.Machine.execChorusCrcReport c k s
  | .lutCtxHalt p v => Sys2Proof.Machine.execLutCtxHalt p v s
  | .lutCtxStep p v => Sys2Proof.Machine.execLutCtxStep p v s
  | .lutGregWrite p x idx v => Sys2Proof.Machine.execLutGregWrite p x idx v s
  | .lutPmWrite p w v => Sys2Proof.Machine.execLutPmWrite p w v s
  | .lutCtxPcWrite p x v => Sys2Proof.Machine.execLutCtxPcWrite p x v s
  | .lutAccRead p l n => Sys2Proof.Machine.execLutAccRead p l n s
  | .lutFaultClear p v => Sys2Proof.Machine.execLutFaultClear p v s
  | .quantJobStart c => Sys2Proof.Machine.execQuantJobStart c s
  | .combinePost c => Sys2Proof.Machine.execCombinePost c s
  | .combineTimeout p idx => Sys2Proof.Machine.execCombineTimeout p idx s
  | .quantJobEnd c => Sys2Proof.Machine.execQuantJobEnd c s
  | .qntJobAddrWrite p n v => Sys2Proof.Machine.execQntJobAddrWrite p n v s
  | .qntCstDataWrite p n v => Sys2Proof.Machine.execQntCstDataWrite p n v s
  | .qntStatClear p n v => Sys2Proof.Machine.execQntStatClear p n v s
  | .qntCountClear p n => Sys2Proof.Machine.execQntCountClear p n s
  | .qntRmClear p v => Sys2Proof.Machine.execQntRmClear p v s
  | .qntHalt p n v => Sys2Proof.Machine.execQntHalt p n v s
  | .qntStatSumRead p n idx => Sys2Proof.Machine.execQntStatSumRead p n idx s
  | .denseJob c => Sys2Proof.Machine.execDenseJob c s
  | .vecCopy c => Sys2Proof.Machine.execVecCopy c s
  | .vecAdd c => Sys2Proof.Machine.execVecAdd c s
  | .vecSub c => Sys2Proof.Machine.execVecSub c s
  | .vecMul c => Sys2Proof.Machine.execVecMul c s
  | .vecFma c => Sys2Proof.Machine.execVecFma c s
  | .vecMax c => Sys2Proof.Machine.execVecMax c s
  | .vecMin c => Sys2Proof.Machine.execVecMin c s
  | .vecAbs c => Sys2Proof.Machine.execVecAbs c s
  | .vecNeg c => Sys2Proof.Machine.execVecNeg c s
  | .vecExp c => Sys2Proof.Machine.execVecExp c s
  | .vecRecip c => Sys2Proof.Machine.execVecRecip c s
  | .vecRsqrt c => Sys2Proof.Machine.execVecRsqrt c s
  | .vecCmpgt c => Sys2Proof.Machine.execVecCmpgt c s
  | .vecCmpeq c => Sys2Proof.Machine.execVecCmpeq c s
  | .vecSelect c => Sys2Proof.Machine.execVecSelect c s
  | .vecRsum c => Sys2Proof.Machine.execVecRsum c s
  | .vecRmax c => Sys2Proof.Machine.execVecRmax c s
  | .vecRsumsq c => Sys2Proof.Machine.execVecRsumsq c s
  | .vecCompress c => Sys2Proof.Machine.execVecCompress c s
  | .vecExpand c => Sys2Proof.Machine.execVecExpand c s
  | .vecCvt c => Sys2Proof.Machine.execVecCvt c s
  | .vecQrow c => Sys2Proof.Machine.execVecQrow c s
  | .vecRcombine c => Sys2Proof.Machine.execVecRcombine c s
  | .vecOadd c => Sys2Proof.Machine.execVecOadd c s
  | .vecGive c => Sys2Proof.Machine.execVecGive c s
  | .jobDoneSignal c e => Sys2Proof.Machine.execJobDoneSignal c e s
  | .gatherSum c j ov => Sys2Proof.Machine.execGatherSum c j ov s
  | .gatherMean c j ov => Sys2Proof.Machine.execGatherMean c j ov s
  | .gatherWsum c j ov => Sys2Proof.Machine.execGatherWsum c j ov s
  | .gatherGive c j => Sys2Proof.Machine.execGatherGive c j s
  | .rowReadRetry c j ov => Sys2Proof.Machine.execRowReadRetry c j ov s
  | .cacheFill c => Sys2Proof.Machine.execCacheFill c s
  | .cacheInvalidate c => Sys2Proof.Machine.execCacheInvalidate c s
  | .tblCacheInv p t => Sys2Proof.Machine.execTblCacheInv p t s
  | .moltReplace c => Sys2Proof.Machine.execMoltReplace c s
  | .moltAccumulate c => Sys2Proof.Machine.execMoltAccumulate c s
  | .moltReplaceCond c => Sys2Proof.Machine.execMoltReplaceCond c s
  | .moltReplica c => Sys2Proof.Machine.execMoltReplica c s
  | .moltCommit c n => Sys2Proof.Machine.execMoltCommit c n s
  | .batchIngest c => Sys2Proof.Machine.execBatchIngest c s
  | .updateJob c => Sys2Proof.Machine.execUpdateJob c s
  | .remoteWaitExpiry tag ov => Sys2Proof.Machine.execRemoteWaitExpiry tag ov s
  | .updHalt p n v => Sys2Proof.Machine.execUpdHalt p n v s
  | .gpeHalt p n j v => Sys2Proof.Machine.execGpeHalt p n j v s
  | .bankAccess m who a op rivals commit => Sys2Proof.Machine.execBankAccess m who a op rivals commit s
  | .ownerHandover c b => Sys2Proof.Machine.execOwnerHandover c b s
  | .bnkOwnerWrite p b v => Sys2Proof.Machine.execBnkOwnerWrite p b v s
  | .bnkWinBaseWrite p v => Sys2Proof.Machine.execBnkWinBaseWrite p v s
  | .hostWindowAccess p o write data len commit => Sys2Proof.Machine.execHostWindowAccess p o write data len commit s
  | .backgroundScrub k found struck => Sys2Proof.Machine.execBackgroundScrub k found struck s
  | .clutchFetch c e idx hs => Sys2Proof.Machine.execClutchFetch c e idx hs s
  | .streamXfer c e idx => Sys2Proof.Machine.execStreamXfer c e idx s
  | .streamWait c e idx => Sys2Proof.Machine.execStreamWait c e idx s
  | .streamWaitPass c e idx => Sys2Proof.Machine.execStreamWaitPass c e idx s
  | .streamBarrier c e idx => Sys2Proof.Machine.execStreamBarrier c e idx s
  | .streamLink c e idx => Sys2Proof.Machine.execStreamLink c e idx s
  | .streamEnd c e idx => Sys2Proof.Machine.execStreamEnd c e idx s
  | .streamGrant c e acks hs => Sys2Proof.Machine.execStreamGrant c e acks hs s
  | .deadlineMiss c e idx => Sys2Proof.Machine.execDeadlineMiss c e idx s
  | .descriptorRetire c e idx => Sys2Proof.Machine.execDescriptorRetire c e idx s
  | .strArm p n e idx => Sys2Proof.Machine.execStrArm p n e idx s
  | .mappingFault c e idx cause write => Sys2Proof.Machine.execMappingFault c e idx cause write s
  | .streamHalt c e idx => Sys2Proof.Machine.execStreamHalt c e idx s
  | .priResponse port g code => Sys2Proof.Machine.execPriResponse port g code s
  | .barrierRelease p => Sys2Proof.Machine.execBarrierRelease p s
  | .barrierTimeout p => Sys2Proof.Machine.execBarrierTimeout p s
  | .strHalt p n e halt => Sys2Proof.Machine.execStrHalt p n e halt s
  | .strSlackClear p n e => Sys2Proof.Machine.execStrSlackClear p n e s
  | .strSaveBaseWrite p v => Sys2Proof.Machine.execStrSaveBaseWrite p v s
  | .cmdNop f => Sys2Proof.Machine.execCmdNop f s
  | .cmdSubmitRequest f => Sys2Proof.Machine.execCmdSubmitRequest f s
  | .lapseCheck p => Sys2Proof.Machine.execLapseCheck p s
  | .requestDispatch p => Sys2Proof.Machine.execRequestDispatch p s
  | .taskSend r => Sys2Proof.Machine.execTaskSend r s
  | .taskStart c => Sys2Proof.Machine.execTaskStart c s
  | .taskEnd c t => Sys2Proof.Machine.execTaskEnd c t s
  | .budgetPeriod pext phio => Sys2Proof.Machine.execBudgetPeriod pext phio s
  | .dspHoldExpiry c => Sys2Proof.Machine.execDspHoldExpiry c s
  | .limiterStep => Sys2Proof.Machine.execLimiterStep s
  | .limiterRestore => Sys2Proof.Machine.execLimiterRestore s
  | .brumationEntry c => Sys2Proof.Machine.execBrumationEntry c s
  | .offEntry c => Sys2Proof.Machine.execOffEntry c s
  | .wakeComplete c => Sys2Proof.Machine.execWakeComplete c s
  | .dspHalt p n halt => Sys2Proof.Machine.execDspHalt p n halt s
  | .pwrThermWrite v => Sys2Proof.Machine.execPwrThermWrite v s
  | .doorbell f wide tail expseq hs => Sys2Proof.Machine.execDoorbell f wide tail expseq hs s
  | .commandFetch f hs => Sys2Proof.Machine.execCommandFetch f hs s
  | .entryReread f hs => Sys2Proof.Machine.execEntryReread f hs s
  | .completionRecordWrite f => Sys2Proof.Machine.execCompletionRecordWrite f s
  | .mbxCplHeadWrite f v => Sys2Proof.Machine.execMbxCplHeadWrite f v s
  | .mbxErrHeadWrite f v => Sys2Proof.Machine.execMbxErrHeadWrite f v s
  | .mailboxEnable f en => Sys2Proof.Machine.execMailboxEnable f en s
  | .atsInvalidate port vf page n => Sys2Proof.Machine.execAtsInvalidate port vf page n s
  | .hostReadRefused c e idx => Sys2Proof.Machine.execHostReadRefused c e idx s
  | .cxlMemAccess port seg o write data len commit => Sys2Proof.Machine.execCxlMemAccess port seg o write data len commit s
  | .cmdLoadModel f => Sys2Proof.Machine.execCmdLoadModel f s
  | .cmdBind f => Sys2Proof.Machine.execCmdBind f s
  | .cmdUnbind f => Sys2Proof.Machine.execCmdUnbind f s
  | .cmdUpdateRows f => Sys2Proof.Machine.execCmdUpdateRows f s
  | .cmdBarrier f => Sys2Proof.Machine.execCmdBarrier f s
  | .cmdQuery f => Sys2Proof.Machine.execCmdQuery f s
  | .cmdResumeStream f => Sys2Proof.Machine.execCmdResumeStream f s
  | .cmdSetBudget f => Sys2Proof.Machine.execCmdSetBudget f s
  | .cmdReclaim f => Sys2Proof.Machine.execCmdReclaim f s
  | .cmdPathFlush f => Sys2Proof.Machine.execCmdPathFlush f s
  | .cmdScrub f => Sys2Proof.Machine.execCmdScrub f s
  | .cmdContinue f => Sys2Proof.Machine.execCmdContinue f s
  | .cmdRepairReset f => Sys2Proof.Machine.execCmdRepairReset f s
  | .cmdFreezeRelease f => Sys2Proof.Machine.execCmdFreezeRelease f s
  | .cmdFwUpdate f boots rest => Sys2Proof.Machine.execCmdFwUpdate f boots rest s
  | .cmdCancel f => Sys2Proof.Machine.execCmdCancel f s
  | .perst port gen width => Sys2Proof.Machine.execPerst port gen width s
  | .flr port fn => Sys2Proof.Machine.execFlr port fn s
  | .tokenCommit p => Sys2Proof.Machine.execTokenCommit p s
  | .devExpertWrite v => Sys2Proof.Machine.execDevExpertWrite v s
  | .devPortCfgWrite port v h => Sys2Proof.Machine.execDevPortCfgWrite port v h s
  | .msixSend f v masked => Sys2Proof.Machine.execMsixSend f v masked s
  | .clusterDrainLimit c => Sys2Proof.Machine.execClusterDrainLimit c s
  | .cellReset c k => Sys2Proof.Machine.execCellReset c k s
  | .clusterReset c => Sys2Proof.Machine.execClusterReset c s
  | .partitionReset p finish => Sys2Proof.Machine.execPartitionReset p finish s
  | .deviceReset held => Sys2Proof.Machine.execDeviceReset held s
  | .rdmaWrite q rkey va data => Sys2Proof.Machine.execRdmaWrite q rkey va data s
  | .rdmaWriteImmediate q rkey va imm data => Sys2Proof.Machine.execRdmaWriteImmediate q rkey va imm data s
  | .rdmaRead q rkey va len => Sys2Proof.Machine.execRdmaRead q rkey va len s
  | .roceSend q data => Sys2Proof.Machine.execRoceSend q data s
  | .udpDatagram q peer data => Sys2Proof.Machine.execUdpDatagram q peer data s
  | .batchAcknowledgement q => Sys2Proof.Machine.execBatchAcknowledgement q s
  | .cnpReceive q => Sys2Proof.Machine.execCnpReceive q s
  | .ecnCeReceive q => Sys2Proof.Machine.execEcnCeReceive q s
  | .flitReceive l fec bytes credits => Sys2Proof.Machine.execFlitReceive l fec bytes credits s
  | .nakReplay l seq => Sys2Proof.Machine.execNakReplay l seq s
  | .ackTimeoutReplay l => Sys2Proof.Machine.execAckTimeoutReplay l s
  | .rowRead ovr => Sys2Proof.Machine.execRowRead ovr s
  | .rowData ov => Sys2Proof.Machine.execRowData ov s
  | .molt => Sys2Proof.Machine.execMolt s
  | .outcome => Sys2Proof.Machine.execOutcome s
  | .replica => Sys2Proof.Machine.execReplica s
  | .refuse ov => Sys2Proof.Machine.execRefuse ov s
  | .fabricForward => Sys2Proof.Machine.execFabricForward s
  | .linkTrain l good lock p => Sys2Proof.Machine.execLinkTrain l good lock p s
  | .linkSoakEnd l ser uncorr => Sys2Proof.Machine.execLinkSoakEnd l ser uncorr s
  | .linkLossOfLock l => Sys2Proof.Machine.execLinkLossOfLock l s
  | .retrain l => Sys2Proof.Machine.execRetrain l s
  | .liveRetrainEnd l good lock p ser uncorr => Sys2Proof.Machine.execLiveRetrainEnd l good lock p ser uncorr s
  | .linkDisable l dis => Sys2Proof.Machine.execDisable l dis s
  | .lnkDomainWrite v => Sys2Proof.Machine.execLnkDomainWrite v s
  | .ethernetLinkDown e res => Sys2Proof.Machine.execEthernetLinkDown e res s
  | .netPortEnable e en => Sys2Proof.Machine.execNetPortEnable e en s
  | .queueEnable v => Sys2Proof.Machine.execQueueEnable v s
  | .stageMgmt slots stby flashBad => Sys2Proof.Machine.execStageMgmt slots stby flashBad s
  | .stageClocknet fs net flashBad => Sys2Proof.Machine.execStageClocknet fs net flashBad s
  | .stageMemory fs caps trained flashBad => Sys2Proof.Machine.execStageMemory fs caps trained flashBad s
  | .stageLinks host hostOk eth ethOk absent bulk bulkOk flashBad => Sys2Proof.Machine.execStageLinks host hostOk eth ethOk absent bulk bulkOk flashBad s
  | .stageCompute fs flashBad => Sys2Proof.Machine.execStageCompute fs flashBad s
  | .errorRecordWrite => Sys2Proof.Machine.execErrorRecordWrite s
  | .cellRetirement c k seen => Sys2Proof.Machine.execCellRetirement c k seen s
  | .clusterRetirement c seen => Sys2Proof.Machine.execClusterRetirement c seen s
  | .hbmChannelRetirement ch => Sys2Proof.Machine.execHbmChannelRetirement ch s
  | .hbmMoveStep ch => Sys2Proof.Machine.execHbmMoveStep ch s
  | .bankMove c b => Sys2Proof.Machine.execBankMove c b s
  | .unitReadmit pass => Sys2Proof.Machine.execUnitReadmit pass s
  | .heartbeat => Sys2Proof.Machine.execHeartbeat s
  | .takeover finish => Sys2Proof.Machine.execTakeover finish s
  | .plannedTakeover finish => Sys2Proof.Machine.execPlannedTakeover finish s
  | .standbyBoot ok => Sys2Proof.Machine.execStandbyBoot ok s
  | .coreRestart d => Sys2Proof.Machine.execCoreRestart d s
  | .injectBankError two => Sys2Proof.Machine.execInjectBankError two s
  | .injectHbmError two => Sys2Proof.Machine.execInjectHbmError two s
  | .injectCrcFailure l => Sys2Proof.Machine.execInjectCrcFailure l s
  | .injectHeartbeatStop => Sys2Proof.Machine.execInjectHeartbeatStop s
  | .errRingEnable en => Sys2Proof.Machine.execErrRingEnable en s
  | .errRingHeadWrite v => Sys2Proof.Machine.execErrRingHeadWrite v s
  | .standbyRailUp => Sys2Proof.Machine.execStandbyRailUp s
  | .pwrEnAssert => Sys2Proof.Machine.execPwrEnAssert s
  | .pwrEnDeassert => Sys2Proof.Machine.execPwrEnDeassert s
  | .inputDip => Sys2Proof.Machine.execInputDip s
  | .undervoltage gone => Sys2Proof.Machine.execUndervoltage gone s
  | .overvoltage => Sys2Proof.Machine.execOvervoltage s
  | .railFault => Sys2Proof.Machine.execRailFault s
  | .devrst held => Sys2Proof.Machine.execDevrst held s
  | .sensorRead n v => Sys2Proof.Machine.execSensorRead n v s
  | .thermtrip cause => Sys2Proof.Machine.execThermtrip cause s
  | .mctpControlMessage cmd arg => Sys2Proof.Machine.execMctpControlMessage cmd arg s
  | .pldmMessage ty op img => Sys2Proof.Machine.execPldmMessage ty op img s
  | .activateFirmware boots rest => Sys2Proof.Machine.execActivateFirmware boots rest s
  | .sidebandCommand ws => Sys2Proof.Machine.execSidebandCommand ws s
  | .sidebandDeviceReset held => Sys2Proof.Machine.execSidebandDeviceReset held s
  | .managementAccess off write v => Sys2Proof.Machine.execManagementAccess off write v s
  | .sidebandSessionTimeout close => Sys2Proof.Machine.execSidebandSessionTimeout close s
  | .stagingDrain c b => Sys2Proof.Machine.execStagingDrain c b s
  | .bulkPortLinkDown port trained => Sys2Proof.Machine.execBulkPortLinkDown port trained s
  | .pfcPauseReceive e prio pause => Sys2Proof.Machine.execPfcPauseReceive e prio pause s
  | .roceAckTimeout q n => Sys2Proof.Machine.execRoceAckTimeout q n s
  | .reclaimLockoutExpiry p => Sys2Proof.Machine.execReclaimLockoutExpiry p s

end Sys2Proof.Machine
end

