-- ==== Sys2Proof/Safety.lean ====
section
/-!
DEFINITION. What counts as a safe state, and the hypotheses and frames that statements use: a context about to run a permitted
word, an access that meets no error, and states that differ in one place only.
-/
namespace Sys2Proof.Machine

/-- A command is answered by a next state that has a property. -/
def Completes (o : Out) (P : State → Prop) : Prop := ∃ t, o = .next t ∧ P t

/-- The command names units that the module has, and for an access to a bank a requester that its master has. -/
def Named (i : Instr) : Bool :=
  match i with
  | .bankAccess m who _ op _ _ => sends m who op
  | i => i.wellFormed

/-- The invariant of the module: memory is in its canonical form. -/
def Inv (s : State) : Prop := Memory.wf s.mem

/-! ### Frames -/

/-- Only cell k of cluster c differs. -/
def OnlyCell (s t : State) (c k : Nat) : Prop :=
  { t with cells := s.cells } = s ∧ ∀ n, n ≠ 32 * c + k → mget {} t.cells n = mget {} s.cells n

/-- The cell is as before but for its contexts, its counters, the mark of the last context and the fields that f blanks. -/
def SameCell (f : Cell → Cell) (s t : State) (c k : Nat) : Prop :=
  f { cellOf t c k with ctx := [], cnt := [], last := 0 } = f { cellOf s c k with ctx := [], cnt := [], last := 0 }

/-- Only context x of a cell differs, with the cell's count of issued instructions and the mark of the last context:
every other register, flag, engine, counter and byte of memory is as before. -/
def OnlyCtx (s t : State) (c k x : Nat) : Prop :=
  OnlyCell s t c k ∧
  { cellOf t c k with ctx := [], cnt := [], last := 0 } = { cellOf s c k with ctx := [], cnt := [], last := 0 } ∧
  (∀ i, i ≠ 11 → mget 0 (cellOf t c k).cnt i = mget 0 (cellOf s c k).cnt i) ∧
  ∀ y, y ≠ x → ctxOf t c k y = ctxOf s c k y

/-! ### Cells -/

/-- Context x of cell k of cluster c may issue, and stands at a written and error-free word w that is permitted and of
operation op. -/
def Fetches (s : State) (c k x op : Nat) (w : CellWord) : Prop :=
  c < 96 ∧ k < 32 ∧ x < 4 ∧ canIssue s c k x = true ∧
  mget false (cellOf s c k).pmw (ctxOf s c k x).pc = true ∧
  mget 0 (cellOf s c k).pmEcc (ctxOf s c k x).pc = 0 ∧
  cellWord (mget 0 (cellOf s c k).pm (ctxOf s c k x).pc) = w ∧ w.op = op ∧ wordOk w = true

/-- The context's registers, and the results on their way to them, are as before, but register d takes v unless d is g0. -/
def RegSet (s t : State) (c k x d : Nat) (v : W64) : Prop :=
  (∀ j, (ctxOf t c k x).reg j = if j = d ∧ j ≠ 0 then v else (ctxOf s c k x).reg j) ∧
  ∀ j, mget none (ctxOf t c k x).late j = if j = d ∧ j ≠ 0 then none else mget none (ctxOf s c k x).late j

/-- The context's registers are as before, and the value v is on its way to register d unless d is g0. -/
def RegLate (s t : State) (c k x d : Nat) (v : W64) : Prop :=
  (∀ j, (ctxOf t c k x).reg j = (ctxOf s c k x).reg j) ∧
  ∀ j, mget none (ctxOf t c k x).late j = if j = d ∧ j ≠ 0 then some v else mget none (ctxOf s c k x).late j

/-- The context's registers, and the results on their way to them, are as before. -/
def RegSame (s t : State) (c k x : Nat) : Prop :=
  (∀ j, (ctxOf t c k x).reg j = (ctxOf s c k x).reg j) ∧ (ctxOf t c k x).late = (ctxOf s c k x).late

/-- The instruction completes: register d of the context takes v unless d is g0, the other registers stay, the context goes on
at the next word, and nothing else changes. -/
def Writes (s : State) (o : Out) (c k x d : Nat) (v : W64) : Prop :=
  ∃ t, o = .next t ∧ OnlyCtx s t c k x ∧ RegSet s t c k x d v ∧
    (ctxOf t c k x).pc = (ctxOf s c k x).pc + 1 ∧ (ctxOf t c k x).st = .ready

/-- The instruction completes: the value v is on its way to register d unless d is g0, the registers stay, the context goes on
at the next word, and nothing else changes. -/
def Returns (s : State) (o : Out) (c k x d : Nat) (v : W64) : Prop :=
  ∃ t, o = .next t ∧ OnlyCtx s t c k x ∧ RegLate s t c k x d v ∧
    (ctxOf t c k x).pc = (ctxOf s c k x).pc + 1 ∧ (ctxOf t c k x).st = .ready

/-- The instruction completes and the context goes on at word n; its registers and everything else stay. -/
def GoesTo (s : State) (o : Out) (c k x n : Nat) : Prop :=
  ∃ t, o = .next t ∧ OnlyCtx s t c k x ∧ RegSame s t c k x ∧ (ctxOf t c k x).pc = n ∧ (ctxOf t c k x).st = .ready

/-- The wait completes without its condition: the context stays at its word in WAIT_SYNC, and everything else stays. -/
def Stays (s : State) (o : Out) (c k x : Nat) : Prop :=
  ∃ t, o = .next t ∧ OnlyCtx s t c k x ∧ RegSame s t c k x ∧ (ctxOf t c k x).pc = (ctxOf s c k x).pc ∧
    (ctxOf t c k x).st = .waitSync

/-- The instruction faults: the context is FAULTED at its word, and status and detail go to the dispatcher. -/
def Faults (s : State) (o : Out) (c k x status detail : Nat) : Prop :=
  ∃ t n, o = .next t ∧ (ctxOf s c k x).task = some n ∧ (ctxOf t c k x).st = .faulted ∧
    (ctxOf t c k x).pc = (ctxOf s c k x).pc ∧
    t.reports = s.reports ++ [{ task := n, status := status, detail := detail, clu := c, src := some (k, x, (ctxOf s c k x).pc) }] ∧
    t.mem = s.mem

/-- The instruction completes: its context goes on at the next word with its registers as they were, the other contexts stay,
and nothing outside the cell changes. -/
def StepsOn (s t : State) (c k x : Nat) : Prop :=
  OnlyCell s t c k ∧ (∀ y, y ≠ x → ctxOf t c k y = ctxOf s c k y) ∧
    RegSame s t c k x ∧ (ctxOf t c k x).pc = (ctxOf s c k x).pc + 1 ∧ (ctxOf t c k x).st = .ready

/-- Context x holds task n and the engine serves it: it is free or its own, and no GIVE of the context is open. -/
def Engages (s : State) (c k x n : Nat) : Prop :=
  (ctxOf s c k x).task = some n ∧ gives s c k x = false ∧
    ((cellOf s c k).engOwner = none ∨ (cellOf s c k).engOwner = some n)

/-- The instructions of a compute cell (Table 5.5): the events of a context that reaches a word. -/
def cellCommands : List (Nat → Nat → Nat → Instr) :=
  [.opNop, .opEnd, .opBr, .opBc, .opBrl, .opJr, .opAdd, .opSub, .opAnd, .opOr, .opXor, .opShl, .opShr, .opSar, .opMul, .opMin,
   .opMax, .opSlt, .opSltu, .opInsh, .opShacc, .opReq, .opLd, .opSt, .opAadd, .opAswp, .opWaitm, .opGive, .opBuild, .opSweep,
   .opFence, .opRqpush, .opCbload, .opAccrd, .opQpush, .opWait, .opSig, .opWaitf, .opBar, .opRdsys]

/-! ### Hosts and commands -/

/-- A write of the host of partition p at expert level arrives: the partition answers, its expert level is on and its host
function is not frozen. -/
def HostWrites (s : State) (p : Nat) : Prop :=
  p < 16 ∧ mbxExists s p = true ∧ (dreg s Reg.DEV_EXPERT).testBit p = true ∧ hostFrozen s p = false

/-- The record of command c of mailbox f becomes due with a status, detail and length, in state t over state s, in which nothing but
the queue of due records and the command's mark differs. -/
def Ends (s t : State) (f : Nat) (c : Cmd) (status detail rlen : Nat) : Prop :=
  t.due = s.due ++ [{ mbx := f, tag := c.tag, seq := c.seq, status := status, detail := detail, island := fwIsland s f,
                      rlen := rlen, fvis := c.fvis, noirq := c.noirq }] ∧
  (∀ g, g ≠ f → mbxOf t g = mbxOf s g) ∧ { mbxOf t f with cmds := [] } = { mbxOf s f with cmds := [] } ∧
  (mbxOf t f).cmds = (mbxOf s f).cmds.map fun x => if x.seq = c.seq then { x with started := true, due := true } else x

/-- Firmware may begin command c of mailbox f, which is of opcode op. -/
def Begins (s : State) (f op : Nat) (c : Cmd) : Prop := f ≤ 20 ∧ nextCmd s f op = some c

/-! ### Rings -/

/-- ws are the eight words of error record e with overflow count ovf in slot number rseq of a ring of 2^log (Table 15.2): its phase,
and the halves of all words give all ones (R542). -/
def ErrWords (e : ErrInfo) (ovf rseq log : Nat) (ws : List Nat) : Prop :=
  ∃ x, ws =
    [e.sev % 16 + e.cls % 16 * 2 ^ 4 + e.detail % 2 ^ 24 * 2 ^ 8 + e.part.getD 0 % 16 * 2 ^ 32 + b2n e.part.isSome * 2 ^ 36 +
       e.island % 2 ^ 16 * 2 ^ 48,
     rseq % 2 ^ 32 + ovf % 2 ^ 32 * 2 ^ 32, e.cycles % 2 ^ 48, e.subject % 2 ^ 64, e.tag % 2 ^ 64, e.aux % 2 ^ 64, e.iseq % 2 ^ 32, x] ∧
    x.testBit 63 = (rseq / 2 ^ log % 2 == 0) ∧ bits x 62 32 = 0 ∧ foldXor ws = 2 ^ 32 - 1

/-- The words ws stand at the n bytes from key k, and no other byte of memory changed. -/
def WordsAt (s t : State) (k n : Nat) (ws : List Nat) : Prop :=
  peeks t k n = wordsBytes ws ∧ ∀ q, ¬ (k ≤ q ∧ q < k + n) → mget 0 t.mem q = mget 0 s.mem q

/-- Nothing differs but mailbox f. -/
def OnlyMbx (s t : State) (f : Nat) : Prop := { t with mbx := s.mbx } = s ∧ ∀ g, g ≠ f → mbxOf t g = mbxOf s g

/-- The registers of mailbox f are those that r gives, and its other fields are m. -/
def MbxIs (t : State) (f : Nat) (m : Mbx) (r : Nat → Nat) : Prop := { mbxOf t f with regs := [] } = { m with regs := [] } ∧ ∀ o, mreg t f o = r o

/-- A ring of 2^log slots with these heads is full (R542). -/
def RingFull (head tail log : Nat) : Prop := 2 ^ log ≤ (tail + 2 ^ 32 - head % 2 ^ 32) % 2 ^ 32

/-- The error ring of mailbox f takes records (R382). -/
def ErrRingOpen (s : State) (f : Nat) : Prop :=
  mbxRunning s f = true ∧ ¬ RingFull (mreg s f Reg.MBX_ERR_HEAD) (mreg s f Reg.MBX_ERR_TAIL) (bits (mreg s f Reg.MBX_ERR_CFG) 4 0)

/-- Error record e is written into the ring of mailbox f, and for a partition counted and shown in its registers; nothing else
changes, but that a VF's write has its page translated (R369, R485, R542). -/
def ErrWritten (s t : State) (f : Nat) (e : ErrInfo) (ovf : Nat) : Prop :=
  let tail := mreg s f Reg.MBX_ERR_TAIL
  let log := bits (mreg s f Reg.MBX_ERR_CFG) 4 0
  let a := bits (mreg s f Reg.MBX_ERR_BASE) 46 0 + 64 * (tail % 2 ^ log)
  let x := ringXlat f a 64 s
  { t with mem := x.mem, mbx := x.mbx, parts := x.parts } = x ∧ (∀ g, g ≠ f → mbxOf t g = mbxOf s g) ∧
  MbxIs t f { mbxOf s f with errs := (mbxOf s f).errs + 1 } (fun o => if o = Reg.MBX_ERR_TAIL then (tail + 1) % 2 ^ 32 else mreg s f o) ∧
  (16 ≤ f → t.parts = s.parts) ∧
  ∃ ws, ErrWords e ovf tail log ws ∧ WordsAt s t (hostKey f a) 64 ws ∧
    (f < 16 → (∀ p, p ≠ f → part t p = part s p) ∧ { part t f with regs := [] } = { part s f with regs := [] } ∧
      (∀ j, j < 8 → preg t f (Reg.ERR_PLAST + 8 * j) = ws.getD j 0) ∧
      ∀ o, (∀ j, j < 8 → o ≠ Reg.ERR_PLAST + 8 * j) → preg t f o =
        if o = Reg.ERR_PCOUNT ∧ (e.sev = 2 ∨ e.sev = 3) then bump32 (32 * (e.sev - 2)) 1 (preg s f o)
        else if o = Reg.ERR_PCOUNT2 ∧ e.sev ≠ 2 ∧ e.sev ≠ 3 then bump32 (if e.sev = 4 then 0 else 32) 1 (preg s f o)
        else preg s f o)

/-- Error record e is due for the ring of mailbox f: written where the ring takes it, else counted as lost with bit 4 of MBX_ERR
(R382). -/
def ErrPut (s t : State) (f : Nat) (e : ErrInfo) (ovf : Nat) : Prop :=
  (ErrRingOpen s f → ErrWritten s t f e ovf) ∧
  (¬ ErrRingOpen s f → OnlyMbx s t f ∧ MbxIs t f { mbxOf s f with lost := (mbxOf s f).lost + 1 } fun o =>
    if o = Reg.MBX_ERR then orBit (mreg s f o) 4 else if o = Reg.MBX_ERR_LOST then bump32 0 1 (mreg s f o) else mreg s f o)

/-- A ring of mailbox f that can take records writes the LOST record of those it dropped first (R543). -/
def LostFirst (s t : State) (f : Nat) : Prop :=
  ((mbxOf s f).lost = 0 ∨ ¬ ErrRingOpen s f → t = s) ∧
  ((mbxOf s f).lost ≠ 0 → ErrRingOpen s f → ∃ (v : State) (e : ErrInfo), OnlyMbx s v f ∧ mbxOf v f = { mbxOf s f with lost := 0 } ∧ ErrWritten v t f e 0 ∧
    e.sev = 4 ∧ e.cls = 9 ∧ e.detail = 0 ∧ e.part = (if f < 16 then some f else none) ∧ e.subject = min (mbxOf s f).lost (2 ^ 32 - 1) ∧ e.aux = 1)

/-- The device error ring takes records (R517). -/
def DevRingOpen (s : State) : Prop :=
  (dreg s Reg.ERR_RING_CTRL).testBit 0 = true ∧
    ¬ RingFull (dreg s Reg.ERR_RING_HEAD) (dreg s Reg.ERR_RING_TAIL) (bits (dreg s Reg.ERR_RING_CFG) 4 0)

/-- Error record e is written into the device error ring; nothing else changes (R485, R517, R542). -/
def DevWritten (s t : State) (e : ErrInfo) (ovf : Nat) : Prop :=
  let tail := dreg s Reg.ERR_RING_TAIL
  let log := bits (dreg s Reg.ERR_RING_CFG) 4 0
  { t with mem := s.mem, dregs := s.dregs, ringErrs := s.ringErrs } = s ∧ t.ringErrs = s.ringErrs + 1 ∧
  ∃ ws, ErrWords e ovf tail log ws ∧
    WordsAt s t (hostKey (ringFn s) (bits (dreg s Reg.ERR_RING_BASE) 46 0 + 64 * (tail % 2 ^ log))) 64 ws ∧
    (∀ j, j < 8 → dreg t (Reg.ERR_DLAST + 8 * j) = ws.getD j 0) ∧
    ∀ o, (∀ j, j < 8 → o ≠ Reg.ERR_DLAST + 8 * j) → dreg t o = if o = Reg.ERR_RING_TAIL then (tail + 1) % 2 ^ 32 else dreg s o

/-- Error record e is due for the device error ring: written where the ring takes it, else counted as lost (R517). -/
def DevPut (s t : State) (e : ErrInfo) (ovf : Nat) : Prop :=
  (DevRingOpen s → DevWritten s t e ovf) ∧
  (¬ DevRingOpen s → { t with dregs := s.dregs, ringLost := s.ringLost } = s ∧ t.ringLost = s.ringLost + 1 ∧ ∀ o, dreg t o =
    if o = Reg.ERR_RING_LOST then bump32 0 1 (dreg s o) else if o = Reg.ERR_DFLAGS then orBit (dreg s o) 0 else dreg s o)

/-- The device error ring writes the LOST record of what it dropped as soon as it can take one (R543). -/
def DevLostFirst (s t : State) : Prop :=
  (s.ringLost = 0 ∨ ¬ DevRingOpen s → t = s) ∧
  (s.ringLost ≠ 0 → DevRingOpen s → ∃ e : ErrInfo, DevWritten { s with ringLost := 0 } t e 0 ∧ e.sev = 6 ∧ e.cls = 9 ∧ e.detail = 0 ∧ e.part = none ∧
    e.subject = min s.ringLost (2 ^ 32 - 1) ∧ e.aux = 1)

/-- Error record e goes to its rings: its partition's, its mailbox's of the management function, and the device's for a severity of
UNIT or above, for one of no partition and for one of a management function (R487). -/
def ErrRouted (s t : State) (e : ErrInfo) (ovf : Nat) : Prop :=
  ∃ u v, (∀ p, e.part = some p → ErrPut s u p e ovf) ∧ (e.part = none → u = s) ∧
    (∀ f, e.mgmtMbx = some f → f < 20 → ErrPut u v f e ovf) ∧ ((∀ f, e.mgmtMbx = some f → 20 ≤ f) → v = u) ∧
    (5 ≤ e.sev ∨ e.part = none ∨ e.mgmtMbx ≠ none → DevPut v t e ovf) ∧ (¬ (5 ≤ e.sev ∨ e.part = none ∨ e.mgmtMbx ≠ none) → t = v)

/-! ### Management firmware -/

/-- ERR_MGMT after a change of roles: the other complex is primary, no standby is ready, and TAKEOVERS has counted (Table 15.12). -/
def newRoles (s : State) : Nat := 1 - dreg s Reg.ERR_MGMT % 2 + bump32 32 1 (bits (dreg s Reg.ERR_MGMT) 63 32 * 2 ^ 32)

/-- The record of severity DEVICE and class MANAGEMENT that the new primary writes (Table 15.3). -/
def rolesRecord (s : State) (detail : Nat) : ErrInfo :=
  let n := newRoles s
  { sev := 6, cls := 6, detail := detail, island := coreIsland (n % 2) + 1, cycles := recCycles s (coreIsland (n % 2) + 1), subject := n % 2,
    aux := bits n 63 32 }

/-- The roles of the management complexes have changed places (R505 to R508, R515, R217): ERR_MGMT, ERR_FW and ERR_DFLAGS are mg, fw
and df, the event is counted, the flags of bound partitions are as `flag` gives, the seeds of clusters without a running task are
reapplied and those of the others wait for its end. Nothing else changes but what the update and its command leave. -/
def TakenOver (s t : State) (mg fw df : Nat) (flag : Nat → Nat) : Prop :=
  let bound (p : Nat) : Prop := p < 16 ∧ (part s p).st ≠ .unbound
  { t with dregs := s.dregs, parts := s.parts, clus := s.clus, srGen := s.srGen, srLane := s.srLane, beatAt := s.beatAt,
           beatStop := s.beatStop, fwUpd := s.fwUpd, slotAct := s.slotAct, pldm := s.pldm, sent := s.sent, mbx := s.mbx, due := s.due,
           dueErr := s.dueErr } = s ∧
  t.beatAt = s.now ∧ t.beatStop = false ∧
  (∀ o, dreg t o = if o = Reg.ERR_MGMT then mg else if o = Reg.ERR_FW then fw else if o = Reg.ERR_DFLAGS then df
    else if o = Reg.ERR_EVENTS then bump32 0 1 (dreg s o) else dreg s o) ∧
  (∀ p, { part t p with regs := [] } = { part s p with regs := [] } ∧ ∀ o,
    (bound p ∧ o = Reg.ERR_PFLAGS → preg t p o = flag (preg s p o)) ∧ (¬ (bound p ∧ o = Reg.ERR_PFLAGS) → preg t p o = preg s p o)) ∧
  (∀ c, (c < 96 → clu t c = { clu s c with reseedDue := !(runningOn s c).isEmpty }) ∧ (96 ≤ c → clu t c = clu s c)) ∧
  (∀ j c, j < 3 → c < 96 → mget 0 t.srGen (96 * j + c) =
    if (runningOn s c).isEmpty then (mget 0 s.srGen (96 * j + c) + 1) % 2 ^ 26 else mget 0 s.srGen (96 * j + c)) ∧
  ∀ e, 288 ≤ e → mget 0 t.srGen e = mget 0 s.srGen e

/-! ### Memory -/

/-- An access of n bytes by a master, not an I/O stream engine, is permitted, its bytes are those of the keys ks, none in host
memory, and no word of it has an error, an armed injection or a staged write. -/
def Clean (s : State) (m : Master) (p : Nat) (dom : Option Nat) (a n : Nat) (ks : List Nat) : Prop :=
  (∀ d, m ≠ .io d) ∧ runEM (keysOf m p dom a n) s = .good ks s ∧
  ∀ q ∈ ks, q < 2 ^ 52 ∧ mget 0 s.ecc (wordKey q) = 0 ∧ mget 0 s.inj (wordKey q) = 0 ∧
    (bankOf s (bankOfKey q).1 (bankOfKey q).2).staged = []

/-- The same for an I/O stream engine that serves mailbox f, in host memory too where no translation is asked for: no part lies in
the bulk tier out of service. -/
def CleanIo (s : State) (f p a n : Nat) (ks : List Nat) : Prop :=
  runEM (keysOf (ioOf s f) p none a n) s = .good ks s ∧
  (∀ q ∈ partsOf n a n, bulkDown s p q.1 = false ∧ (regionOf q.1 = some 3 → atsOn s p = false)) ∧
  ∀ q ∈ ks, mget 0 s.ecc (wordKey q) = 0 ∧ mget 0 s.inj (wordKey q) = 0 ∧
    (q < 2 ^ 37 → (bankOf s (bankOfKey q).1 (bankOfKey q).2).staged = [])

/-- Memory t is memory s with the bytes l at the keys ks, and no other byte changed. -/
def Stored (s t : State) (ks : List Nat) (l : List Byte) : Prop :=
  t.mem = ((ks.zip l).foldl (fun s q => poke q.1 q.2 s) s).mem ∧ ∀ q, q ∉ ks → mget 0 t.mem q = mget 0 s.mem q

/-- The store completes: the bytes l are stored at the keys ks, and the context goes on at the next word. -/
def Stores (s : State) (o : Out) (c k x : Nat) (ks : List Nat) (l : List Byte) : Prop :=
  Completes o fun t => Stored s t ks l ∧ OnlyCtx s { t with mem := s.mem } c k x ∧ RegSame s t c k x ∧
    (ctxOf t c k x).pc = (ctxOf s c k x).pc + 1 ∧ (ctxOf t c k x).st = .ready

/-- As Returns, and the bytes l are stored at the keys ks. -/
def ReturnsStores (s : State) (o : Out) (c k x d : Nat) (v : W64) (ks : List Nat) (l : List Byte) : Prop :=
  Completes o fun t => Stored s t ks l ∧ OnlyCtx s { t with mem := s.mem } c k x ∧ RegLate s t c k x d v ∧
    (ctxOf t c k x).pc = (ctxOf s c k x).pc + 1 ∧ (ctxOf t c k x).st = .ready

/-! ### Engine jobs -/

/-- Job j of 64 bytes at the keys ks is the first of the dense (e = 0) or vector (e = 1) queue of cluster c, rest behind it, and
may run: the cluster is on, its vector domain not frozen, no DONE flag of the engine is still to be signalled and no owner write of it to be made, the control
word's halves agree, the job names the engine, and its sync word lets it start. -/
def JobRuns (s : State) (c e : Nat) (j : EJob) (rest : List EJob) (ks : List Nat) : Prop :=
  let p := (taskOf s j.task).part
  let w := words8 (ks.map (peek s))
  c < 96 ∧ (clu s c).pw = .on ∧ isFrozen s p (.vec c) = false ∧ engFree s c e = true ∧
  (if e = 0 then (clu s c).dq else (clu s c).vq) = j :: rest ∧ Clean s (.vec c) p none j.addr 64 ks ∧
  bits (w 0) 63 32 = 2 ^ 32 - 1 - bits (w 0) 31 0 ∧ bits (w 0) 3 0 = e + 1 ∧
  ((w 7).testBit 38 = true → (mget 0 (clu s c).flags (bits (w 7) 37 32) + 2 ^ 32 - bits (w 7) 31 0) % 2 ^ 32 < 2 ^ 31)

/-- The job has left its queue, which takes the next job that waits for room, its DONE flag is to be signalled if it has one, and nothing
else differs but memory and the count of free values. -/
def JobDone (s t : State) (c e : Nat) (j : EJob) (rest : List EJob) (ks : List Nat) : Prop :=
  let w := words8 (ks.map (peek s))
  { t with clus := s.clus, mem := s.mem, fresh := s.fresh } = s ∧ (∀ d, d ≠ c → clu t d = clu s d) ∧
  { clu t c with sig := [] } = Cluster.refill { clu s c with sig := [], dq := if e = 0 then rest else (clu s c).dq,
                                                             vq := if e = 0 then (clu s c).vq else rest } ∧
  ∀ i, mget none (clu t c).sig i = if i = e ∧ (w 7).testBit 45 = true then some (bits (w 7) 44 39 + 1, j.task)
    else mget none (clu s c).sig i

/-- JobRuns for a vector job whose settings v are permitted and name operation op. -/
def VecRuns (s : State) (c op : Nat) (j : EJob) (rest : List EJob) (ks : List Nat) (v : VSet) : Prop :=
  JobRuns s c 1 j rest ks ∧ v = vsetOf (words8 (ks.map (peek s))) ∧ v.op = op ∧ vopListed op = true ∧ vsetFault v = none

/-- Element n of an operand of format f at a base address is aligned and can be accessed by the vector domain at keys k. -/
def Elem (s : State) (c p base n : Nat) (f : Fmt) (k : List Nat) : Prop :=
  (base + n * (fmtBits f / 8)) % (fmtBits f / 8) = 0 ∧ Clean s (.vec c) p none (base + n * (fmtBits f / 8)) (fmtBits f / 8) k

/-- The number that the bytes at some keys hold. -/
def valAt (s : State) (k : List Nat) : Nat := leNat (k.map (peek s))

/-- x is a sum of FP32 words added two at a time in some order; no words sum to 0. -/
def AnySum : Nat → List Nat → Nat → Prop
  | 0, l, x => (l = [] ∧ x = 0) ∨ l = [x]
  | n + 1, l, x => (l = [] ∧ x = 0) ∨ l = [x] ∨ ∃ a b r, l.Perm (a :: b :: r) ∧ AnySum n (add32 a b :: r) x

end Sys2Proof.Machine
end

