-- ==== Sys2Proof/Certificates/Slice0/Obligations.lean ====
section
/-!
DEFINITION. The statements for the provers.
-/
open Sys2Proof Sys2Proof.Machine

/-- For every state whose queue begins with a command, a step is exec of that command on the state with the queue's rest. -/
def Obligations.StepRunsFront : Prop :=
  ∀ (s : State) (i : Instr) (rest : List Instr), s.pending = i :: rest → step s = exec i { s with pending := rest }

/-- The model's choice, log 2: on an empty queue a step completes, the clock is one tick further, and all that changes beside it
are the counters of cells and the results on their way to a register, which return: each cell listed afterwards stood there before with the same
number and the same contents but its counters, and so did each of its contexts but for returned results. -/
def Obligations.IdleStepIsTick : Prop :=
  ∀ s : State, s.pending = [] → Completes (step s) fun t =>
    t = { s with now := s.now + 1, cells := t.cells } ∧
    ∀ n v, (n, v) ∈ t.cells → ∃ u, (n, u) ∈ s.cells ∧
      { v with cnt := [], ctx := [] } = { u with cnt := [], ctx := [] } ∧
      ∀ x q, (x, q) ∈ v.ctx → ∃ r, (x, r) ∈ u.ctx ∧ (q = r ∨ q = r.land)

/-- In State.reset memory is in its canonical form: no byte is listed, so that every byte reads as 0 (log 10). -/
def Obligations.ResetInvariant : Prop := Inv State.reset ∧ ∀ k, peek State.reset k = 0

/-- For every state whose memory is in canonical form (addresses strictly rising, no zero byte listed) and every command or tick,
a next state has its memory in canonical form, so that equal memories are equal data. -/
def Obligations.StepKeepsInvariant : Prop := ∀ s t : State, Inv s → step s = .next t → Inv t

/-- For every command and state, exec answers a next state when the command names units, requesters and settings that the module has, and
the fault noSuchUnit when it does not: nothing is refused and no data ends a run (the fault is the model's choice, log 13). -/
def Obligations.WellFormedCompletes : Prop :=
  ∀ (i : Instr) (s : State), (Named i = true → Completes (exec i s) fun _ => True) ∧
    (Named i = false → exec i s = .fault .noSuchUnit)

/-- When a context issues ADD, SUB, AND, OR, XOR, SHL, SHR, SAR, MUL, MIN, MAX, SLT, SLTU, INSH, SHACC or REQ below word 2,047, gD
takes the value of Table 5.5 (b is gB, or IMM sign-extended when I is 1; a write to g0 is discarded; MUL's value is on its way to gD), the context goes on at the
next word, and every other register, context, cell, flag and byte of memory is as before. -/
def Obligations.CellArithmetic : Prop :=
  ∀ (s : State) (c k x : Nat) (w : CellWord),
    let v := ctxOf s c k x
    let a := v.reg w.a
    let b := if w.i then BitVec.ofInt 64 (sext 32 w.imm) else v.reg w.b
    let n := b.toNat % 64
    v.pc ≠ 2047 →
    (Fetches s c k x 0x10 w → Writes s (exec (.opAdd c k x) s) c k x w.d (a + b)) ∧
    (Fetches s c k x 0x11 w → Writes s (exec (.opSub c k x) s) c k x w.d (a - b)) ∧
    (Fetches s c k x 0x12 w → Writes s (exec (.opAnd c k x) s) c k x w.d (a &&& b)) ∧
    (Fetches s c k x 0x13 w → Writes s (exec (.opOr c k x) s) c k x w.d (a ||| b)) ∧
    (Fetches s c k x 0x14 w → Writes s (exec (.opXor c k x) s) c k x w.d (a ^^^ b)) ∧
    (Fetches s c k x 0x15 w → Writes s (exec (.opShl c k x) s) c k x w.d (a <<< n)) ∧
    (Fetches s c k x 0x16 w → Writes s (exec (.opShr c k x) s) c k x w.d (a >>> n)) ∧
    (Fetches s c k x 0x17 w → Writes s (exec (.opSar c k x) s) c k x w.d (a.sshiftRight n)) ∧
    (Fetches s c k x 0x18 w → Returns s (exec (.opMul c k x) s) c k x w.d (a * b)) ∧
    (Fetches s c k x 0x19 w → Writes s (exec (.opMin c k x) s) c k x w.d (if a.toInt ≤ b.toInt then a else b)) ∧
    (Fetches s c k x 0x1A w → Writes s (exec (.opMax c k x) s) c k x w.d (if a.toInt ≤ b.toInt then b else a)) ∧
    (Fetches s c k x 0x1B w → Writes s (exec (.opSlt c k x) s) c k x w.d (if a.toInt < b.toInt then 1 else 0)) ∧
    (Fetches s c k x 0x1C w → Writes s (exec (.opSltu c k x) s) c k x w.d (if a.toNat < b.toNat then 1 else 0)) ∧
    (Fetches s c k x 0x1D w → Writes s (exec (.opInsh c k x) s) c k x w.d
      (BitVec.ofNat 64 (a.toNat % 2 ^ 32 + w.imm * 2 ^ 32))) ∧
    (Fetches s c k x 0x1E w → Writes s (exec (.opShacc c k x) s) c k x w.d
      (let sum := (v.reg w.d).toInt + if w.f % 2 = 0 then (a <<< w.imm).toInt else rneShrI a.toInt w.imm
       if w.f < 2 then BitVec.ofInt 64 sum else BitVec.ofInt 64 (clampI (-(2 ^ 63)) (2 ^ 63 - 1) sum))) ∧
    (Fetches s c k x 0x1F w → Writes s (exec (.opReq c k x) s) c k x w.d
      (BitVec.ofInt 64 (if w.f = 0 then clampI (-127) 127 (rneShrI (sext 32 a.toNat) w.imm)
        else clampI (-7) 7 (rneShrI (sext 32 a.toNat) w.imm))))

/-- When a context issues: NOP goes on at the next word; BR at word IMM; BC at word IMM if its condition of Table 5.6 holds, else
at the next word; BRL writes the address of the next word to gD and goes on at IMM; JR goes on at word gA if it is below 2,048; END,
with no GIVE of the context open, frees the context, its HALT bit apart, and stores nothing. -/
def Obligations.CellControlFlow : Prop :=
  ∀ (s : State) (c k x : Nat) (w : CellWord),
    let v := ctxOf s c k x
    let a := v.reg w.a
    let b := v.reg w.b
    let holds : Prop := match w.f with
      | 0 => a = b
      | 1 => a ≠ b
      | 2 => a.toInt < b.toInt
      | 3 => b.toInt ≤ a.toInt
      | 4 => a.toNat < b.toNat
      | _ => b.toNat ≤ a.toNat
    (Fetches s c k x 0x00 w → v.pc ≠ 2047 → GoesTo s (exec (.opNop c k x) s) c k x (v.pc + 1)) ∧
    (Fetches s c k x 0x02 w → GoesTo s (exec (.opBr c k x) s) c k x w.imm) ∧
    (Fetches s c k x 0x03 w → holds → GoesTo s (exec (.opBc c k x) s) c k x w.imm) ∧
    (Fetches s c k x 0x03 w → ¬ holds → v.pc ≠ 2047 → GoesTo s (exec (.opBc c k x) s) c k x (v.pc + 1)) ∧
    (Fetches s c k x 0x04 w → Completes (exec (.opBrl c k x) s) fun t => OnlyCtx s t c k x ∧
      RegSet s t c k x w.d (BitVec.ofNat 64 (v.pc + 1)) ∧ (ctxOf t c k x).pc = w.imm ∧ (ctxOf t c k x).st = .ready) ∧
    (Fetches s c k x 0x05 w → a.toNat < 2048 → GoesTo s (exec (.opJr c k x) s) c k x a.toNat) ∧
    (Fetches s c k x 0x01 w → gives s c k x = false → Completes (exec (.opEnd c k x) s) fun t =>
      t = { s with cells := t.cells, parts := t.parts } ∧ ctxOf t c k x = { halt := v.halt } ∧
      (∀ y, y ≠ x → ctxOf t c k y = ctxOf s c k y) ∧ ∀ n, n ≠ 32 * c + k → mget {} t.cells n = mget {} s.cells n)

/-- At an aligned effective address gA + IMM that the cell may access, whose words hold no error, injection or staged write: LD
sends the bytes, zero- or sign-extended, to gD; ST stores the low bytes of gB; AADD stores the sum in wrapping 32 bits, FP32 or saturating
I8 and ASWP stores gB, and both send the old value to gD; WAITM and WAITM_REREAD go on when the masked word equals gD, else wait. GIVE starts
the handover of its bank to a permitted code. Every byte but those stored, and every other register, is as before. -/
def Obligations.CellMemory : Prop :=
  ∀ (s : State) (c k x : Nat) (w : CellWord) (ks : List Nat),
    let v := ctxOf s c k x
    let p := ctxPart s c k x
    let a := (v.reg w.a + BitVec.ofInt 64 (sext 32 w.imm)).toNat
    let old := leNat (ks.map (peek s))
    let g := (v.reg w.b).toNat
    let ok (n : Nat) : Prop := a % n = 0 ∧ a < 2 ^ 48 ∧ Clean s (.cell c k) p none a n ks
    v.pc ≠ 2047 →
    (Fetches s c k x 0x20 w → ok (2 ^ (w.f % 4)) → Returns s (exec (.opLd c k x) s) c k x w.d
      (if w.f < 4 then BitVec.ofNat 64 old else BitVec.ofInt 64 (sext (8 * 2 ^ (w.f % 4)) old))) ∧
    (Fetches s c k x 0x21 w → ok (2 ^ w.f) → Stores s (exec (.opSt c k x) s) c k x ks (leBytes (2 ^ w.f) g)) ∧
    (Fetches s c k x 0x22 w → w.f = 0 → ok 4 → ReturnsStores s (exec (.opAadd c k x) s) c k x w.d (BitVec.ofInt 64 (sext 32 old)) ks
      (leBytes 4 ((old + g) % 2 ^ 32))) ∧
    (Fetches s c k x 0x22 w → w.f = 1 → ok 4 → ReturnsStores s (exec (.opAadd c k x) s) c k x w.d (BitVec.ofNat 64 old) ks
      (leBytes 4 (add32 old (g % 2 ^ 32)))) ∧
    (Fetches s c k x 0x22 w → w.f = 2 → ok 1 → ReturnsStores s (exec (.opAadd c k x) s) c k x w.d (BitVec.ofInt 64 (sext 8 old)) ks
      (leBytes 1 (toBits 8 (clampI (-127) 127 (codeInt .i8 (old % 256) + codeInt .i8 (g % 256)))))) ∧
    (Fetches s c k x 0x23 w → ok (if w.f = 0 then 4 else 8) → ReturnsStores s (exec (.opAswp c k x) s) c k x w.d (BitVec.ofNat 64 old) ks
      (leBytes (if w.f = 0 then 4 else 8) g)) ∧
    (Fetches s c k x 0x24 w → v.st = .ready → ok 8 →
      (BitVec.ofNat 64 old &&& v.reg w.b = v.reg w.d → GoesTo s (exec (.opWaitm c k x) s) c k x (v.pc + 1)) ∧
      (BitVec.ofNat 64 old &&& v.reg w.b ≠ v.reg w.d →
        Stays s (exec (.opWaitm c k x) s) c k x)) ∧
    (Fetches s c k x 0x24 w → v.st = .waitSync → ok 8 →
      (BitVec.ofNat 64 old &&& v.reg w.b = v.reg w.d → GoesTo s (exec (.opWaitmReread c k x) s) c k x (v.pc + 1)) ∧
      (BitVec.ofNat 64 old &&& v.reg w.b ≠ v.reg w.d →
        Stays s (exec (.opWaitmReread c k x) s) c k x)) ∧
    (∀ q, Fetches s c k x 0x25 w → (v.reg w.a).toNat < 2 ^ 48 → runEM (keysOf (.cell c k) p none (v.reg w.a).toNat 1) s = .good [q] s →
      codeOk s (bankOfKey q).1 (bankOfKey q).2 (g % 2 ^ 16) = true →
      Completes (exec (.opGive c k x) s) fun t => StepsOn s { t with banks := s.banks } c k x ∧
        bankOf t (bankOfKey q).1 (bankOfKey q).2 = { bankOf s (bankOfKey q).1 (bankOfKey q).2 with
          pending := some (g % 2 ^ 16), giver := some (4 * (32 * c + k) + x) } ∧
        ∀ n, n ≠ 576 * (bankOfKey q).1 + (bankOfKey q).2 → mget {} t.banks n = mget {} s.banks n)

/-- When a context issues: SIG, with no GIVE open, adds gA to the cluster flag IMM modulo 2^32, or sets it when F is 1, and no other
flag changes; WAITF goes on once (flag - gA) modulo 2^32 is below 2^31, else waits; WAIT 0 to 3 goes on when the context's builds,
sweeps, fences or gives are complete, WAIT 4 returns the result record of its last QPUSH once its VALID bit is set (0 if it never pushed), and WAIT 5 goes on when
the engine serves another task or nothing of its task is left on it; BAR, its sweeps complete and its gives acknowledged, marks the context as arrived; RDSYS returns the value of Table 5.11. -/
def Obligations.CellSynchronisation : Prop :=
  ∀ (s : State) (c k x : Nat) (w : CellWord),
    let v := ctxOf s c k x
    let q := cellOf s c k
    let g := (v.reg w.a).toNat % 2 ^ 32
    let f := mget 0 (clu s c).flags w.imm
    v.pc ≠ 2047 →
    (Fetches s c k x 0x41 w → gives s c k x = false → Completes (exec (.opSig c k x) s) fun t =>
      StepsOn s { t with clus := s.clus } c k x ∧
      (∀ i, mget 0 (clu t c).flags i = if i = w.imm then (if w.f = 0 then (f + g) % 2 ^ 32 else g) else mget 0 (clu s c).flags i) ∧
      { clu t c with flags := [] } = { clu s c with flags := [] } ∧ ∀ d, d ≠ c → clu t d = clu s d) ∧
    (Fetches s c k x 0x42 w → (f + 2 ^ 32 - g) % 2 ^ 32 < 2 ^ 31 → GoesTo s (exec (.opWaitf c k x) s) c k x (v.pc + 1)) ∧
    (Fetches s c k x 0x42 w → ¬ (f + 2 ^ 32 - g) % 2 ^ 32 < 2 ^ 31 →
      Stays s (exec (.opWaitf c k x) s) c k x) ∧
    (Fetches s c k x 0x40 w → w.f = 0 → (∀ b ∈ q.builds, ¬ (b.x = x ∧ v.task = some b.task)) →
      GoesTo s (exec (.opWait c k x) s) c k x (v.pc + 1)) ∧
    (Fetches s c k x 0x40 w → w.f = 1 → (∀ b ∈ q.run.toList ++ q.pend.toList, ¬ (b.x = x ∧ v.task = some b.task)) →
      GoesTo s (exec (.opWait c k x) s) c k x (v.pc + 1)) ∧
    (Fetches s c k x 0x40 w → w.f = 2 → (∀ b ∈ q.fences, ¬ (b.x = x ∧ v.task = some b.task)) →
      GoesTo s (exec (.opWait c k x) s) c k x (v.pc + 1)) ∧
    (Fetches s c k x 0x40 w → w.f = 3 → gives s c k x = false → GoesTo s (exec (.opWait c k x) s) c k x (v.pc + 1)) ∧
    (∀ a, Fetches s c k x 0x40 w → w.f = 4 → v.qrec = some a → bitAt (leNat (peeks s (a % 2 ^ 37) 8)) 7 = true →
      Writes s (exec (.opWait c k x) s) c k x w.d (BitVec.ofNat 64 (leNat (peeks s (a % 2 ^ 37) 8)))) ∧
    (Fetches s c k x 0x40 w → w.f = 4 → v.qrec = none → Writes s (exec (.opWait c k x) s) c k x w.d 0) ∧
    (Fetches s c k x 0x40 w → w.f = 5 →
      q.engOwner ≠ v.task ∨ (q.builds = [] ∧ q.run = none ∧ q.pend = none ∧ q.fences = []) → GoesTo s (exec (.opWait c k x) s) c k x (v.pc + 1)) ∧
    (Fetches s c k x 0x43 w → gives s c k x = false → (∀ b ∈ q.run.toList ++ q.pend.toList, ¬ (b.x = x ∧ v.task = some b.task)) →
      Completes (exec (.opBar c k x) s) fun t => t = { s with cells := t.cells, parts := t.parts } ∧
        (ctxOf t c k x).arrived = true ∧ (ctxOf t c k x).pc = v.pc ∧ RegSame s t c k x ∧
        ∀ y, y ≠ x → ctxOf t c k y = ctxOf s c k y) ∧
    (Fetches s c k x 0x50 w → Writes s (exec (.opRdsys c k x) s) c k x w.d
      (match w.imm with
      | 0 => BitVec.ofNat 64 (cellCycles s c)
      | 1 => BitVec.ofNat 64 (cellIsland s c k)
      | 2 => BitVec.ofNat 64 k
      | 3 => BitVec.ofNat 64 c
      | 4 => BitVec.ofNat 64 x
      | 5 => BitVec.ofNat 64 (q.curWtag + 16 * q.curAdig)
      | 6 => BitVec.ofNat 64 q.rq.length
      | _ => BitVec.ofInt 64 ((q.cb.map fun b => b.e).getD 0)))

/-- A context that may issue and holds a task: at a word not written, whatever instruction was due, it faults with PC_RANGE; at a word
with an uncorrectable error with UNCORRECTABLE, PM_UNCORR; at a written word that is not permitted with ILLEGAL; JR to 2,048 or above
and a NOP in word 2,047 fault with PC_RANGE; a load or store that is not aligned with MISALIGNED. The context is then FAULTED at its word, the
fault is reported to its dispatcher, and memory is as before. -/
def Obligations.CellFaults : Prop :=
  ∀ (s : State) (c k x : Nat),
    let v := ctxOf s c k x
    let w := cellWord (mget 0 (cellOf s c k).pm v.pc)
    let written := mget false (cellOf s c k).pmw v.pc = true
    c < 96 → k < 32 → x < 4 → canIssue s c k x = true → v.task.isSome = true →
    (∀ i ∈ cellCommands, ¬ written → Faults s (exec (i c k x) s) c k x 0x01 0x05_0002) ∧
    (∀ i ∈ cellCommands, written → mget 0 (cellOf s c k).pmEcc v.pc = 2 → Faults s (exec (i c k x) s) c k x 0x09 0x05_0006) ∧
    (∀ i ∈ cellCommands, written → mget 0 (cellOf s c k).pmEcc v.pc = 0 → opListed w.op = false →
      Faults s (exec (i c k x) s) c k x 0x01 0x05_0001) ∧
    (written → mget 0 (cellOf s c k).pmEcc v.pc = 0 → w.op = 0x10 → wordOk w = false →
      Faults s (exec (.opAdd c k x) s) c k x 0x01 0x05_0001) ∧
    (Fetches s c k x 0x05 w → 2048 ≤ (v.reg w.a).toNat → Faults s (exec (.opJr c k x) s) c k x 0x01 0x05_0002) ∧
    (Fetches s c k x 0x00 w → v.pc = 2047 → Faults s (exec (.opNop c k x) s) c k x 0x01 0x05_0002) ∧
    (Fetches s c k x 0x20 w → (v.reg w.a + BitVec.ofInt 64 (sext 32 w.imm)).toNat % 2 ^ (w.f % 4) ≠ 0 →
      Faults s (exec (.opLd c k x) s) c k x 0x01 0x05_0003) ∧
    (Fetches s c k x 0x21 w → (v.reg w.a + BitVec.ofInt 64 (sext 32 w.imm)).toNat % 2 ^ w.f ≠ 0 →
      Faults s (exec (.opSt c k x) s) c k x 0x01 0x05_0003)

/-- When a context whose gives are acknowledged issues at an engine that is free or serves its task n, and the operation can be taken and its
reads are permitted and error-free: BUILD with room in the issue queue enters its build with the fields of Table 5.8; SWEEP with no sweep pending becomes
the pending sweep with the fields of Tables 5.9 and 5.10; FENCE enters the order of sweeps and fences; RQPUSH enters the entries of Table 3.7 that
the row queue has room for, goes on with the last, closing the row set when CLOSE is 1, and else waits; CBLOAD converts and loads the codebook;
ACCRD sends the accumulator, free of errors, saturated to 32 bits to gD. The engine serves n, the context's registers stay but gD, and nothing but what is named changes. -/
def Obligations.EngineOperations : Prop :=
  ∀ (s : State) (c k x n : Nat) (w : CellWord) (ks : List Nat),
    let v := ctxOf s c k x
    let q := cellOf s c k
    let p := (taskOf s n).part
    let ga := (v.reg w.a).toNat
    let gb := (v.reg w.b).toNat
    let gd := (v.reg w.d).toNat
    let word (i : Nat) : Nat := leNat (((ks.drop (8 * i)).take 8).map (peek s))
    let shut (w : Sweep) : Sweep := { w with openRows := false }
    let blk (o i : Nat) : Block :=
      { first := bits (word (2 * i)) 31 0, count := bits (word (2 * i)) 36 32, pin := bitAt (word (2 * i)) 37,
        wtag := bits (word (2 * i)) 43 40, wbase := bits (word (2 * i)) 63 48 + bits (word (2 * i + 1)) 31 0 * 2 ^ 16,
        wstride := bits (word (2 * i + 1)) 63 32, sweep := o }
    v.pc ≠ 2047 → Engages s c k x n →
    (Fetches s c k x 0x30 w → q.builds.length < 4 → ga % 2 = 0 → Completes (exec (.opBuild c k x) s) fun t => StepsOn s t c k x ∧
      (cellOf t c k).engOwner = some n ∧
      (cellOf t c k).builds = q.builds ++ [
      { ord := q.ord, x := x, task := n, pc := v.pc, src := bits ga 47 0, base := bits gb 8 0, set := bits gb 9 9,
        count := bits gb 20 10 + 1, first := bits gb 36 21, offs := bits gd 47 0, sgrp := bits gd 49 48, nooff := bitAt gd 50,
        atag := bits w.imm 3 0, mode := bits w.imm 5 4, pfmt := bits w.imm 9 6 }] ∧
      SameCell (fun v => { v with engOwner := none, ord := 0, builds := [] }) s t c k) ∧
    (Fetches s c k x 0x31 w → q.pend = none → bits ga 29 27 ≤ 4 → gb % 8 = 0 → gb < 2 ^ 48 → Clean s (.cell c k) p none gb 48 ks →
      Completes (exec (.opSweep c k x) s) fun t => StepsOn s t c k x ∧ (cellOf t c k).engOwner = some n ∧
      (cellOf t c k).pend = some
      { ord := q.ord, x := x, task := n, pc := v.pc, idx := q.sweeps, base := bits ga 8 0, set := bits ga 9 9,
        count := bits ga 18 10 + 1, tokens := bits ga 22 19 + 1, wtag := bits ga 26 23, wout := bits ga 29 27, steal := bitAt ga 30,
        adig := bits ga 31 31, outBase := bits (word 0) 47 0, rowStride := sext 32 (bits (word 1) 31 0),
        tokStride := sext 32 (bits (word 1) 63 32), tagBase := bits (word 2) 31 0, cstBase := bits (word 2) 45 32,
        foldC := sext 8 (bits (word 2) 53 46), iscale := bits (word 3) 47 0, isStride := bits (word 4) 31 0,
        osu := bits (word 4) 47 32, oscale := bits (word 5) 47 0 } ∧
      (cellOf t c k).run = q.run.map shut ∧
      SameCell (fun v => { v with engOwner := none, ord := 0, sweeps := 0, run := none, pend := none }) s t c k) ∧
    (Fetches s c k x 0x32 w → Completes (exec (.opFence c k x) s) fun t => StepsOn s t c k x ∧ (cellOf t c k).engOwner = some n ∧
      (cellOf t c k).fences = q.fences ++ [{ ord := q.ord, x := x, task := n, wtag := bits w.imm 3 0, adig := bits w.imm 4 4 }] ∧
      SameCell (fun v => { v with engOwner := none, ord := 0, fences := [] }) s t c k) ∧
    (∀ sw m, Fetches s c k x 0x33 w → (q.pend = some sw ∨ (q.pend = none ∧ q.run = some sw)) → sw.openRows = true → sw.task = n →
      ga % 16 = 0 → ga < 2 ^ 48 → m = min (32 - q.rq.length) (w.imm % 64 - v.pushed) →
      Clean s (.cell c k) p none (ga + 16 * v.pushed) (16 * m) ks → Completes (exec (.opRqpush c k x) s) fun t =>
        (cellOf t c k).engOwner = some n ∧ (cellOf t c k).rq = q.rq ++ (List.range m).map (blk sw.ord) ∧
        SameCell (fun v => { v with engOwner := none, rq := [], run := none, pend := none }) s t c k ∧
        (v.pushed + m = w.imm % 64 → StepsOn s t c k x ∧
          (bitAt w.imm 6 = false → (cellOf t c k).pend = q.pend ∧ (cellOf t c k).run = q.run) ∧
          (bitAt w.imm 6 = true → (cellOf t c k).pend = q.pend.map shut ∧
            (cellOf t c k).run = if q.pend.isSome then q.run else q.run.map shut)) ∧
        (v.pushed + m ≠ w.imm % 64 → OnlyCell s t c k ∧ (cellOf t c k).pend = q.pend ∧ (cellOf t c k).run = q.run ∧
          ctxOf t c k x = { v with pushed := v.pushed + m, st := .waitEngine, step := v.step && v.within })) ∧
    (∀ kv e, Fetches s c k x 0x34 w → ga % 2 = 0 → ga < 2 ^ 48 → Clean s (.cell c k) p none ga 32 ks →
      convCodebook ((List.range 16).map fun i => leNat (((ks.drop (2 * i)).take 2).map (peek s))) = some (kv, e) →
      Completes (exec (.opCbload c k x) s) fun t => StepsOn s { t with clus := s.clus } c k x ∧
        (cellOf t c k).engOwner = some n ∧ (cellOf t c k).cb = some { k := kv, e := e } ∧
        SameCell (fun v => { v with engOwner := none, cb := none }) s t c k ∧
        (∀ o, o ≠ Reg.QNT_CB_MAXERR → creg t c o = creg s c o) ∧ creg s c Reg.QNT_CB_MAXERR ≤ creg t c Reg.QNT_CB_MAXERR ∧
        { clu t c with regs := [] } = { clu s c with regs := [] } ∧ ∀ d, d ≠ c → clu t d = clu s d) ∧
    (Fetches s c k x 0x35 w → q.run = none → q.pend = none → mget 0 q.accEcc (16 * (ga % 64) + w.imm % 16) = 0 →
      Completes (exec (.opAccrd c k x) s) fun t =>
        let a := mget 0 q.acc (16 * (ga % 64) + w.imm % 16)
        OnlyCell s t c k ∧ (cellOf t c k).engOwner = some n ∧ SameCell (fun v => { v with engOwner := none }) s t c k ∧
        RegLate s t c k x w.d (BitVec.ofInt 64 (max (-(2 ^ 31)) (min (2 ^ 31 - 1) a))) ∧
        (ctxOf t c k x).pc = v.pc + 1 ∧ (ctxOf t c k x).st = .ready ∧ ∀ y, y ≠ x → ctxOf t c k y = ctxOf s c k y)

/-- A context that stands at a permitted, written word: BUILD, SWEEP, FENCE, RQPUSH, CBLOAD and ACCRD wait while a GIVE of the context is unacknowledged or the
engine serves another task, BUILD also while the issue queue of 4 is full, SWEEP while a sweep is pending, RQPUSH while the row queue of 32 is full, ACCRD while a sweep
runs or is pending; QPUSH waits on a GIVE and a queue of 8 jobs. Nothing changes, and the context shows WAIT_ENGINE (3). END and SIG wait on a GIVE in WAIT_SYNC (4; the
states shown on a GIVE are the model's choice, log 67). A context whose next word reads a register that a result is on its way to shows WAIT_MEM (2) and issues nothing; an event of it
stands for the results' return (the model's choice, log 61): those registers take them, and nothing else changes. -/
def Obligations.EngineWaits : Prop :=
  ∀ (s : State) (c k x n : Nat) (i : Nat → Nat → Nat → Instr),
    let v := ctxOf s c k x
    let q := cellOf s c k
    let w := cellWord (mget 0 q.pm v.pc)
    let late := ∃ r, r ∈ readsOf w ∧ (mget none v.late r).isSome = true
    i ∈ cellCommands → c < 96 → k < 32 → x < 4 → cellRuns s c k = true → v.task = some n → v.st = .ready → v.arrived = false → v.pushed = 0 →
    (v.halt = true → v.step = true) → mget false q.pmw v.pc = true → mget 0 q.pmEcc v.pc ≠ 2 → wordOk w = true →
    (¬ late → w.op ∈ [0x30, 0x31, 0x32, 0x33, 0x34, 0x35] →
      gives s c k x = true ∨ (∃ m, q.engOwner = some m ∧ m ≠ n) ∨ (w.op = 0x30 ∧ 4 ≤ q.builds.length) ∨
        (w.op = 0x31 ∧ q.pend.isSome = true) ∨ (w.op = 0x33 ∧ 32 ≤ q.rq.length) ∨
        (w.op = 0x35 ∧ (q.run.isSome = true ∨ q.pend.isSome = true)) →
      exec (i c k x) s = .next s ∧ ctxCode s c k x = 3) ∧
    (¬ late → w.op = 0x36 → gives s c k x = true ∨ 8 ≤ (clu s c).qq.length → exec (i c k x) s = .next s ∧ ctxCode s c k x = 3) ∧
    (¬ late → w.op = 0x01 ∨ w.op = 0x41 → gives s c k x = true → exec (i c k x) s = .next s ∧ ctxCode s c k x = 4) ∧
    (late → ctxCode s c k x = 2 ∧ Completes (exec (i c k x) s) fun t => OnlyCtx s t c k x ∧ (cellOf t c k).cnt = q.cnt ∧
      (cellOf t c k).last = q.last ∧ { ctxOf t c k x with g := [], late := [] } = { v with g := [], late := [] } ∧
      (∀ j, mget none (ctxOf t c k x).late j = none) ∧
      ∀ j, j < 32 → (ctxOf t c k x).reg j = if j = 0 then 0 else (mget none v.late j).getD (v.reg j))

/-- When a context whose gives are acknowledged issues QPUSH with a descriptor at a multiple of 8 and the quantizer's queue of 8 has room: bit 7 of the
result record's first byte becomes 0 and no other byte changes, the job is last in the queue with its task and context, WAIT 4 refers to that record, and
the context goes on. -/
def Obligations.QuantizerPush : Prop :=
  ∀ (s : State) (c k x n r : Nat) (w : CellWord) (ks : List Nat),
    let v := ctxOf s c k x
    let a := (v.reg w.a).toNat
    let p := (taskOf s n).part
    let res := leNat (ks.map (peek s)) % 2 ^ 48
    Fetches s c k x 0x36 w → v.task = some n → gives s c k x = false → v.pc ≠ 2047 →
    a % 8 = 0 → a < 2 ^ 48 → Clean s (.vec c) p none (a + 48) 8 ks → Clean s (.vec c) p none res 1 [r] →
    Completes (exec (.opQpush c k x) s) fun t => StepsOn s { t with mem := s.mem, clus := s.clus } c k x ∧
      Stored s t [r] [peek s r &&& 0x7F#8] ∧ (ctxOf t c k x).qrec = some res ∧
      clu t c = { clu s c with qq := (clu s c).qq ++ [{ addr := a, task := some n, ctx := some (4 * (32 * c + k) + x) }] } ∧
      ∀ d, d ≠ c → clu t d = clu s d

/-- BUILD_START with the cell's cluster on and the cell not frozen takes the oldest build. While a sweep issued before it reads its set, the build stays, and every
tick of an empty queue adds the cell cycles of 40 ns to BUILD_WAIT. Otherwise, when its operands are permitted and its activations (and, without NOOFF, its scale row, whose exponent halves agree) are read without error, slots
base to base + n - 1 of its set hold the slots of its activations, every other slot and the rest of the cell stay, but for its counts, codebooks and engine claim; nothing outside
the cell changes. -/
def Obligations.BuildStarts : Prop :=
  ∀ (s : State) (c k : Nat) (b : BuildJob) (r : List BuildJob) (ks hs os : List Nat),
    let q := cellOf s c k
    let p := (taskOf s b.task).part
    let fm := if b.atag = 4 then Fmt.i4 else Fmt.i8
    let byte (l : List Nat) (i : Nat) : Byte := (l.map (peek s)).getD i 0
    let held (w : Sweep) : Prop := w.set = b.set ∧ w.ord < b.ord
    let groups := (b.first + b.count - 1) / (32 * 2 ^ b.sgrp) + 1
    c < 96 → k < 32 → q.builds = b :: r → (clu s c).pw = .on → q.frozen = false →
    ((∃ w ∈ q.run.toList ++ q.pend.toList, held w) → exec (.buildStart c k) s = .next s ∧
      (25 ≤ (clu s c).cellMHz → s.pending = [] → Completes (step s) fun t =>
        mget 0 (cellOf t c k).cnt 5 = min (2 ^ 32 - 1) (mget 0 q.cnt 5 + (clu s c).cellMHz / 25))) ∧
    ((∀ w ∈ q.run.toList ++ q.pend.toList, ¬ held w) → (b.atag = 4 ∨ b.atag = 7) → b.first % 4 = 0 → (b.sgrp = 3 → b.nooff = true) →
      b.base + buildSlots b ≤ 512 → (b.mode = 2 → b.pfmt = 5 ∨ b.pfmt = 6 ∨ (b.pfmt = 14 ∧ q.cb.isSome = true)) →
      Clean s (.cell c k) p none b.src (packedBytes fm b.count) ks →
      (b.nooff = false → Clean s (.cell c k) p none b.offs 2 hs ∧ (byte hs 1).toNat = 255 - (byte hs 0).toNat ∧
        Clean s (.cell c k) p none (b.offs + 2) (3 * cdiv groups 8) os) →
      Completes (exec (.buildStart c k) s) fun t => OnlyCell s t c k ∧ (cellOf t c k).builds = r ∧
        (∀ i, mget {} (cellOf t c k).slots (512 * b.set + b.base + i) = if i < buildSlots b then
            buildSlot b fm ((fmtOf b.pfmt).getD .l4) ((q.cb.map fun b => b.k).getD []) (codeAt fm (byte ks))
              (fun g => if b.nooff then 0 else offAt (byte os) g) i
          else mget {} q.slots (512 * b.set + b.base + i)) ∧
        (∀ i, i < 512 * b.set + b.base → mget {} (cellOf t c k).slots i = mget {} q.slots i) ∧
        SameCell (fun v => { v with builds := [], slots := [], setCb := [], engOwner := none, sweeps := 0 }) s t c k)

/-- Slot i of a build holds 16 entries. In group mode SUBSET entry m is the sum of the digits whose bit of m is 1; in SIGNED mode the sum of the
four digits, each negated where its bit of m is 1; in product mode entry m is the activation times the value of weight code m. The slot's zero mark says that its digits, or its
activation, are all 0, and then every entry is 0. -/
def Obligations.TableEntries : Prop :=
  ∀ (b : BuildJob) (fm pf : Fmt) (kv : List Int) (act off : Nat → Nat) (i m : Nat), m < 16 →
    let sl := buildSlot b fm pf kv act off i
    let d := if b.atag = 7 then 2 else 1
    let x (j : Nat) : Int :=
      if 4 * (i / d) + j < b.count then digit fm (act (4 * (i / d) + j)) (if d = 1 then 0 else i % d) else 0
    let a : Int := if i < b.count then codeInt fm (act i) else 0
    let pick (j : Nat) : Int := if m.testBit j then x j else 0
    let sign (j : Nat) : Int := if m.testBit j then -x j else x j
    sl.t.length = 16 ∧ sl.built = true ∧
    (b.mode = 0 → sl.t.getD m 0 = pick 0 + pick 1 + pick 2 + pick 3 ∧ (sl.z = true ↔ ∀ j, j < 4 → x j = 0)) ∧
    (b.mode = 1 → sl.t.getD m 0 = sign 0 + sign 1 + sign 2 + sign 3 ∧ (sl.z = true ↔ ∀ j, j < 4 → x j = 0)) ∧
    (b.mode = 2 → sl.t.getD m 0 = a * (if pf = .c4 then kv.getD m 0 else codeInt pf m) ∧ (sl.z = true ↔ a = 0)) ∧
    (sl.z = true → sl.t.getD m 0 = 0)

/-- For every weight format that a group table serves, a row of n = 4G codes w and activation codes whose slots are the group tables of their digits, with a group offset for each: the sum of the
issued look-ups, the zero ones skipped, equals the sum of all of them, and equals the sum over the row of weight value times activation value times 2^offset; in product mode
likewise for L4, F4 (values doubled) and C4. An escape in either vector counts as 0. -/
def Obligations.LookupsAreDotProduct : Prop :=
  (∀ (b : BuildJob) (f fm : Fmt) (G : Nat) (act off w : Nat → Nat), f ∈ [Fmt.b1, .t2, .i2, .i3, .i4] → (fm = .i4 ∧ b.atag = 4 ∨ fm = .i8 ∧ b.atag = 7) →
    b.count = 4 * G → b.mode = (if f = .b1 then 1 else 0) → (∀ i, act i < 2 ^ fmtBits fm ∧ w i < 2 ^ fmtBits f) →
    let d := if b.atag = 7 then 2 else 1
    let ls := rowLooks f d (d * G) (buildSlot b fm .l4 [] act off) w
    lookSum ls = lookSumAll ls ∧
    lookSum ls = ((List.range (4 * G)).map fun j => codeInt f (w j) * codeInt fm (act j) * 2 ^ off ((b.first + 4 * (j / 4)) / (32 * 2 ^ b.sgrp))).sum) ∧
  (∀ (b : BuildJob) (f fm : Fmt) (kv : List Int) (n : Nat) (act off w : Nat → Nat), f ∈ [Fmt.l4, .f4, .c4] → (fm = .i4 ∨ fm = .i8) →
    b.count = n → b.mode = 2 → (∀ i, w i < 16) →
    let ls := rowLooks f (if b.atag = 7 then 2 else 1) n (buildSlot b fm f kv act off) w
    lookSum ls = lookSumAll ls ∧
    lookSum ls = ((List.range n).map fun j => (if f = .c4 then kv.getD (w j) 0 else codeInt f (w j)) * codeInt fm (act j) *
      2 ^ off ((b.first + j) / (32 * 2 ^ b.sgrp))).sum)

/-- SWEEP_START with no sweep running, no fence before it and its cluster on runs the pending sweep when its tags, slots and write-out settings are permitted and its token exponents are read without error. SWEEP_COMPLETE
ends the running sweep once its row set is closed, no block of it is queued, held or open and its search for blocks has ended. FENCE_COMPLETE
sets CUR_TAG to the fence's tag and format once no sweep before it is left and nothing is held. Nothing outside the cell changes, and inside it only what is named and the engine's claim. -/
def Obligations.SweepsAndFences : Prop :=
  ∀ (s : State) (c k : Nat), c < 96 → k < 32 →
    let q := cellOf s c k
    (∀ (w : Sweep) (f : Fmt) (es : List Int), q.pend = some w → q.run = none → q.frozen = false → (clu s c).pw = .on →
      (∀ b ∈ q.fences, w.ord ≤ b.ord) → fmtOf w.wtag = some f → isWeight f = true → w.base + w.count ≤ 512 → w.count % w.tokens = 0 →
      (w.adig = 1 → wmode f ≠ 2 → w.count / w.tokens % 2 = 0) → w.wtag = q.curWtag → w.adig = q.curAdig →
      (∀ i, i < w.count → (mget {} q.slots (512 * w.set + w.base + i)).built = true) → woutOk w = true →
      (w.wout < 2 → es = []) → (2 ≤ w.wout → es.length = w.tokens ∧ ∀ i, i < w.tokens → ∃ k0 k1,
        Clean s (.cell c k) (taskOf s w.task).part none (w.iscale + i * w.isStride) 2 [k0, k1] ∧ expOf (peek s k0) (peek s k1) = es[i]?) →
      exec (.sweepStart c k) s = .next (modCell c k (fun v => { v with run := some { w with et := es }, pend := none }) s)) ∧
    (∀ w, q.run = some w → w.openRows = false → (∀ b ∈ q.rq, b.sweep ≠ w.ord) → q.opened = [] →
      (∀ l r, l < 64 → mget none q.lanes l = some r → r.sweep ≠ w.ord) → (w.steal = true → q.quiet = true ∨ w.searchDone = true) →
      q.tongue = none → (∀ g ∈ s.given, g.thief = 32 * c + k → g.blk = none) →
      Completes (exec (.sweepComplete c k) s) fun t => OnlyCell s t c k ∧ (cellOf t c k).run = none ∧
        { cellOf t c k with run := none, engOwner := none, sweeps := 0 } = { q with run := none, engOwner := none, sweeps := 0 }) ∧
    (∀ f r, q.fences = f :: r → q.run = none → (∀ w, q.pend = some w → f.ord ≤ w.ord) → q.opened = [] →
      (∀ l, l < 64 → mget none q.lanes l = none) →
      Completes (exec (.fenceComplete c k) s) fun t => OnlyCell s t c k ∧ (cellOf t c k).fences = r ∧
        (cellOf t c k).curWtag = f.wtag ∧ (cellOf t c k).curAdig = f.adig ∧
        { cellOf t c k with fences := [], curWtag := 0, curAdig := 0, engOwner := none, sweeps := 0 } =
          { q with fences := [], curWtag := 0, curAdig := 0, engOwner := none, sweeps := 0 })

/-- With the cluster on, the cell not frozen and its stream engine neither frozen nor halted: BLOCK_STAGED reads the rows of the first block that is not staged, at most two ahead,
and nothing else changes but the engine's count of grants. LANE_TAKE_ROW hands the first row of the running sweep to the lowest idle lane of a group that has been handed no row in the cycle,
whose accumulators hold the 48-bit sums of the row's look-ups; the other lanes and the slots stay. ROW_RETIRE moves a lane's sums to its block; the last row of a
block of one row and one token releases it, and I32 stores the sum saturated to 32 bits at the row's address. No slot, accumulator or queued row is in error. -/
def Obligations.RowsFlow : Prop :=
  ∀ (s : State) (c k : Nat), c < 96 → k < 32 →
    let q := cellOf s c k
    (∀ (i : Nat) (w : Sweep) (f : Fmt) (b : Block) (ks : Nat → List Nat), q.frozen = false → (clu s c).pw = .on →
      strFrozen s c (k / 16) = false → (creg s c (strReg (k / 16) Reg.STR_CTRL)).testBit 0 = false →
      nextToStage q = some i → q.rq[i]? = some b →
      q.sweepAt b.sweep = some w → fmtOf w.wtag = some f → 1 ≤ b.count → b.count ≤ 16 → b.first % 16 = 0 → b.wtag = w.wtag →
      (∀ a ∈ stageAddrs b w, bulkDown s (taskOf s w.task).part a = false) →
      (∀ j, j < b.count → Clean s (.str c (k / 16)) (taskOf s w.task).part (some (ownCell k)) (b.wbase + j * b.wstride) (rowBytes w f) (ks j)) →
      Completes (exec (.blockStaged c k) s) fun t => OnlyCell s { t with clus := s.clus } c k ∧
        (cellOf t c k).rq = q.rq.set i { b with staged := some ((List.range b.count).flatMap fun j => (ks j).map (peek s)) } ∧
        { cellOf t c k with rq := [], ldGot := 0 } = { q with rq := [], ldGot := 0 } ∧ (cellOf t c k).ldGot = 0 ∧
        (∀ d, d ≠ c → clu t d = clu s d) ∧ { clu t c with regs := [] } = { clu s c with regs := [] } ∧
        ∀ o, o ≠ strReg (k / 16) Reg.STR_GRANTS → creg t c o = creg s c o) ∧
    (∀ (i lane : Nat) (same : Bool) (w : Sweep) (f : Fmt) (b : Block) (l : List Byte), q.frozen = false → (clu s c).pw = .on → q.run = some w →
      fmtOf w.wtag = some f → q.rq[i]? = some b → b.sweep = w.ord → (∀ j r, j < i → q.rq[j]? = some r → r.sweep ≠ w.ord) →
      b.staged = some l → b.ecc = 0 → lane < 64 → mget none q.lanes lane = none → (same = true → lane / 16 ∉ q.took) →
      (∀ j, j < lane → (mget none q.lanes j).isSome = true ∨ (same = true ∧ j / 16 ∈ q.took)) → q.builds = [] →
      (b.taken = 0 → blockOk w b = true ∧ w.tagBase ≤ b.first ∧ q.opened.length < 8) →
      (∀ j, j < w.count → let sl := mget {} q.slots (512 * w.set + w.base + j); sl.ecc = 0 ∧ slotMatches w f sl = true) →
      let no := if b.taken = 0 then q.opens else b.no
      Completes (exec (.laneTakeRow c k same) s) fun t => OnlyCell s t c k ∧ (cellOf t c k).slots = q.slots ∧
        (cellOf t c k).took = lane / 16 :: (if same then q.took else []) ∧
        (∀ j, mget none (cellOf t c k).lanes j = if j = lane then
          some { sweep := w.ord, block := no, tag := b.first + b.taken, tokens := w.tokens } else mget none q.lanes j) ∧
        (cellOf t c k).opened = (if b.taken = 0 then q.opened ++ [{ blk := { b with no := no, staged := none } }] else q.opened) ∧
        (∀ j, j < w.tokens → mget 0 (cellOf t c k).acc (16 * lane + j) =
          hold48 (lookSum ((blockLooks q w f l b.taken).getD j []))) ∧
        (∀ j, (j < 16 * lane ∨ 16 * lane + w.tokens ≤ j) → mget 0 (cellOf t c k).acc j = mget 0 q.acc j) ∧
        (b.taken + 1 = b.count → (cellOf t c k).rq = q.rq.eraseIdx i) ∧
        (b.taken + 1 ≠ b.count → (cellOf t c k).rq = q.rq.set i { b with taken := b.taken + 1, no := no })) ∧
    (∀ (l : Nat) (r : LaneRow) (w : Sweep) (o : OpenBlock), l < 64 → mget none q.lanes l = some r → q.run = some w → q.opened = [o] →
      o.blk.no = r.block → o.ecc = 0 → (∀ j, j < r.tokens → mget 0 q.accEcc (16 * l + j) = 0) →
      let sums := (List.range r.tokens).map fun j => mget 0 q.acc (16 * l + j)
      let good := (List.range r.tokens).foldl (fun m j => merase m (16 * l + j)) q.accEcc
      ((mset [] o.rows r.tag sums).length < o.blk.count → exec (.rowRetire c k l) s = .next (modCell c k (fun v =>
        { v with lanes := mset none v.lanes l none, opened := [{ o with rows := mset [] o.rows r.tag sums }], accEcc := good }) s)) ∧
      (∀ ks f, o.rows = [] → o.blk.count = 1 → r.tag = o.blk.first → r.tokens = 1 → w.tokens = 1 → w.wout = 1 → fmtOf w.wtag = some f →
        Clean s (.cell c k) (taskOf s w.task).part none
          (toBits 48 ((w.outBase : Int) + (Int.ofNat r.tag - w.tagBase) * w.rowStride)) 4 ks →
        Completes (exec (.rowRetire c k l) s) fun t => OnlyCell s { t with mem := s.mem } c k ∧
          Stored s t ks (leBytes 4 (toBits 32 (max (-(2 ^ 31)) (min (2 ^ 31 - 1) (mget 0 q.acc (16 * l)))))) ∧
          { cellOf t c k with cnt := [] } = { q with cnt := [], lanes := mset none q.lanes l none, opened := [], accEcc := good }))

/-- TONGUE_REQUEST: a cell that may steal, has no row left and asks nobody takes a returned block of its sweep from the pool; with none there, it asks the first cell after it in its cluster,
in ring order, that runs the sweep and was not tried, and counts; with every victim tried, its search ends. TONGUE_ANSWER: a victim that still
runs the sweep with at least two unstarted blocks gives the last, unpinned and with no staging begun, out of its queue, and counts; with fewer than two it
refuses. STOLEN_BLOCK_RECEIVE: the thief queues a given block as its own, or notes a refusal. Nothing but what is named changes. -/
def Obligations.TonguesSteal : Prop :=
  ∀ (s : State) (c k : Nat) (w : Sweep), c < 96 → k < 32 → (cellOf s c k).run = some w →
    let q := cellOf s c k
    let me := 32 * c + k
    let count (i : Nat) (v : Cell) : Cell := { v with cnt := mset 0 v.cnt i (min (2 ^ 32 - 1) (mget 0 v.cnt i + 1)) }
    let idle : Prop := w.steal = true ∧ w.openRows = false ∧ w.searchDone = false ∧ q.tongue = none ∧ q.quiet = false ∧ q.frozen = false ∧
      (clu s c).pw = .on ∧ ∀ b ∈ q.rq, b.sweep ≠ w.ord
    let pooled (b : PoolBlock) : Prop := b.task = w.task ∧ b.idx = w.idx
    let nth (i : Nat) : Nat := 32 * c + (k + 1 + i) % 32
    let asks (i : Nat) : Prop := runsSweep s (nth i) w.task w.idx = true ∧ nth i ∉ w.tried
    (∀ l b r, idle → s.pool = l ++ b :: r → pooled b → (∀ x ∈ l, ¬ pooled x) →
      exec (.tongueRequest c k) s = .next { s with pool := l ++ r, given := s.given ++ [{ thief := me, blk := some b.blk }] }) ∧
    (∀ i, idle → (∀ b ∈ s.pool, ¬ pooled b) → i < 31 → asks i → (∀ j, j < i → ¬ asks j) →
      exec (.tongueRequest c k) s = .next (modCell c k (fun v => count 8 { v with tongue := some (nth i) }) s)) ∧
    (idle → (∀ b ∈ s.pool, ¬ pooled b) → (∀ n ∈ victims s c k w, n ∈ w.tried) →
      exec (.tongueRequest c k) s = .next (modCell c k (fun v => { v with run := some { w with searchDone := true } }) s)) ∧
    (∀ d j x b l r, q.tongue = some (32 * d + j) → d < 96 → j < 32 → (d, j) ≠ (c, k) → (∀ g ∈ s.given, g.thief ≠ me) →
      runsSweep s (32 * d + j) w.task w.idx = true → (cellOf s d j).run = some x →
      (2 ≤ (unstarted (cellOf s d j)).length → x.steal = true → (cellOf s d j).rq = l ++ b :: r → b.sweep = x.ord → b.taken = 0 →
        (∀ y ∈ r, ¬ (y.sweep = x.ord ∧ y.taken = 0)) → b.pin = false → b.staged = none → (cellOf s d j).ldGot = 0 →
        exec (.tongueAnswer c k) s = .next { modCell d j (fun v => count 10 { v with rq := l ++ r }) s with
          given := s.given ++ [{ thief := me, blk := some b }] }) ∧
      ((unstarted (cellOf s d j)).length < 2 →
        exec (.tongueAnswer c k) s = .next { s with given := s.given ++ [{ thief := me, blk := none }] })) ∧
    (∀ l g r, s.given = l ++ g :: r → g.thief = me → (∀ x ∈ l, x.thief ≠ me) → (∀ n, q.tongue = some n → n < 4096) →
      (∀ b, g.blk = some b → q.rq.length < 32 → exec (.stolenBlockReceive c k) s = .next (modCell c k (fun v =>
        count 9 { v with tongue := none, rq := v.rq ++ [{ b with sweep := w.ord, staged := none, taken := 0, ecc := 0 }],
                         run := some { w with tried := [], searchDone := false } }) { s with given := l ++ r })) ∧
      (g.blk = none → exec (.stolenBlockReceive c k) s = .next (modCell c k (fun v =>
        { v with tongue := none, run := some { w with tried := w.tried ++ q.tongue.toList } }) { s with given := l ++ r })))

/-- CHORUS_SEGMENT on a cluster that is on and a cell with every context free and no engine work writes the next segment's words, not marked as written, the way having changed `flip` in the first.
CHORUS_CRC_REPORT marks the words as written and records the image when the CRC of the words in the program memory is the segment's; else LUT_ERR.CHORUS_MISMATCH is set and the segment is sent
again, at most twice; after the third mismatch the chorus of its command ends for the cell. No other word of program memory and nothing outside the cell's program memory and the chorus changes. -/
def Obligations.ChorusSegments : Prop :=
  ∀ (s : State) (c k flip : Nat) (l r : List ChorusJob) (j : ChorusJob), c < 96 → k < 32 →
    let q := cellOf s c k
    let other (x : ChorusJob) : Prop := ¬ (x.clu = c ∧ x.cell = k)
    let words : List W64 := (List.range j.seg.words.length).map fun i => mget 0 q.pm (j.seg.base + i)
    let mine (a : Nat) : Prop := j.seg.base ≤ a ∧ a < j.seg.base + j.seg.words.length
    s.chorus = l ++ j :: r → (∀ x ∈ l, other x) → j.clu = c → j.cell = k →
    (j.sent = false → (clu s c).pw = .on → (∀ x, x < 4 → (ctxOf s c k x).st = .free ∧ (ctxOf s c k x).task = none) → q.engOwner = none →
      Completes (exec (.chorusSegment c k flip) s) fun t => OnlyCell s { t with chorus := s.chorus } c k ∧
        t.chorus = l ++ { j with sent := true } :: r ∧
        { cellOf t c k with pm := [], pmw := [], pmEcc := [] } = { q with pm := [], pmw := [], pmEcc := [] } ∧
        (∀ i, i < j.seg.words.length → mget 0 (cellOf t c k).pm (j.seg.base + i) =
          (if i = 0 then j.seg.words.getD i 0 ^^^ BitVec.ofNat 64 flip else j.seg.words.getD i 0) ∧
          mget false (cellOf t c k).pmw (j.seg.base + i) = false) ∧
        ∀ a, ¬ mine a → mget 0 (cellOf t c k).pm a = mget 0 q.pm a ∧ mget false (cellOf t c k).pmw a = mget false q.pmw a) ∧
    (j.sent = true →
      (wordsCrc words = j.seg.crc → Completes (exec (.chorusCrcReport c k) s) fun t => OnlyCell s { t with chorus := s.chorus } c k ∧
        t.chorus = l ++ r ∧ (cellOf t c k).imageId = j.seg.id ∧
        { cellOf t c k with pmw := [], imageId := 0, pmFix := [] } = { q with pmw := [], imageId := 0, pmFix := [] } ∧
        (∀ a, mine a → mget false (cellOf t c k).pmw a = true) ∧
        ∀ a, ¬ mine a → mget false (cellOf t c k).pmw a = mget false q.pmw a) ∧
      (wordsCrc words ≠ j.seg.crc → j.tries < 2 → exec (.chorusCrcReport c k) s =
        .next { modCell c k (fun v => { v with err := mset false v.err 3 true }) s with
          chorus := l ++ { j with sent := false, tries := j.tries + 1 } :: r }) ∧
      (wordsCrc words ≠ j.seg.crc → 2 ≤ j.tries → Completes (exec (.chorusCrcReport c k) s) fun t =>
        mget false (cellOf t c k).err 3 = true ∧ (∀ a, mget false (cellOf t c k).pmw a = mget false q.pmw a) ∧
        (∀ x ∈ t.chorus, ¬ (x.clu = c ∧ x.cell = k ∧ x.cmd = j.cmd)) ∧ t.mem = s.mem))

/-- A write of the host at expert level to the cell that LUT_SEL selects: LUT_CTX_CTRL sets the HALT bits to v[3:0] and, with a STEP bit, lets a context that is then halted
issue one instruction; a general register, program counter or program word takes the value while its context (for a program word, no context) runs,
g0 staying 0 and a program word becoming written and error-free; while one runs the write is a QUIET violation that freezes the host function; LUT_ERR bits written as 1 are cleared, FAULT with
LUT_FAULT. With no cell selected, or where no partition answers, nothing changes. -/
def Obligations.LutRegisterWrites : Prop :=
  ∀ (s : State) (p x i v c k : Nat), HostWrites s p → x < 4 → i < 32 →
    let q := cellOf s c k
    let runs (y : Nat) : Prop := (ctxOf s c k y).task.isSome = true ∧ (ctxOf s c k y).halted = false
    let only (f : Cell → Cell) (t : State) : Prop := OnlyCell s t c k ∧ f (cellOf t c k) = f q
    (selCell s p = none → exec (.lutCtxHalt p v) s = .next s ∧ exec (.lutCtxStep p v) s = .next s ∧
      exec (.lutGregWrite p x i v) s = .next s ∧ exec (.lutCtxPcWrite p x v) s = .next s ∧ exec (.lutFaultClear p v) s = .next s ∧
      ∀ n, n < 2048 → exec (.lutPmWrite p n v) s = .next s) ∧
    (selCell s p = some (c, k) →
      (Completes (exec (.lutCtxHalt p v) s) fun t => only (fun v => { v with ctx := [] }) t ∧
        (∀ y, y < 4 → ctxOf t c k y = { ctxOf s c k y with halt := v.testBit y }) ∧ ∀ y, 4 ≤ y → ctxOf t c k y = ctxOf s c k y) ∧
      (Completes (exec (.lutCtxStep p v) s) fun t => only (fun v => { v with ctx := [] }) t ∧ ∀ y, y < 4 →
        let z := { ctxOf s c k y with halt := v.testBit y }
        ctxOf t c k y = if v.testBit (4 + y) = true ∧ z.halted = true then { z with step := true } else z) ∧
      (¬ runs x → Completes (exec (.lutGregWrite p x i v) s) fun t => only (fun v => { v with ctx := [] }) t ∧
        (∀ y, y ≠ x → ctxOf t c k y = ctxOf s c k y) ∧ { ctxOf t c k x with g := [], late := [] } = { ctxOf s c k x with g := [], late := [] } ∧
        RegSet s t c k x i (BitVec.ofNat 64 v)) ∧
      (¬ runs x → exec (.lutCtxPcWrite p x v) s = .next (modCtx c k x (fun y => { y with pc := v % 2048 }) s)) ∧
      (∀ n, n < 2048 → (∀ y, y < 4 → ¬ runs y) → Completes (exec (.lutPmWrite p n v) s) fun t =>
        only (fun v => { v with pm := [], pmw := [], pmEcc := [] }) t ∧
        (∀ a, mget 0 (cellOf t c k).pm a = if a = n then BitVec.ofNat 64 v else mget 0 q.pm a) ∧
        (∀ a, mget false (cellOf t c k).pmw a = if a = n then true else mget false q.pmw a) ∧
        ∀ a, mget 0 (cellOf t c k).pmEcc a = if a = n then 0 else mget 0 q.pmEcc a) ∧
      (runs x → exec (.lutGregWrite p x i v) s = .next (freezeHost p 2 (0x60100 + 0x100 * x + 8 * i) s) ∧
        exec (.lutCtxPcWrite p x v) s = .next (freezeHost p 2 (0x60040 + 8 * x) s) ∧
        ∀ n, n < 2048 → exec (.lutPmWrite p n v) s = .next (freezeHost p 2 (0x68000 + 8 * n) s)) ∧
      (Completes (exec (.lutFaultClear p v) s) fun t => only (fun v => { v with err := [], flt := {} }) t ∧
        (∀ j, j < 4 → mget false (cellOf t c k).err j = if v.testBit j then false else mget false q.err j) ∧
        (cellOf t c k).flt = if v.testBit 0 then {} else q.flt))

/-- A read by the host at expert level of accumulator n of lane l of the selected cell answers 8 bytes: with no sweep running or pending, the 48-bit sum of an accumulator without error
saturated to 32 bits, the upper bytes 0, and counts in the cell a read that saturated; one with a corrected error is made good and counted first, and one in error answers a free number (log 72); while a sweep runs or is pending 0, and LUT_ERR.ACC_BUSY is set; 0 with no cell selected. At basic level the read
fails with no data; where the partition does not answer, nothing happens. Nothing else changes. -/
def Obligations.LutAccumulatorRead : Prop :=
  ∀ (s : State) (p l n c k : Nat), p < 16 → l < 64 → n < 16 →
    (mbxExists s p = false → exec (.lutAccRead p l n) s = .next s) ∧
    (mbxExists s p = true →
    let q := cellOf s c k
    let a : Int := mget 0 q.acc (16 * l + n)
    let b : Int := max (-(2 ^ 31)) (min (2 ^ 31 - 1) a)
    ((dreg s Reg.DEV_EXPERT).testBit p = false → Completes (exec (.lutAccRead p l n) s) fun t =>
      t.ans = (1, []) ∧ { t with ans := s.ans, mbx := s.mbx } = s ∧
      (∀ o, mreg t p o = if o = Reg.MBX_ERR then orBit (mreg s p o) 5 else mreg s p o) ∧
      { mbxOf t p with regs := [] } = { mbxOf s p with regs := [] } ∧ ∀ f, f ≠ p → mbxOf t f = mbxOf s f) ∧
    ((dreg s Reg.DEV_EXPERT).testBit p = true → selCell s p = none → exec (.lutAccRead p l n) s = .next { s with ans := (0, leBytes 8 0) }) ∧
    ((dreg s Reg.DEV_EXPERT).testBit p = true → selCell s p = some (c, k) →
      (q.run = none → q.pend = none → mget 0 q.accEcc (16 * l + n) = 0 → Completes (exec (.lutAccRead p l n) s) fun t =>
        t.ans = (0, leBytes 8 (b % 2 ^ 32).toNat) ∧ OnlyCell s { t with ans := s.ans } c k ∧
        { cellOf t c k with cnt := [] } = { q with cnt := [] } ∧
        ∀ i, mget 0 (cellOf t c k).cnt i =
          if i = 4 ∧ a ≠ b then min (2 ^ 32 - 1) (mget 0 q.cnt 4 + 1) else mget 0 q.cnt i) ∧
      (q.run = none → q.pend = none → mget 0 q.accEcc (16 * l + n) = 1 → c < 96 → Completes (exec (.lutAccRead p l n) s) fun t =>
        t.ans = (0, leBytes 8 (b % 2 ^ 32).toNat) ∧ OnlyCell s { t with ans := s.ans, clus := s.clus } c k ∧
        { cellOf t c k with cnt := [], accEcc := [] } = { q with cnt := [], accEcc := [] } ∧
        (∀ i, mget 0 (cellOf t c k).cnt i = if i = 4 ∧ a ≠ b then min (2 ^ 32 - 1) (mget 0 q.cnt 4 + 1) else mget 0 q.cnt i) ∧
        (∀ i, mget 0 (cellOf t c k).accEcc i = if i = 16 * l + n then 0 else mget 0 q.accEcc i) ∧ (∀ d, d ≠ c → clu t d = clu s d) ∧
        { clu t c with regs := [] } = { clu s c with regs := [] } ∧
        ∀ o, creg t c o = if o = Reg.BNK_SRAM_ECC then bump32 0 1 (creg s c o) else creg s c o) ∧
      (q.run = none → q.pend = none → mget 0 q.accEcc (16 * l + n) = 2 → Completes (exec (.lutAccRead p l n) s) fun t =>
        t.ans = (0, leBytes 8 (Config.freeNat s.fresh % 2 ^ 32)) ∧ t.fresh = s.fresh + 1 ∧
        { t with ans := s.ans, fresh := s.fresh, ueLog := s.ueLog, clus := s.clus, parts := s.parts } = s ∧
        t.ueLog = s.ueLog ++ [(2 ^ 53 + (32 * c + k) * 2 ^ 20, s.now)] ∧ (∀ d, d ≠ c → clu t d = clu s d) ∧ { clu t c with regs := [] } = { clu s c with regs := [] } ∧
        (∀ o, creg t c o = if o = Reg.BNK_SRAM_ECC then bump32 32 1 (creg s c o) else creg s c o) ∧ (∀ d, d ≠ p → part t d = part s d) ∧
        { part t p with regs := [] } = { part s p with regs := [] } ∧ ∀ o, preg t p o = if o = Reg.BNK_LAST_UE then 3 * 2 ^ 48 else preg s p o) ∧
      (q.run.isSome = true ∨ q.pend.isSome = true → Completes (exec (.lutAccRead p l n) s) fun t =>
        t.ans = (0, leBytes 8 0) ∧ OnlyCell s { t with ans := s.ans } c k ∧ { cellOf t c k with err := [] } = { q with err := [] } ∧
        ∀ i, mget false (cellOf t c k).err i = if i = 1 then true else mget false q.err i)))

/-- TASK_FAULT_STOP takes the first report, if there is one; the record of its task's request, if the request is open, is due with the report's status and detail, and no other, the request is done and none of its tasks starts any more; a word of program memory found uncorrectable is sent again from the partition's image (R189); the task is stopped on
every cluster where it has not ended. On every cluster where it was running it holds no context and no engine of a cell and no tokens, its dense, vector, gather, update and quantizer jobs and stream lists, queued or running, are
gone, and no DONE flag of it is still to be signalled. Other clusters and their cells, memory, banks, registers of management, mailboxes, links, other requests and partitions (but for their dispatch counts) are as before. -/
def Obligations.FaultStopsTask : Prop :=
  (∀ s : State, s.reports = [] → exec .taskFaultStop s = .next s) ∧
  ∀ (s : State) (q : Report) (rest : List Report), s.reports = q :: rest →
    let v := taskOf s q.task
    let r := reqOf s v.req
    Completes (exec .taskFaultStop s) fun t => t.reports = rest ∧ t.mem = s.mem ∧ t.banks = s.banks ∧ t.ecc = s.ecc ∧ t.dregs = s.dregs ∧
      t.mbx = s.mbx ∧ t.links = s.links ∧ t.latches = s.latches ∧ t.dueErr = s.dueErr ∧
      t.chorus = s.chorus ++ (match q.src, (clu s q.clu).part with
        | some (k, _, pc), some p => if q.detail ≠ 0x05_0006 then [] else ((part s p).image.filter fun g => decide (g.base ≤ pc) && decide (pc < g.base + g.words.length)).map
            fun g => { clu := q.clu, cell := k, seg := g, fix := some pc }
        | _, _ => []) ∧
      t.pool = s.pool.filter (fun b => b.task != q.task) ∧
      (hasReq s v.req = true → (reqOf t v.req).st = .done ∧ (mwf {} s.tasks = true → ∀ n, (taskOf s n).req = v.req → taskOf s n ≠ {} → ∀ c, mget .unsent (taskOf t n).st c ≠ .queued)) ∧
      (∀ n, n ≠ v.req → reqOf t n = reqOf s n) ∧
      (∀ n, { part t n with regs := [] } = { part s n with regs := [] }) ∧ (∀ n o, o ∉ [Reg.DSP_ADMIT, Reg.DSP_SHED, Reg.DSP_LATE] → preg t n o = preg s n o) ∧
      (∀ d, d ∉ v.clus → clu t d = clu s d ∧ ∀ k, k < 32 → cellOf t d k = cellOf s d k) ∧
      (hasReq s v.req = true → r.st ≠ .done → t.due = s.due ++ [
        { mbx := r.mbx, tag := r.tag, seq := r.seq, status := q.status,
          detail := q.detail, island := fwIsland s r.part, fvis := r.fvis, noirq := r.noirq }]) ∧
      (hasReq s v.req = false ∨ r.st = .done → t.due = s.due) ∧
      (∀ c ∈ v.clus, mget .unsent v.st c ≠ .ended → mget .unsent (taskOf t q.task).st c = .stopped) ∧
      ∀ c ∈ v.clus, mget .unsent v.st c = .running →
        (∀ k, k < 32 → (cellOf t c k).engOwner ≠ some q.task ∧ ∀ x, x < 4 → (ctxOf t c k x).task ≠ some q.task) ∧
        mget 0 (taskOf t q.task).tokens c = 0 ∧
        (∀ j ∈ (clu t c).dq ++ (clu t c).dw ++ (clu t c).vq ++ (clu t c).vw ++ (clu t c).gw ++ (clu t c).uj ++ (clu t c).uw, j.task ≠ q.task) ∧
        (∀ e, (∀ j ∈ mget [] (clu t c).gq e, j.task ≠ q.task) ∧ (∀ g, mget none (clu t c).gRun e = some g → g.job.task ≠ q.task) ∧
          (∀ d, mget none (clu t c).sig e = some d → d.2 ≠ q.task) ∧ (mget {} (clu t c).slots e).list ≠ some q.task) ∧
        (∀ j ∈ (clu t c).qq, j.task ≠ some q.task) ∧ ∀ j, (clu t c).qrun = some j → j.job.task ≠ some q.task

/-- A COPY, ADD, SUB, MUL, FMA, MAX, MIN, ABS, NEG, EXP, RECIP or RSQRT job whose operands are aligned and permitted and whose result elements overlap no other element's operands: the bytes of each active element of
C are the operation's result on the elements of A, B (or the scalar) and X, with a free number where R206 leaves the result open; an inactive element is 0 if MASK_ZERO is 1, else unchanged. SELECT takes A where the mask bit is 1 and B elsewhere.
The job then leaves the queue, and no other byte of memory and no other unit changes. -/
def Obligations.VectorElementwise : Prop :=
  ∀ (s : State) (c op : Nat) (i : Nat → Instr) (j : EJob) (rest : List EJob) (ks : List Nat) (v : VSet) (A B X C M : Nat → List Nat),
    let p := (taskOf s j.task).part
    let N := v.rows * v.count
    let act (n : Nat) : Prop := v.maskEn = false ∨ (valAt s (M n)).testBit (n % 8) = true
    let two : Prop := op ∈ [1, 2, 3, 4, 5, 6]
    let b (n : Nat) : Nat := if v.bscalar then bits (v.word 2) 31 0 % 2 ^ fmtBits v.f else valAt s (B n)
    let put (t : State) (n r : Nat) : Prop := (C n).map (peek t) = leBytes (fmtBits v.f / 8) r
    VecRuns s c op j rest ks v →
    (∀ n, n < N → v.maskEn = true → Clean s (.vec c) p none (v.addr 5 + n / 8) 1 (M n)) →
    (∀ n m, n < N → m < N → n ≠ m → ∀ q ∈ C n, q ∉ C m ∧ q ∉ A m ∧ q ∉ B m ∧ q ∉ X m) → (∀ n m, n < N → m < N → ∀ q ∈ C n, q ∉ M m) →
    (∀ n, n < N → (C n).Nodup) →
    ((op, i) ∈ [(0, Instr.vecCopy), (1, .vecAdd), (2, .vecSub), (3, .vecMul), (4, .vecFma), (5, .vecMax), (6, .vecMin), (7, .vecAbs),
        (8, .vecNeg), (9, .vecExp), (10, .vecRecip), (11, .vecRsqrt)] →
      (∀ n, n < N → act n → Elem s c p (v.addr 1) n v.f (A n) ∧ (two → v.bscalar = false → Elem s c p (v.addr 2) n v.f (B n)) ∧
        (op = 4 → Elem s c p (v.addr 3) n v.f (X n))) →
      (∀ n, n < N → act n ∨ v.maskZero = true → Elem s c p (v.addr 4) n v.f (C n)) →
      Completes (exec (i c) s) fun t => JobDone s t c 1 j rest ks ∧
        (∀ n, n < N → act n → ∃ u, put t n (elemOp op v.f (valAt s (A n)) (if op ∈ [1, 2, 3, 4, 5, 6] then b n else 0)
          (if op = 4 then valAt s (X n) else 0) u)) ∧
        (∀ n, n < N → ¬ act n → v.maskZero = true → put t n 0) ∧
        ∀ q, (∀ n, n < N → act n ∨ v.maskZero = true → q ∉ C n) → mget 0 t.mem q = mget 0 s.mem q) ∧
    (op = 0x0E → (∀ n, n < N → act n → Elem s c p (v.addr 1) n v.f (A n)) →
      (∀ n, n < N → ¬ act n → v.bscalar = false → Elem s c p (v.addr 2) n v.f (B n)) → (∀ n, n < N → Elem s c p (v.addr 4) n v.f (C n)) →
      Completes (exec (.vecSelect c) s) fun t => JobDone s t c 1 j rest ks ∧
        (∀ n, n < N → act n → put t n (elemOp 0 v.f (valAt s (A n)) 0 0 0)) ∧
        (∀ n, n < N → ¬ act n → put t n (elemOp 0 v.f (b n) 0 0 0)) ∧
        ∀ q, (∀ n, n < N → q ∉ C n) → mget 0 t.mem q = mget 0 s.mem q)

/-- On I32 elements COPY, ADD, SUB, MUL, MAX, MIN and NEG give the low 32 bits of the exact result and ABS of -2^31 gives 2^31 - 1; on I8 elements the escape 0x80 enters as 0 and every result
is brought into -127 to 127. On FP32 ADD, SUB, MUL and FMA round the exact result once. CMPGT and CMPEQ compare values, and are false when an operand is a NaN. -/
def Obligations.ElementArithmetic : Prop :=
  ∀ (a b c u : Nat),
    let x := sext 32 a
    let y := sext 32 b
    let i8 (n : Nat) : Int := if n % 256 = 0x80 then 0 else sext 8 n
    let wrap (z : Int) : Nat := (z % 2 ^ 32).toNat
    let sat (z : Int) : Nat := (max (-127) (min 127 z) % 256).toNat
    let f := fdec .fp32
    (elemOp 0 .i32 a b c u = wrap x ∧ elemOp 1 .i32 a b c u = wrap (x + y) ∧ elemOp 2 .i32 a b c u = wrap (x - y) ∧
      elemOp 3 .i32 a b c u = wrap (x * y) ∧ elemOp 5 .i32 a b c u = wrap (max x y) ∧ elemOp 6 .i32 a b c u = wrap (min x y) ∧
      elemOp 7 .i32 a b c u = (if x = -(2 ^ 31) then 2 ^ 31 - 1 else x.natAbs) ∧ elemOp 8 .i32 a b c u = wrap (-x)) ∧
    (elemOp 0 .i8 a b c u = sat (i8 a) ∧ elemOp 1 .i8 a b c u = sat (i8 a + i8 b) ∧ elemOp 2 .i8 a b c u = sat (i8 a - i8 b) ∧
      elemOp 3 .i8 a b c u = sat (i8 a * i8 b) ∧ elemOp 5 .i8 a b c u = sat (max (i8 a) (i8 b)) ∧
      elemOp 6 .i8 a b c u = sat (min (i8 a) (i8 b)) ∧ elemOp 7 .i8 a b c u = sat (i8 a).natAbs ∧ elemOp 8 .i8 a b c u = sat (-i8 a)) ∧
    (elemOp 1 .fp32 a b c u = fenc .fp32 (faddX (f a) (f b)) ∧ elemOp 2 .fp32 a b c u = fenc .fp32 (faddX (f a) (fneg (f b))) ∧
      elemOp 3 .fp32 a b c u = fenc .fp32 (fmulX (f a) (f b)) ∧ elemOp 4 .fp32 a b c u = fenc .fp32 (faddX (fmulX (f a) (f b)) (f c))) ∧
    (elemCmp 0x0C .i32 a b = decide (y < x) ∧ elemCmp 0x0D .i32 a b = decide (x = y) ∧
      ((f a = .nan ∨ f b = .nan) → elemCmp 0x0C .fp32 a b = false ∧ elemCmp 0x0D .fp32 a b = false) ∧
      elemCmp 0x0C .fp32 a a = false ∧ (elemCmp 0x0C .fp32 a b = true → elemCmp 0x0C .fp32 b a = false ∧ elemCmp 0x0D .fp32 a b = false))

/-- CMPGT and CMPEQ write one bit for each element, 1 where the element is active and the comparison holds, pad bits 0. For a job of one row with l its active elements in ascending order: RSUM and RSUMSQ of floats
write a sum of l, or of their squares, in FP32 in some order; RSUM of integers the low 32 bits of the sum; RMAX of integers the maximum, or the least value of
the format when l is empty; COMPRESS writes l packed and their number; EXPAND writes the packed elements of A at the active places. The job leaves the queue and nothing else changes. -/
def Obligations.VectorRows : Prop :=
  ∀ (s : State) (c op : Nat) (j : EJob) (rest : List EJob) (ks D : List Nat) (v : VSet) (A B C M : Nat → List Nat),
    let p := (taskOf s j.task).part
    let N := v.rows * v.count
    let on (n : Nat) : Bool := !v.maskEn || (valAt s (M n)).testBit (n % 8)
    let b (n : Nat) : Nat := if v.bscalar then bits (v.word 2) 31 0 % 2 ^ fmtBits v.f else valAt s (B n)
    let l : List Nat := ((List.range v.count).filter on).map fun n => valAt s (A n)
    let fl : Prop := v.f = .fp32 ∨ v.f = .bf16
    let same (t : State) (keys : List Nat) : Prop := ∀ q, q ∉ keys → mget 0 t.mem q = mget 0 s.mem q
    let holds (t : State) (k : List Nat) (n r : Nat) : Prop := k.map (peek t) = leBytes n r
    let w := fmtBits v.f / 8
    VecRuns s c op j rest ks v → (∀ n, n < N → v.maskEn = true → Clean s (.vec c) p none (v.addr 5 + n / 8) 1 (M n)) → D.Nodup →
    (∀ i, (op, i) ∈ [(0x0C, Instr.vecCmpgt), (0x0D, .vecCmpeq)] → Clean s (.vec c) p none (v.addr 4) ((N + 7) / 8) D →
      (∀ n, n < N → on n = true → Elem s c p (v.addr 1) n v.f (A n) ∧ (v.bscalar = false → Elem s c p (v.addr 2) n v.f (B n))) →
      Completes (exec (i c) s) fun t => JobDone s t c 1 j rest ks ∧ same t D ∧
        ∀ n, n < 8 * D.length → (peek t (D.getD (n / 8) 0)).toNat.testBit (n % 8) =
          (decide (n < N) && on n && elemCmp op v.f (valAt s (A n)) (b n))) ∧
    (v.rows = 1 → (∀ n, n < v.count → on n = true → op ≠ 0x19 → Elem s c p (v.addr 1) n v.f (A n)) →
      (∀ i, (op, i) ∈ [(0x10, Instr.vecRsum), (0x12, .vecRsumsq)] → fl → Elem s c p (v.addr 4) 0 .fp32 D →
        Completes (exec (i c) s) fun t => JobDone s t c 1 j rest ks ∧ same t D ∧ ∃ x, holds t D 4 x ∧ AnySum l.length (l.map fun a =>
          let y := fenc .fp32 (fdec v.f a); if op = 0x12 then mul32 y y else y) x) ∧
      (op = 0x10 → ¬ fl → Elem s c p (v.addr 4) 0 .i32 D → Completes (exec (.vecRsum c) s) fun t => JobDone s t c 1 j rest ks ∧
        same t D ∧ holds t D 4 ((l.map (intElem v.f)).sum % 2 ^ 32).toNat) ∧
      (op = 0x11 → ¬ fl → Elem s c p (v.addr 4) 0 v.f D → Completes (exec (.vecRmax c) s) fun t => JobDone s t c 1 j rest ks ∧
        same t D ∧ ∃ x, holds t D w x ∧ (l = [] → x = if v.f = .i8 then 0x81 else 0x8000_0000) ∧
          (∀ a ∈ l, intElem v.f a ≤ intElem v.f x) ∧ (l ≠ [] → ∃ a ∈ l, intElem v.f a = intElem v.f x)) ∧
      (op = 0x18 → (∀ n, n < l.length → Elem s c p (v.addr 4) n v.f (C n) ∧ (C n).Nodup) → Elem s c p (v.addr 3) 0 .i32 D →
        (∀ n m, n < l.length → m < l.length → n ≠ m → ∀ q ∈ C n, q ∉ C m) → (∀ n, n < l.length → ∀ q ∈ C n, q ∉ D) →
        Completes (exec (.vecCompress c) s) fun t => JobDone s t c 1 j rest ks ∧ holds t D 4 l.length ∧
          (∀ n, n < l.length → holds t (C n) w (elemOp 0 v.f (l.getD n 0) 0 0 0)) ∧
          ∀ q, q ∉ D → (∀ n, n < l.length → q ∉ C n) → mget 0 t.mem q = mget 0 s.mem q) ∧
      (op = 0x19 → (∀ n, n < l.length → Elem s c p (v.addr 1) n v.f (A n)) →
        (∀ n, n < v.count → on n = true ∨ v.maskZero = true → Elem s c p (v.addr 4) n v.f (C n)) → (∀ n, n < v.count → (C n).Nodup) →
        (∀ n m, n < v.count → m < v.count → (n ≠ m → ∀ q ∈ C n, q ∉ C m) ∧ ∀ q ∈ C n, q ∉ A m ∧ q ∉ M m) →
        Completes (exec (.vecExpand c) s) fun t => JobDone s t c 1 j rest ks ∧
          (∀ n, n < v.count → on n = true → holds t (C n) w (elemOp 0 v.f (valAt s (A ((List.range n).filter on).length)) 0 0 0)) ∧
          (∀ n, n < v.count → on n = false → v.maskZero = true → holds t (C n) w 0) ∧
          ∀ q, (∀ n, n < v.count → on n = true ∨ v.maskZero = true → q ∉ C n) → mget 0 t.mem q = mget 0 s.mem q))

/-- On jobs of one unmasked element or row: CVT writes the element converted, I32 to I8 and I4 after a rounding right shift, FP32 to I8 stochastically; QROW writes
the scale row of the least exponent e with |x| <= 127 * 2^e and x rounded stochastically at it; RCOMBINE writes the sum of its records, rounded to FP32 and scaled by 2^(E + EW + e_fmt);
OADD of one weight entry adds its product with the activation code to its FP32 element; GIVE starts the handover of the bank its address names. The job leaves the queue, and nothing but what is named changes. -/
def Obligations.VectorConversions : Prop :=
  ∀ (s : State) (c op : Nat) (j : EJob) (rest : List EJob) (ks A C : List Nat) (v : VSet),
    let p := (taskOf s j.task).part
    let a := valAt s A
    let w0 := v.word 0
    let same (t : State) (keys : List Nat) : Prop := ∀ q, q ∉ keys → mget 0 t.mem q = mget 0 s.mem q
    let holds (t : State) (k : List Nat) (n r : Nat) : Prop := k.map (peek t) = leBytes n r
    VecRuns s c op j rest ks v → v.maskEn = false → v.rows = 1 → C.Nodup →
    (op = 0x1A → v.count = 1 → Elem s c p (v.addr 1) 0 v.f A →
      (∀ d r, fmtOf (bits w0 20 17) = some d → (d ≠ .i8 ∨ v.f = .i32) → (bits w0 25 21 ≠ 0 → v.f = .i32 ∧ d ≠ .fp32) →
        (v.f, d, r) ∈ [(.i32, .i8, toBits 8 (clampI (-127) 127 (rneShrI (sext 32 a) (bits w0 25 21)))), (.i32, .fp32, fenc .fp32 (fofInt (sext 32 a))),
          (.i8, .fp32, fenc .fp32 (fofInt (codeInt .i8 a))), (.bf16, .fp32, fenc .fp32 (fdec .bf16 a)), (.fp32, .bf16, fenc .bf16 (fdec .fp32 a)),
          (.fp32, .fp16, fenc .fp16 (fdec .fp32 a))] → Elem s c p (v.addr 4) 0 d C →
        Completes (exec (.vecCvt c) s) fun t => JobDone s t c 1 j rest ks ∧ same t C ∧ holds t C (fmtBits d / 8) r) ∧
      (v.f = .i32 → bits w0 20 17 = 4 → Clean s (.vec c) p none (v.addr 4) 1 C → Completes (exec (.vecCvt c) s) fun t =>
        JobDone s t c 1 j rest ks ∧ same t C ∧ holds t C 1 (toBits 4 (clampI (-7) 7 (rneShrI (sext 32 a) (bits w0 25 21))))) ∧
      (v.f = .fp32 → bits w0 20 17 = 7 → bits w0 25 21 = 0 → fdec .fp32 a ≠ .nan → Elem s c p (v.addr 4) 0 .i8 C →
        Completes (exec (.vecCvt c) s) fun t => JobDone s { t with srLane := s.srLane } c 1 j rest ks ∧ same t C ∧
          ∃ u, u < 65536 ∧ holds t C 1 (srI8 (fdec .fp32 a) u))) ∧
    (∀ neg m x e S, op = 0x1B → v.count = 1 → bits w0 18 17 ≠ 3 → Elem s c p (v.addr 1) 0 .fp32 A → fdec .fp32 a = .fin neg m x → m ≠ 0 →
      Clean s (.vec c) p none (v.addr 3) 5 S → S.Nodup → Elem s c p (v.addr 4) 0 .i8 C → (∀ q ∈ S, q ∉ C) →
      dle ⟨m, x⟩ ⟨127, e⟩ = true → dle ⟨m, x⟩ ⟨127, e - 1⟩ = false → -128 ≤ e → e ≤ 127 →
      Completes (exec (.vecQrow c) s) fun t => JobDone s { t with srLane := s.srLane } c 1 j rest ks ∧ same t (S ++ C) ∧
        holds t S 5 (expWord e) ∧ ∃ u, u < 65536 ∧ holds t C 1 (srI8 (.fin neg m (x - e)) u)) ∧
    (∀ (R : Nat → List Nat) k0 k1 et ew rqs f, op = 0x20 → fmtOf (bits w0 20 17) = some f → isWeight f = true →
      Clean s (.vec c) p none (v.addr 2) 2 [k0, k1] → expOf (peek s k0) (peek s k1) = some et →
      (∀ i, i < bits w0 26 22 + 1 → Clean s (.vec c) p none (v.addr 1 + 8 * i) 8 (R i) ∧
        bits (valAt s (R i)) 51 48 = bits w0 20 17 ∧ bits (valAt s (R i)) 52 52 = bits w0 21 21) →
      cstOf (mget 0xFFFF_0000 (clu s c).cst v.cst) = some (ew, rqs) → Elem s c p (v.addr 4) 0 .fp32 C →
      Completes (exec (.vecRcombine c) s) fun t => JobDone s t c 1 j rest ks ∧ same t C ∧ holds t C 4
        (fenc .fp32 (fscale (fround .fp32 (fofInt ((List.range (bits w0 26 22 + 1)).map fun i => sext 48 (valAt s (R i))).sum))
          (et + ew + eFmt f (sext 8 (bits (v.word 2) 55 48)))))) ∧
    (∀ f kb ew rqs, op = 0x21 → v.count = 1 → w0.testBit 17 = false → fmtOf (bits w0 21 18) = some f → isWeight f = true → f ≠ .c4 → f ≠ .i3 →
      Clean s (.vec c) p none (v.addr 1) 8 A → bits a 63 48 = 2 ^ 16 - 1 - bits a 47 32 →
      let red := bits (v.word 3) 63 48 + 1
      let i := bits a 31 0
      i < (bits (v.word 4) 63 48 + 1) * red → Clean s (.vec c) p none (v.addr 2 + fmtBits f * (i % red) / 8) 1 [kb] →
      cstOf (mget 0xFFFF_0000 (clu s c).cst v.cst) = some (ew, rqs) → Elem s c p (v.addr 4 + i / red * bits (v.word 5) 63 32) 0 .fp32 C →
      let code := bits (peek s kb).toNat (fmtBits f * (i % red) % 8 + fmtBits f - 1) (fmtBits f * (i % red) % 8)
      let term := fenc .fp32 (fmulX (fdec .bf16 (bits a 47 32)) (fscale (fofInt (codeInt f code)) (ew + eFmt f 0)))
      Completes (exec (.vecOadd c) s) fun t => JobDone s t c 1 j rest ks ∧ same t C ∧
        holds t C 4 (add32 (valAt s C) term)) ∧
    (∀ k, op = 0x30 → runEM (keysOf (.vec c) p none (v.addr 1) 1) s = .good [k] s →
      codeOk s (bankOfKey k).1 (bankOfKey k).2 (bits (v.word 2) 15 0) = true →
      Completes (exec (.vecGive c) s) fun t => JobDone s { t with banks := s.banks } c 1 j rest ks ∧ t.mem = s.mem ∧
        bankOf t (bankOfKey k).1 (bankOfKey k).2 = { bankOf s (bankOfKey k).1 (bankOfKey k).2 with
          pending := some (bits (v.word 2) 15 0), giver := some (engGiver c 1) } ∧
        ∀ n, n ≠ 576 * (bankOfKey k).1 + (bankOfKey k).2 → mget {} t.banks n = mget {} s.banks n)

/-- A dense job of one element of C that overlaps no operand: I8 by I8 gives the wrapped exact sum over K as I32, added to the old element with saturation to 32 bits when ACC is 1; BF16, FP16 and FP8 operands add each exact product
to the FP32 sum with one rounding, from 0 or the old element, and the result is written in the output format. The job leaves the queue and nothing else changes. JOB_DONE_SIGNAL, once the engine's owner write is made, adds 1 modulo 2^32
to the flag of the engine's ended job, once. -/
def Obligations.DenseJobs : Prop :=
  (∀ (s : State) (c : Nat) (j : EJob) (rest : List EJob) (ks C : List Nat) (d : DSet) (A B : Nat → List Nat),
    let p := (taskOf s j.task).part
    let old := if d.acc then valAt s C else 0
    JobRuns s c 0 j rest ks → dsetOf (words8 (ks.map (peek s))) = some d → d.m = 1 → d.n = 1 → d.scaled = false → d.overlaps = false →
    (∀ k, k < d.k → Elem s c p (d.aAt 0 k) 0 d.at' (A k) ∧ Elem s c p (d.bAt k 0) 0 d.bt (B k)) → Elem s c p (d.cAt 0 0) 0 d.ot C → C.Nodup →
    Completes (exec (.denseJob c) s) fun t => JobDone s t c 0 j rest ks ∧ (∀ q, q ∉ C → mget 0 t.mem q = mget 0 s.mem q) ∧
      let a (k : Nat) : Nat := valAt s (A k)
      let b (k : Nat) : Nat := valAt s (B k)
      (d.at' = .i8 → C.map (peek t) = leBytes 4 (
        let x := ((List.range d.k).map fun k => codeInt .i8 (a k) * codeInt .i8 (b k)).sum
        ((if d.acc then max (-(2 ^ 31)) (min (2 ^ 31 - 1) (sext 32 old + x)) else x) % 2 ^ 32).toNat)) ∧
      (d.at' ≠ .i8 → C.map (peek t) = leBytes (fmtBits d.ot / 8) (fenc d.ot (fdec .fp32
        ((List.range d.k).foldl (fun r k => fenc .fp32 (faddX (fdec .fp32 r) (fmulX (fdec d.at' (a k)) (fdec d.bt (b k))))) old))))) ∧
  (∀ (s : State) (c e f task : Nat), c < 96 → e < 7 → mget none (clu s c).sig e = some (f + 1, task) → engGives s c e = false →
    Completes (exec (.jobDoneSignal c e) s) fun t => t = { s with clus := t.clus } ∧ (∀ d, d ≠ c → clu t d = clu s d) ∧
      { clu t c with sig := [], flags := [] } = { clu s c with sig := [], flags := [] } ∧
      (∀ i, mget none (clu t c).sig i = if i = e then none else mget none (clu s c).sig i) ∧
      ∀ i, mget 0 (clu t c).flags i = if i = f then (mget 0 (clu s c).flags f + 1) % 2 ^ 32 else mget 0 (clu s c).flags i)

/-- For BF16, FP16, FP32, F8A and F8B: a word of the format that is no NaN decodes to a value that encodes to the same word; an FP8 zero encodes as positive. -/
def Obligations.FloatWordsRoundTrip : Prop :=
  ∀ (f : Fmt) (w : Nat), f ∈ [Fmt.bf16, .fp16, .fp32, .f8a, .f8b] → w < 2 ^ fmtBits f → fdec f w ≠ .nan →
    fenc f (fdec f w) = if (f = .f8a ∨ f = .f8b) ∧ w = 2 ^ (fmtBits f - 1) then 0 else w

/-- QUANT_JOB_START with a job queued, none running, the quantizer not halted, its cluster on and its vector domain not frozen. For a job of one finite FP32 element x to I8 without escapes, range monitor or stochastic rounding: the scale
row holds the least e with |x| <= 127 * 2^e in the range of an exponent (0 for x = 0), offset 0, and the code is x / 2^e rounded to nearest even; the job runs on to its end with nothing clamped. A job
whose settings fail becomes a finished job with that status and detail (of one whose control word's halves differ, only word 0 and RES are kept). The job leaves the queue; nothing else changes but its statistic slot, which counts
the element after the clears that wait are made, and free values. With nothing queued, a job running, the quantizer halted, its cluster not on or its domain frozen, nothing changes. -/
def Obligations.QuantJobStarts : Prop :=
  ∀ (s : State) (c p : Nat) (j : QJob) (rest : List QJob) (ks A S C : List Nat) (neg : Bool) (m : Nat) (x e : Int),
    let w := (List.range 8).map fun i => leNat (((ks.drop (8 * i)).take 8).map (peek s))
    let q := qsetOf (fun i => w.getD i 0)
    let fault := qsetFault (fun i => w.getD i 0) (clustersOf s p).length
    let ok := bits (w.getD 0 0) 63 32 = 2 ^ 32 - 1 - bits (w.getD 0 0) 31 0
    let kept := if ok then w else [w.getD 0 0, 0, 0, 0, 0, 0, w.getD 6 0, 0]
    let rest' (t : State) : Prop := { t with clus := s.clus, mem := s.mem, fresh := s.fresh } = s ∧ (∀ d, d ≠ c → clu t d = clu s d) ∧
      { clu t c with qrun := none, stats := [], statClr := 0 } = { clu s c with qrun := none, stats := [], statClr := 0, qq := rest }
    let old : Stat := if (clu s c).statClr.testBit q.stat = true then {} else mget {} (clu s c).stats q.stat
    c < 96 → ((clu s c).part = some p → ((clu s c).qq = [] ∨ (clu s c).qrun ≠ none ∨ (creg s c Reg.QNT_CTRL).testBit 0 = true ∨
      (clu s c).pw ≠ .on ∨ isFrozen s p (.vec c) = true) → exec (.quantJobStart c) s = .next s) ∧
    ((clu s c).part = some p → (clu s c).qq = j :: rest → (clu s c).qrun = none → (creg s c Reg.QNT_CTRL).testBit 0 = false →
    (clu s c).pw = .on → isFrozen s p (.vec c) = false → Clean s (.vec c) p none j.addr 64 ks →
    (∀ st dt, fault = some (st, dt) → Completes (exec (.quantJobStart c) s) fun t => rest' t ∧ t.mem = s.mem ∧
      (clu t c).stats = (clu s c).stats ∧ (clu t c).statClr = (clu s c).statClr ∧
      (clu t c).qrun = some { job := j, w := kept, status := st, detail := dt, atag := bits (w.getD 0 0) 7 4 }) ∧
    (fault = none → q.stag = .fp32 → q.dtag = .i8 → q.rows = 1 → q.len = 1 → q.rmEn = false → q.sr = false → q.budget = 0 →
      Clean s (.vec c) p none q.src 4 A → fdec .fp32 (valAt s A) = .fin neg m x → Clean s (.vec c) p none q.scale 5 S →
      Clean s (.vec c) p none q.dst 1 C → S.Nodup → (∀ k ∈ S, k ∉ C ∧ k ∉ A) →
      (m ≠ 0 → dle ⟨m, x⟩ ⟨127, e⟩ = true ∧ dle ⟨m, x⟩ ⟨127, e - 1⟩ = false ∧ -128 ≤ e ∧ e ≤ 127) → (m = 0 → e = 0) →
      Completes (exec (.quantJobStart c) s) fun t => rest' t ∧ (∀ k, k ∉ S → k ∉ C → mget 0 t.mem k = mget 0 s.mem k) ∧
        S.map (peek t) = leBytes 5 (toBits 8 e + 256 * (255 - toBits 8 e)) ∧
        C.map (peek t) = leBytes 1 (toBits 8 (if x ≤ e then rneShrI (fmant neg m) (e - x).toNat else fmant neg m * 2 ^ (x - e).toNat)) ∧
        (clu t c).statClr = 0 ∧ (∃ u, mget {} (clu t c).stats q.stat = { old with sum := u, count := (old.count + 1) % 2 ^ 64 }) ∧
        (clu t c).qrun = some { job := j, w := w, atag := 7 }))

/-- For a destination's largest magnitude Q and a group's largest magnitude M, both positive, groupExp is an e with M <= Q * 2^e, and no smaller e is. -/
def Obligations.GroupExponentLeast : Prop :=
  ∀ (q m : Dyad) (e : Int), 0 < q.m → 0 < m.m →
    dle m ⟨q.m, q.e + groupExp q m⟩ = true ∧ (dle m ⟨q.m, q.e + e⟩ = true → groupExp q m ≤ e)

/-- COMBINE_POST of a running job that has its sums to post, into a slot that is free or of its PARTS and SNR and has not failed: with parts still to come it waits and its post is
kept; the last post decides for every waiting part: I4 when 12 S2 >= 2^SNR N4, else I8, with one count, in the count of the layer that the last part names (the model's choice of layer, log 70), and the slot is free again. A post into a slot of other PARTS or SNR fails every part with
COMBINE_MISMATCH's detail and one into a failed slot fails alone with COMBINE_TIMEOUT's; the slot stays failed until all its parts have arrived. COMBINE_TIMEOUT fails every waiting part of a slot that has a post. Memory, the other slots and all other state stay. With no
sums to post, and at the timeout of a free or failed slot, nothing changes. -/
def Obligations.CombineSlots : Prop :=
  ∀ (s : State) (c p : Nat) (r : QRun), c < 96 → p < 16 → (clu s c).part = some p →
    let q := qsetOf (fun i => r.w.getD i 0)
    let v := combineOf s p q.slot
    let posts := v.posts ++ [{ clu := c, s2 := r.s2, n4 := r.n4 }]
    let S2 : Nat := posts.foldl (fun a x => add32 a x.s2) 0
    let N4 : Nat := posts.foldl (fun a x => add32 a x.n4) 0
    let waits (d i : Nat) (x : QRun) : Prop := d < 96 ∧ (clu s d).part = some p ∧ (clu s d).qrun = some x ∧ x.phase = 2 ∧ bits (x.w.getD 7 0) 39 34 = i
    let frame (i : Nat) (t : State) : Prop := { t with clus := s.clus, parts := s.parts } = s ∧ (∀ n, n ≠ p → part t n = part s n) ∧
      { part t p with combine := [], regs := [] } = { part s p with combine := [], regs := [] } ∧
      (∀ n, n ≠ i → combineOf t p n = combineOf s p n) ∧ ∀ d, { clu t d with qrun := none } = { clu s d with qrun := none }
    let counts (t : State) : Prop := ∀ o, preg t p o = preg s p o
    let others (i : Nat) (t : State) : Prop := ∀ d, d ≠ c → (∀ x, ¬ waits d i x) → (clu t d).qrun = (clu s d).qrun
    (((clu s c).qrun = none ∨ ((clu s c).qrun = some r ∧ r.phase ≠ 1)) → exec (.combinePost c) s = .next s) ∧
    ((clu s c).qrun = some r → r.phase = 1 → v.failed = false → (v.arrived = 0 ∨ (v.parts = q.parts ∧ v.snr = q.snr)) →
      (v.arrived + 1 < q.parts → Completes (exec (.combinePost c) s) fun t => frame q.slot t ∧ counts t ∧
        (clu t c).qrun = some { r with phase := 2 } ∧ (∀ d, d ≠ c → (clu t d).qrun = (clu s d).qrun) ∧ combineOf t p q.slot =
          { v with parts := q.parts, snr := q.snr, layer := q.layer, arrived := v.arrived + 1, posts := posts }) ∧
      (q.parts ≤ v.arrived + 1 → Completes (exec (.combinePost c) s) fun t =>
        let tag : Nat := if N4 % 2 ^ 31 = 0 ∨ fltX (fmulX (fofInt 12) (fdec .fp32 S2)) (fscale (fdec .fp32 N4) q.snr) = false then 4 else 7
        frame q.slot t ∧ (clu t c).qrun = some { r with atag := tag, phase := 3 } ∧
        (∀ d x, d ≠ c → waits d q.slot x → (clu t d).qrun = some { x with atag := tag, phase := 3 }) ∧ others q.slot t ∧
        combineOf t p q.slot = {} ∧ ∀ o, preg t p o = if o = Reg.QNT_RM_COUNT + 8 * q.layer
          then bump32 (if tag = 4 then 0 else 32) 1 (preg s p o) else preg s p o)) ∧
    ((clu s c).qrun = some r → r.phase = 1 → v.failed = true → Completes (exec (.combinePost c) s) fun t => frame q.slot t ∧ counts t ∧
      (clu t c).qrun = some { r with status := 1, detail := 0x04_0004, phase := 0 } ∧ (∀ d, d ≠ c → (clu t d).qrun = (clu s d).qrun) ∧
      combineOf t p q.slot = if v.parts ≤ v.arrived + 1 then {} else { v with arrived := v.arrived + 1 }) ∧
    ((clu s c).qrun = some r → r.phase = 1 → v.failed = false → 0 < v.arrived → (v.parts ≠ q.parts ∨ v.snr ≠ q.snr) →
      Completes (exec (.combinePost c) s) fun t => frame q.slot t ∧ counts t ∧
        (clu t c).qrun = some { r with status := 1, detail := 0x04_0005, phase := 0 } ∧ others q.slot t ∧
        (∀ d x, d ≠ c → waits d q.slot x → (clu t d).qrun = some { x with status := 1, detail := 0x04_0005, phase := 0 }) ∧
        combineOf t p q.slot = if v.parts ≤ v.arrived + 1 then {} else { v with arrived := v.arrived + 1, failed := true, posts := [] }) ∧
    (∀ i, i < 64 → ((combineOf s p i).arrived = 0 ∨ (combineOf s p i).failed = true → exec (.combineTimeout p i) s = .next s) ∧
      (0 < (combineOf s p i).arrived → (combineOf s p i).failed = false → Completes (exec (.combineTimeout p i) s) fun t => frame i t ∧
      counts t ∧ combineOf t p i = { combineOf s p i with failed := true, posts := [] } ∧
      (∀ d x, waits d i x → (clu t d).qrun = some { x with status := 1, detail := 0x04_0004, phase := 0 }) ∧
      ∀ d, (∀ x, ¬ waits d i x) → (clu t d).qrun = (clu s d).qrun))

/-- QUANT_JOB_END of a job that waits for nothing and whose result record can be written: the record holds the tag, VALID = 1, the status, the detail and the two counts, QNT_LAST_RESULT its first word, and
no job runs; a job whose RES could not be read leaves no record. A job of a task that ended by a fault reports status and detail, a host job's fault sets QNT_ERR bit 2 with a record; a good job changes nothing else. A job that its slot has decided first converts its
tensor in the format decided, I4 or I8: here one finite FP32 element x without stochastic rounding, at the least exponent e at which the format holds the magnitude in the work area, 0 for 0. While the job has sums to post, or waits in a slot, and with no job running, nothing changes. -/
def Obligations.QuantJobEnds : Prop :=
  ∀ (s : State) (c p : Nat) (r : QRun) (ks : List Nat),
    let q := qsetOf (fun i => r.w.getD i 0)
    let word := r.atag % 16 + 128 + r.status * 2 ^ 8 + r.detail * 2 ^ 16
    let frame (f : Cluster → Cluster) (t : State) : Prop := (clu t c).qrun = none ∧
      f { clu t c with qrun := none, regs := [] } = f { clu s c with qrun := none, regs := [] } ∧
      (∀ o, o ≠ Reg.QNT_LAST_RESULT → o ≠ Reg.QNT_ERR → creg t c o = creg s c o) ∧ (∀ d, d ≠ c → clu t d = clu s d)
    let good (t : State) : Prop := t.reports = s.reports ∧ t.latches = s.latches ∧ t.dueErr = s.dueErr ∧ creg t c Reg.QNT_ERR = creg s c Reg.QNT_ERR
    let told (t : State) : Prop := frame id t ∧
        { t with clus := s.clus, mem := s.mem, reports := s.reports, latches := s.latches, dueErr := s.dueErr } = s ∧
        (r.status = 0 → good t) ∧
        (∀ n, r.status ≠ 0 → r.job.task = some n → t.dueErr = s.dueErr ∧ creg t c Reg.QNT_ERR = creg s c Reg.QNT_ERR ∧
          t.reports = s.reports ++ [{ task := n, status := r.status, detail := r.detail, clu := c }]) ∧
        (r.status ≠ 0 → r.job.task = none → t.reports = s.reports ∧ t.latches = s.latches ∧
          (∀ b, (creg t c Reg.QNT_ERR).testBit b = ((creg s c Reg.QNT_ERR).testBit b || b == 2)) ∧ ∃ e, t.dueErr = s.dueErr ++ [e] ∧
            e.detail = r.detail ∧ e.subject = r.job.addr % 2 ^ 48)
    c < 96 → (clu s c).part = some p → ((clu s c).qrun = none → exec (.quantJobEnd c) s = .next s) ∧ ((clu s c).qrun = some r →
    (r.phase = 1 ∨ r.phase = 2 → exec (.quantJobEnd c) s = .next s) ∧
    (r.phase = 0 → r.noRes = true → Completes (exec (.quantJobEnd c) s) fun t => told t ∧ t.mem = s.mem ∧
      creg t c Reg.QNT_LAST_RESULT = creg s c Reg.QNT_LAST_RESULT) ∧
    (r.noRes = false → r.status < 256 → r.detail < 2 ^ 24 → Clean s (.vec c) p none q.res 16 ks → ks.Nodup →
      (r.phase = 0 → Completes (exec (.quantJobEnd c) s) fun t => told t ∧ (∀ k, k ∉ ks → mget 0 t.mem k = mget 0 s.mem k) ∧
        ks.map (peek t) = leBytes 8 word ++ leBytes 4 r.sideN ++ leBytes 4 r.clamped ∧ creg t c Reg.QNT_LAST_RESULT = word) ∧
      (∀ (A W S C : List Nat) (neg wn : Bool) (m wm : Nat) (x wx e : Int), r.phase = 3 → r.status = 0 → r.detail = 0 →
        r.atag = 4 ∨ r.atag = 7 → q.stag = .fp32 → q.rows = 1 → q.len = 1 → q.sr = false →
        Clean s (.vec c) p none q.src 4 A → fdec .fp32 (valAt s A) = .fin neg m x →
        Clean s (.vec c) p none q.work 2 W → fdec .bf16 (valAt s W) = .fin wn wm wx → dle ⟨m, x⟩ ⟨wm, wx⟩ = true →
        Clean s (.vec c) p none q.scale 5 S → Clean s (.vec c) p none q.dst 1 C → S.Nodup →
        (∀ k ∈ S, k ∉ C ∧ k ∉ A) → (∀ k ∈ ks, k ∉ S ∧ k ∉ C) →
        (wm ≠ 0 → let Q : Int := if r.atag = 4 then 7 else 127
          dle ⟨wm, wx⟩ ⟨Q, e⟩ = true ∧ dle ⟨wm, wx⟩ ⟨Q, e - 1⟩ = false ∧ -128 ≤ e ∧ e ≤ 127) → (wm = 0 → e = 0) →
        Completes (exec (.quantJobEnd c) s) fun t => frame (fun q => { q with stats := [], statClr := 0 }) t ∧ good t ∧
          { t with clus := s.clus, mem := s.mem, fresh := s.fresh } = s ∧
          (∀ k, k ∉ ks → k ∉ S → k ∉ C → mget 0 t.mem k = mget 0 s.mem k) ∧
          ks.map (peek t) = leBytes 8 (r.atag + 128) ++ leBytes 8 0 ∧ creg t c Reg.QNT_LAST_RESULT = r.atag + 128 ∧
          S.map (peek t) = leBytes 5 (toBits 8 e + 256 * (255 - toBits 8 e)) ∧
          C.map (peek t) = leBytes 1 (toBits (if r.atag = 4 then 4 else 8)
            (if x ≤ e then rneShrI (fmant neg m) (e - x).toNat else fmant neg m * 2 ^ (x - e).toNat)))))

/-- Writes and a read by a host at expert level of instance n: QNT_JOB_ADDR keeps the address and queues a job while fewer than 8 are queued, else sets QNT_ERR bit 0; QNT_CST_DATA puts the value in the entry's
shadow, the entry in effect staying, and the index goes on by 1 modulo 16,384; QNT_CLEAR clears the named statistic slots, at once or, while rows of a running job are to come, at its next row boundary, or the four counts; QNT_RM_CLEAR clears every range-monitor count; QNT_CTRL.HALT
takes the bit; reading QNT_STAT_SUM answers the sum and latches the slot's other fields. Each changes what is named and nothing else; with no such instance nothing changes. -/
def Obligations.QuantizerRegisters : Prop :=
  ∀ (s : State) (p n c v i : Nat), HostWrites s p →
    let q := clu s c
    let only (f : Cluster → Cluster) (t : State) : Prop := t = { s with clus := t.clus } ∧ (∀ d, d ≠ c → clu t d = clu s d) ∧ f (clu t c) = f q
    let counts := [Reg.QNT_CB_MAXERR, Reg.QNT_ROW_ESC, Reg.QNT_SR_NAN, Reg.QNT_OA_CLAMP]
    (instOf s p n = none → exec (.qntJobAddrWrite p n v) s = .next s ∧ exec (.qntCstDataWrite p n v) s = .next s ∧
      exec (.qntStatClear p n v) s = .next s ∧ exec (.qntCountClear p n) s = .next s ∧ exec (.qntHalt p n v) s = .next s) ∧
    (instOf s p n = some c →
      (q.qq.length < 8 → exec (.qntJobAddrWrite p n v) s = .next (modClu c (fun q => { q with qq := q.qq ++ [{ addr := v % 2 ^ 48 }] })
        (setCreg c Reg.QNT_JOB_ADDR (v % 2 ^ 48) s))) ∧
      (8 ≤ q.qq.length → Completes (exec (.qntJobAddrWrite p n v) s) fun t => only (fun q => { q with regs := [] }) t ∧
        ∀ o, o ≠ Reg.QNT_JOB_ADDR → ∀ b, (creg t c o).testBit b = ((creg s c o).testBit b || (o == Reg.QNT_ERR && b == 0))) ∧
      (Completes (exec (.qntJobAddrWrite p n v) s) fun t => creg t c Reg.QNT_JOB_ADDR = v % 2 ^ 48) ∧
      (Completes (exec (.qntCstDataWrite p n v) s) fun t => only (fun q => { q with regs := [], cstSh := [] }) t ∧
        (∀ k, mget none (clu t c).cstSh k = if k = creg s c Reg.QNT_CST_INDEX then some (v % 2 ^ 32) else mget none q.cstSh k) ∧
        ∀ o, creg t c o = if o = Reg.QNT_CST_INDEX then (creg s c o + 1) % 16384 else creg s c o) ∧
      ((∃ r, q.qrun = some r ∧ r.phase ≠ 0) → Completes (exec (.qntStatClear p n v) s) fun t =>
        only (fun q => { q with statClr := 0 }) t ∧
        ∀ b, (clu t c).statClr.testBit b = (q.statClr.testBit b || (decide (b < 8) && v.testBit b))) ∧
      ((∀ r, q.qrun = some r → r.phase = 0) → Completes (exec (.qntStatClear p n v) s) fun t => only (fun q => { q with stats := [] }) t ∧
        ∀ k, mget {} (clu t c).stats k = if k < 8 ∧ (v % 256).testBit k = true then {} else mget {} q.stats k) ∧
      (Completes (exec (.qntCountClear p n) s) fun t => only (fun q => { q with regs := [] }) t ∧
        ∀ o, creg t c o = if o ∈ counts then 0 else creg s c o) ∧
      (Completes (exec (.qntHalt p n v) s) fun t => only (fun q => { q with regs := [] }) t ∧
        ∀ o, creg t c o = if o = Reg.QNT_CTRL then v % 2 else creg s c o) ∧
      (i < 8 → Completes (exec (.qntStatSumRead p n i) s) fun t => only (fun q => { q with snap := [] }) { t with ans := s.ans } ∧
        t.ans = (0, leBytes 8 (mget {} q.stats i).sum) ∧ ∀ k, mget {} (clu t c).snap k = mget {} (if k = i then q.stats else q.snap) k)) ∧
    (Completes (exec (.qntRmClear p v) s) fun t => t = { s with parts := t.parts } ∧ (∀ d, d ≠ p → part t d = part s d) ∧
      { part t p with regs := [] } = { part s p with regs := [] } ∧
      ∀ o, preg t p o = if v.testBit 0 = true ∧ Reg.QNT_RM_COUNT ≤ o ∧ o < Reg.QNT_RM_COUNT + 512 ∧ o % 8 = 0 then 0 else preg s p o)

/-- A SUM, MEAN or WSUM job of one bag on a table of its own partition that its cluster caches no rows of, whose IDs are padding or rows below ROWS of a shard in this module with a header that passes (an all-zero header reads as zeros):
element k of the result is a sum in FP32, in some order, of 0 and the rows' elements k, each times its weight for WSUM, divided by the number of rows for MEAN, in FP32 or rounded to BF16; the
status word is that number. GIVE starts the handover of the bank that holds IDS. Nothing else changes but the engine's queue, as jobs are dealt, its DONE flag to signal, the counts of rows, host-memory rows, empty rows and escapes, and free values. With an empty queue, the cluster not on, its domain frozen,
a job running or not yet signalled, a GIVE open or the engine halted, and where the first job is of another operation or its sync word does not let it start, nothing changes. An engine's only waiting row that is overtaken in attempt n < 3 waits for attempt n + 1; in attempt 3, without
DROP_ROW, the task's report is ROW_FAILED and its jobs leave the engines. -/
def Obligations.GatherJobs : Prop :=
  ∀ (s : State) (c p j op : Nat) (i : Nat → Nat → List Nat → Instr) (ov : List Nat) (e : EJob) (rest : List EJob) (ks T Z B D G : List Nat)
    (S R W I : Nat → List Nat) (td : TabD),
    let q := clu s c
    let m := Master.upd c
    let w := words8 (ks.map (peek s))
    let g := gsetOf w
    let b0 := valAt s (Z.take 4)
    let n := valAt s (Z.drop 4) - b0
    let row (i : Nat) : Nat := valAt s (I i) % 2 ^ 40
    let sh (i : Nat) : Shard := let v := valAt s (S i)
      { tier := bits v 1 0, module := bits v 7 2, home := bits v 14 8, rep := v.testBit 15, replica := bits v 21 16, base := bits v 111 64 }
    let cb : List Nat := if td.f = .c4 then (List.range 16).map fun i => valAt s ((B.drop (2 * i)).take 2) else []
    let head (r : List Nat) : Nat := valAt s (r.take 16)
    let codes (r : List Nat) : List Byte := ((r.drop (16 + hSlot (head r) * slotBytes td)).take (slotBytes td)).map (peek s)
    let elem (r : List Nat) (k : Nat) : Nat := if head r = 0 then 0 else (decodeRow td cb (head r) (codes r)).getD k 0
    let real : List Nat := (List.range n).filter fun i => decide (row i ≠ 0xFF_FFFF_FFFF)
    let escs : Nat := (real.map fun i => if head (R i) = 0 then 0 else rowEscapes td (codes (R i))).sum
    let sz : Nat := if g.otag = .bf16 then 2 else 4
    let dealt := dealJobs q.gw.length { q with gq := mset [] q.gq j rest }
    let forms := [(0, Instr.gatherSum), (1, .gatherMean), (2, .gatherWsum), (3, fun c j _ => .gatherGive c j)]
    let left (t : State) : Prop := { t with clus := s.clus, banks := s.banks, mem := s.mem, fresh := s.fresh } = s ∧ (∀ d, d ≠ c → clu t d = clu s d) ∧
      (clu t c).gq = dealt.gq ∧ (clu t c).gw = dealt.gw ∧ (∀ i, mget none (clu t c).gRun i = mget none q.gRun i) ∧
      { clu t c with gq := [], gw := [], gRun := [], sig := [], regs := [], fills := [] } = { q with gq := [], gw := [], gRun := [], sig := [], regs := [], fills := [] } ∧
      ∀ i, mget none (clu t c).sig i = if i = 2 + j ∧ (w 7).testBit 45 = true then some (bits (w 7) 44 39 + 1, e.task) else mget none q.sig i
    c < 96 → j < 4 → (mget [] q.gq j = [] → ∀ x ∈ forms, exec (x.2 c j ov) s = .next s) ∧
    (mget [] q.gq j = e :: rest → p = (taskOf s e.task).part →
      ((q.pw ≠ .on ∨ isFrozen s p m = true ∨ mget none q.gRun j ≠ none ∨ mget none q.sig (2 + j) ≠ none ∨ engGives s c (2 + j) = true ∨
        (creg s c (gpeReg j Reg.GPE_CTRL)).testBit 0 = true) → ∀ x ∈ forms, exec (x.2 c j ov) s = .next s) ∧
      (q.pw = .on → isFrozen s p m = false → mget none q.gRun j = none → mget none q.sig (2 + j) = none → engGives s c (2 + j) = false →
      (creg s c (gpeReg j Reg.GPE_CTRL)).testBit 0 = false →
      Clean s m p none e.addr 64 ks → complOk 32 (bits (w 0) 31 0) (bits (w 0) 63 32) = true → bits (w 0) 3 0 = 3 → g.op = op → gunused w = true → op ≤ 3 →
      (op ≠ 3 → fmtOf (bits (w 0) 11 8) = some .fp32 ∨ fmtOf (bits (w 0) 11 8) = some .bf16) →
      (∀ x ∈ forms, x.1 ≠ op ∨ syncMet s c (w 7) = false → exec (x.2 c j ov) s = .next s) ∧ (syncMet s c (w 7) = true →
      ((op, i) ∈ forms → op ≠ 3 → g.tp = false → g.bags = 1 → g.table < bits (preg s p Reg.TBL_DIR_COUNT) 12 0 →
        Clean s m p none (bits (preg s p Reg.TBL_DIR_BASE) 47 0 + 64 * g.table) 64 T →
        complOk 32 (valAt s (T.take 4)) (valAt s ((T.drop 4).take 4)) = true → tabOf (words8 (T.map (peek s))) = some td → cachedIn s c td = false →
        (∀ f ∈ q.fills, f.part ≠ p ∨ f.table ≠ g.table) →
        (td.f = .c4 → Clean s m p none td.cbk 32 B) → Clean s m p none g.boff 8 Z → b0 ≤ valAt s (Z.drop 4) →
        (∀ i, i < n → Clean s m p none (g.ids + 8 * (b0 + i)) 8 (I i) ∧ b0 + i ∉ ov) →
        (∀ i ∈ real, row i < td.rows ∧ Clean s m p none (td.smap + 16 * (row i / 2 ^ td.shlog)) 16 (S i) ∧ (sh i).tier ≤ 1 ∧
          Clean s m p none (rowAddr td (sh i) (row i)) (16 + 2 * slotBytes td) (R i) ∧
          (head (R i) = 0 ∨ (hdrOk (head (R i)) = true ∧ hTag (head (R i)) = fmtTag td.f)) ∧
          (op = 2 → Clean s m p none (g.wts + 4 * (b0 + i)) 4 (W i))) →
        Clean s m p none g.dst (td.dim * sz) D → D.Nodup → (g.bstat ≠ 0 → Clean s m p none g.bstat 4 G ∧ G.Nodup ∧ ∀ x ∈ G, x ∉ D) →
        Completes (exec (i c j ov) s) fun t => left t ∧ t.banks = s.banks ∧ (clu t c).fills = q.fills ∧
          (∀ x, x ∉ D → (g.bstat = 0 ∨ x ∉ G) → mget 0 t.mem x = mget 0 s.mem x) ∧
          (g.bstat ≠ 0 → G.map (peek t) = leBytes 4 (min real.length 0xFF_FFFF)) ∧
          (∀ o, creg t c o = let v := creg s c o
            if o = gpeReg j Reg.GPE_ROWS then bump32 0 real.length v
            else if o = gpeReg j Reg.GPE_TIER then bump32 0 (real.filter fun i => (sh i).tier == 1).length v
            else if o = gpeReg j Reg.GPE_DROPPED then bump32 32 (real.filter fun i => head (R i) == 0).length v
            else if o = Reg.QNT_ROW_ESC then bump32 0 escs v
            else if o = gpeReg j Reg.GPE_ERR ∧ escs ≠ 0 then orBit v 1 else v) ∧
          ∀ k, k < td.dim → ∃ x, AnySum (real.length + 1) (0 :: real.map fun i => if op = 2 then mul32 (valAt s (W i)) (elem (R i) k) else elem (R i) k) x ∧
            let y := if op = 1 ∧ real ≠ [] then divN x real.length else x
            ((D.drop (sz * k)).take sz).map (peek t) = leBytes sz (if sz = 2 then fenc .bf16 (fdec .fp32 y) else y)) ∧
      (∀ k, op = 3 → runEM (keysOf m p none (bits (w 1) 47 0) 1) s = .good [k] s → k < 2 ^ 37 →
        codeOk s (bankOfKey k).1 (bankOfKey k).2 (bits (w 2) 15 0) = true →
        Completes (exec (.gatherGive c j) s) fun t => left t ∧ t.mem = s.mem ∧ t.fresh = s.fresh ∧ (clu t c).regs = q.regs ∧ (clu t c).fills = q.fills ∧
          bankOf t (bankOfKey k).1 (bankOfKey k).2 =
            { bankOf s (bankOfKey k).1 (bankOfKey k).2 with pending := some (bits (w 2) 15 0), giver := some (engGiver c (2 + j)) } ∧
          ∀ x, x ≠ 576 * (bankOfKey k).1 + (bankOfKey k).2 → mget {} t.banks x = mget {} s.banks x)))) ∧
    ((mget none q.gRun j = none ∨ q.pw ≠ .on) → exec (.rowReadRetry c j ov) s = .next s) ∧
    (∀ (r : GRun) (row n : Nat) (sh : Shard), mget none q.gRun j = some r → p = (taskOf s r.job.task).part → q.pw = .on →
      let g := gsetOf (fun i => r.w.getD i 0)
      r.rows = some [.retry row n sh] → g.tp = false → g.drop = false → r.bag < g.bags → r.td.f ≠ .c4 →
      r.start ∈ ov → Clean s m p none (rowAddr r.td sh row) (16 + 2 * slotBytes r.td) (R 0) → head (R 0) ≠ 0 → hdrOk (head (R 0)) = true →
      hTag (head (R 0)) = fmtTag r.td.f →
      (n < 3 → Completes (exec (.rowReadRetry c j ov) s) fun t => { t with clus := s.clus } = s ∧ (∀ d, d ≠ c → clu t d = clu s d) ∧
        { clu t c with regs := [], gRun := [] } = { q with regs := [], gRun := [] } ∧
        (∀ i, mget none (clu t c).gRun i = if i = j then some { r with rows := some [.retry row (n + 1) sh] } else mget none q.gRun i) ∧
        ∀ o, creg t c o = if o = gpeReg j Reg.GPE_RETRY then bump32 0 1 (creg s c o) else creg s c o) ∧
      (3 ≤ n → Completes (exec (.rowReadRetry c j ov) s) fun t =>
        { t with clus := s.clus, parts := s.parts, latches := s.latches, reports := s.reports, remotes := s.remotes, fresh := s.fresh } = s ∧
        (∀ d, d ≠ c → clu t d = clu s d) ∧ (∀ i l, mget [] (clu t c).gq i = l → ∀ x ∈ l, x.task ≠ r.job.task) ∧
        (∀ i v, mget none (clu t c).gRun i = some v → v.job.task ≠ r.job.task ∧ mget none q.gRun i = some v) ∧
        t.reports = s.reports ++ [{ task := r.job.task, status := 1, detail := 0x07_0004, clu := c }] ∧
        (∀ d, d ≠ p → part t d = part s d) ∧ preg t p Reg.TBL_ROW_FAILED = bump32 0 1 (preg s p Reg.TBL_ROW_FAILED) ∧
        preg t p Reg.TBL_LAST_FAILED = row % 2 ^ 40 + g.table * 2 ^ 40 + 2 ^ 52))

/-- CACHE_FILL of the oldest fill whose read has passed writes its line into the first invalid way of its set, else the way filled longest ago: the tag, valid, then header and codes. With no such fill, and with the cluster not on, its update domain frozen or no cache, nothing changes. CACHE_INVALIDATE takes the oldest
invalidation: matching pending fills are cancelled and each way of the set whose valid tag matches becomes invalid; where the cluster holds no cache for that partition only the fills go; with no invalidation nothing changes. TBL_CACHE_INV, by a host at expert level,
makes every valid line of the table invalid in every cluster of the partition and cancels its fills. As accesses read them, no other byte changes; the counts of fills, cancelled fills, invalidations and forced drains follow. Writes of UPD_CTRL and GPE_CTRL set HALT. -/
def Obligations.RowCaches : Prop :=
  ∀ (s : State) (c p : Nat), c < 96 →
    let q := clu s c
    let rest (f : Cluster → Cluster) (t : State) : Prop := { t with clus := s.clus, banks := s.banks, mem := s.mem } = s ∧
      (∀ d, d ≠ c → clu t d = clu s d) ∧ f (clu t c) = f q ∧ ∀ d b, { bankOf t d b with staged := [] } = { bankOf s d b with staged := [] }
    let lines (x : Nat) (K : Nat → List Nat) : Prop := ∀ w, w < 4 → Clean s (.upd c) p none (lineAddr s c (4 * x + w)) (lineBytes s c) (K w)
    (((∀ x ∈ q.fills, x.data = none) ∨ q.pw ≠ .on ∨ (q.part = some p ∧ isFrozen s p (.upd c) = true) ∨ cacheSets s c = 0) →
      exec (.cacheFill c) s = .next s) ∧ (q.invs = [] → exec (.cacheInvalidate c) s = .next s) ∧
    (∀ (f : Fill) (l r : List Fill) (d : List Byte) (w : Nat) (K : Nat → List Nat), q.part = some p → q.pw = .on →
      isFrozen s p (.upd c) = false → cacheSets s c ≠ 0 → q.fills = l ++ f :: r → (∀ x ∈ l, x.data = none) → f.data = some d → d ≠ [] → 8 + d.length ≤ lineBytes s c →
      lines (cacheSet s c f.table f.row) K → w < 4 →
      let i (v : Nat) : Nat := 4 * cacheSet s c f.table f.row + v
      let valid (v : Nat) : Bool := (valAt s ((K v).take 8)).testBit 63
      let age (v : Nat) : Nat := mget 0 q.cacheAge (i v)
      ((valid w = false ∧ ∀ v, v < w → valid v = true) ∨ ((∀ v, v < 4 → valid v = true ∧ age w ≤ age v) ∧ ∀ v, v < w → age w < age v)) →
      Completes (exec (.cacheFill c) s) fun t => rest (fun v => { v with regs := [], fills := [], cacheAge := [], cacheOrd := 0 }) t ∧
        (clu t c).fills = l ++ r ∧ (clu t c).cacheOrd = q.cacheOrd + 1 ∧
        (∀ x, mget 0 (clu t c).cacheAge x = if x = i w then q.cacheOrd + 1 else mget 0 q.cacheAge x) ∧
        (∀ o, creg t c o = if o = Reg.UPD_FILL then bump32 0 1 (creg s c o) else if o = Reg.BNK_COLLIDE then
          bump32 32 (cdiv (8 + d.length) 64 + if valid w then 1 else 0) (creg s c o) else creg s c o) ∧
        ((K w).take (8 + d.length)).map (peek t) = leBytes 8 (f.row + f.table * 2 ^ 40 + 2 ^ 63) ++ d ∧
        ∀ x, x ∉ (K w).take (8 + d.length) → peek t x = peek s x) ∧
    (∀ (v : Nat) (row n : Nat) (inv : List (Nat × Nat × Nat)) (K : Nat → List Nat), q.invs = (v, n, row) :: inv →
      let mine (f : Fill) : Bool := f.part == v && f.table == n && f.row == row
      let hit (w : Nat) : Prop := tagHits (valAt s ((K w).take 8)) n row = true
      let hits : Nat := ((List.range 4).filter fun w => tagHits (valAt s ((K w).take 8)) n row).length
      let counts (h : Nat) (t : State) : Prop := ∀ o, creg t c o =
        if o = Reg.UPD_FILL then bump32 32 (q.fills.filter mine).length (creg s c o)
        else if o = Reg.UPD_INVAL then bump32 32 h (creg s c o)
        else if o = Reg.BNK_COLLIDE then bump32 32 (h - 2) (creg s c o) else creg s c o
      let after (t : State) : Prop := rest (fun v => { v with regs := [], fills := [], invs := [] }) t ∧ (clu t c).invs = inv ∧
        (clu t c).fills = q.fills.filter fun f => !mine f
      (q.part ≠ some v ∨ cacheSets s c = 0 → v < 16 → Completes (exec (.cacheInvalidate c) s) fun t => after t ∧ counts 0 t ∧ t.mem = s.mem ∧ t.banks = s.banks) ∧
      (q.part = some v → v = p → cacheSets s c ≠ 0 → lines (cacheSet s c n row) K →
        Completes (exec (.cacheInvalidate c) s) fun t => after t ∧ counts hits t ∧
          (∀ w, w < 4 → hit w → ((K w).take 8).map (peek t) = leBytes 8 (valAt s ((K w).take 8) % 2 ^ 63)) ∧
          ∀ x, (∀ w, w < 4 → hit w → x ∉ (K w).take 8) → peek t x = peek s x)) ∧
    (∀ n, HostWrites s p → (∀ d b, (clu s d).part = some p → b < 64 → (bankOf s d b).staged = []) →
      let hit (d i : Nat) : Prop := d < 96 ∧ (clu s d).part = some p ∧ i < 4 * cacheSets s d ∧
        let tag := leNat (peeks s (lineAddr s d i) 8)
        tag.testBit 63 = true ∧ bits tag 51 40 = n % 4096
      Completes (exec (.tblCacheInv p n) s) fun t => { t with clus := s.clus, mem := s.mem } = s ∧
        (∀ d i, hit d i → leNat (peeks t (lineAddr s d i) 8) = leNat (peeks s (lineAddr s d i) 8) % 2 ^ 63) ∧
        (∀ x, (∀ d i, hit d i → ¬ (lineAddr s d i ≤ x ∧ x < lineAddr s d i + 8)) → mget 0 t.mem x = mget 0 s.mem x) ∧
        (∀ d, d < 96 → (clu s d).part = some p → (clu t d).fills = (clu s d).fills.filter (fun f => f.table != n % 4096) ∧
          { clu t d with fills := [], regs := [] } = { clu s d with fills := [], regs := [] } ∧
          ∀ o, creg t d o = if o = Reg.UPD_FILL then bump32 32 ((clu s d).fills.filter (fun f => f.table == n % 4096)).length (creg s d o)
            else if o = Reg.UPD_INVAL then bump32 32 ((List.range (4 * cacheSets s d)).filter fun i =>
              let tag := leNat (peeks s (lineAddr s d i) 8)
              tag.testBit 63 && bits tag 51 40 == n % 4096).length (creg s d o) else creg s d o) ∧
        ∀ d, 96 ≤ d ∨ (clu s d).part ≠ some p → clu t d = clu s d) ∧
    (∀ n j v, HostWrites s p → j < 4 → instOf s p n = none → exec (.updHalt p n v) s = .next s ∧ exec (.gpeHalt p n j v) s = .next s) ∧
    (∀ n j v, HostWrites s p → instOf s p n = some c → j < 4 →
      let halts (t : State) (x : Nat) : Prop := { t with clus := s.clus } = s ∧ (∀ d, d ≠ c → clu t d = clu s d) ∧
        { clu t c with regs := [] } = { q with regs := [] } ∧ ∀ o, creg t c o = if o = x then v % 2 else creg s c o
      (Completes (exec (.updHalt p n v) s) fun t => halts t Reg.UPD_CTRL) ∧
      (Completes (exec (.gpeHalt p n j v) s) fun t => halts t (gpeReg j Reg.GPE_CTRL)))

/-- The home engine's next entry, one that a reset interrupted or else the first queued one, whose shard is homed on the cluster and whose record's header is empty or passes. REPLACE, REPLACE_COND with its expected VERSION, or ACCUMULATE of a permitted payload, and REPLICA of a newer version, write the idle slot only: a coded REPLACE its
codes, the others each element converted (ACCUMULATE with a draw for each, of its sum with the present row), under the next VERSION, or the primary's codes and version; the molt is in flight, its header still to come; clamped elements count, and in ACCUMULATE NaNs.
REPLACE_COND of another VERSION is REFUSED with its outcome byte; a header that fails gives INTEGRITY; an older REPLICA is ignored. MOLT_COMMIT writes the header, invalidates in every cluster of CMASK, and gives APPLIED, to an entry of another module over the fabric. Nothing else in memory changes. Where the next entry is of another operation, the cluster is not on,
its domain frozen, or a molt of the row in flight, and with no entry to take or no such molt, nothing changes. (Outcome bytes in device memory, of batches with more outcomes to come.) -/
def Obligations.MoltsApply : Prop :=
  ∀ (s : State) (c op : Nat) (i : Nat → Instr) (e : UEntry) (S R B O : List Nat),
    let q := clu s c
    let m := Master.upd c
    let d := e.td
    let v := valAt s S
    let sh : Shard := { tier := bits v 1 0, module := bits v 7 2, home := bits v 14 8, rep := bitAt v 15, replica := bits v 21 16, base := bits v 111 64 }
    let h := valAt s (R.take 16)
    let slot (n : Nat) : List Nat := (R.drop (16 + n * slotBytes d)).take (slotBytes d)
    let cb : List Nat := if d.f = .c4 then (List.range 16).map fun i => valAt s ((B.drop (2 * i)).take 2) else []
    let forms := [(0, Instr.moltReplace), (1, .moltAccumulate), (2, .moltReplaceCond), (3, .moltReplica)]
    let same (t : State) : Prop := (∀ x, x ≠ c → clu t x = clu s x) ∧
      { clu t c with uq := [], redo := [], infl := [], regs := [] } = { q with uq := [], redo := [], infl := [], regs := [] } ∧
      (clu t c).redo = q.redo.drop 1 ∧ (clu t c).uq = if q.redo.isEmpty then q.uq.drop 1 else q.uq
    let frame (t : State) : Prop := { t with clus := s.clus, mem := s.mem, srLane := s.srLane } = s ∧ same t
    let flies (t : State) (ver slotn : Nat) (er : Int) (offs : List Nat) (codes : List Byte) : Prop := frame t ∧ codes.length = slotBytes d ∧
      (clu t c).infl = q.infl ++ [{ ent := { e with shard := sh }, addr := rowAddr d sh e.row, hdr := mkHeader ver er d.f slotn offs, codes := codes }] ∧
      (slot slotn).map (peek t) = codes ∧ ∀ x, x ∉ slot slotn → mget 0 t.mem x = mget 0 s.mem x
    let b := batchOf s e.batch
    let outcome (t : State) (code : Nat) : Prop := (batchOf t e.batch) = { b with outc := (batchOf t e.batch).outc } ∧
      (∀ x, mget 0 (batchOf t e.batch).outc x = if x = e.idx then code + 1 else mget 0 b.outc x) ∧ (∀ x, x ≠ e.batch → batchOf t x = batchOf s x) ∧
      (b.kind ≠ 1 → O.map (peek t) = leBytes 1 code)
    let open' : Prop := e.module = 0 ∧ batchOpen s e.batch = true ∧ b.outc.length + 1 < b.n ∧ regionOf (b.out + e.idx) ≠ some 3 ∧
      (b.kind ≠ 1 → Clean s (.upd b.clu) b.part none (b.out + e.idx) 1 O)
    let next' : Prop := q.redo.head? = some e ∨
      (q.redo = [] ∧ q.uq.head? = some e ∧ (creg s c Reg.UPD_CTRL).testBit 0 = false ∧ q.infl.length < 128)
    let flying : Prop := ∃ x ∈ q.infl, x.ent.own = e.own ∧ x.ent.table = e.table ∧ x.ent.row = e.row
    c < 96 → (q.redo = [] → q.uq = [] ∨ (creg s c Reg.UPD_CTRL).testBit 0 = true ∨ 128 ≤ q.infl.length → ∀ x ∈ forms, exec (x.2 c) s = .next s) ∧
    (next' → ∀ x ∈ forms, e.op ≠ x.1 ∨ q.pw ≠ .on ∨ isFrozen s e.own m = true ∨ flying → exec (x.2 c) s = .next s) ∧
    ((op, i) ∈ forms → next' → q.pw = .on → isFrozen s e.own m = false → e.op = op → ¬ flying →
      Clean s m e.own none (d.smap + 16 * (e.row / 2 ^ d.shlog)) 16 S → sh.tier < 2 → sh.home = c →
      Clean s m e.own none (rowAddr d sh e.row) (16 + 2 * slotBytes d) R → R.Nodup → isCode d.f = true →
      (d.f = .c4 → Clean s m e.own none d.cbk 32 B) →
      let next := if hVer h + 1 = 2 ^ 32 then 1 else hVer h + 1
      let passes : Prop := h = 0 ∨ (hdrOk h = true ∧ hTag h = fmtTag d.f)
      let coded : Prop := e.ptag = fmtTag d.f
      let sc := scaleHdr e.payload
      (¬ passes → op ≠ 3 → open' → Completes (exec (i c) s) fun t => outcome t 4 ∧ same t ∧ (clu t c).infl = q.infl ∧
        ∀ x, (b.kind = 1 ∨ x ∉ O) → mget 0 t.mem x = mget 0 s.mem x) ∧
      (passes → op ≠ 3 → (op = 2 → hVer h = e.expect) → (coded → hTag sc = fmtTag d.f ∧ rowEscapes d (e.payload.drop 8) = 0) →
        (coded → op ≠ 1 → e.payload.length = 8 + slotBytes d → Completes (exec (i c) s) fun t => t.srLane = s.srLane ∧ (clu t c).regs = q.regs ∧
          flies t next (1 - hSlot h) (hExp sc) ((List.range ((d.dim + d.s - 1) / d.s)).map (hOff sc)) (e.payload.drop 8)) ∧
        (¬ coded ∨ op = 1 →
          let old (k : Nat) : Nat := if op = 1 ∧ h ≠ 0 then (decodeRow d cb h ((slot (hSlot h)).map (peek s))).getD k 0 else 0
          let x (k : Nat) : FVal := let y := (payloadVals d cb e.ptag e.payload).getD k 0
            fdec .fp32 (if op = 1 then add32 (old k) y else y)
          let xs := (List.range d.dim).map fun k => (x k, k)
          let scale := scaleOfMags {} d.f cb ((runsOf d.s (d.dim + 1) xs).map (groupMags []))
          let elem (u k : Nat) : Nat × Bool := moltElem d.f cb (scale.1 + Int.ofNat (scale.2.getD (k / d.s) 0)) (if op = 1 then some u else none) (x k)
          Completes (exec (i c) s) fun t => (op ≠ 1 → t.srLane = s.srLane) ∧
            (∀ o, creg t c o = if o = Reg.UPD_CLAMPED then bump32 0 ((List.range d.dim).filter fun k => (elem 0 k).2).length (creg s c o)
              else if o = Reg.QNT_SR_NAN ∧ op = 1 then bump32 0 ((List.range d.dim).filter fun k => x k == .nan).length (creg s c o) else creg s c o) ∧
            ∃ codes, flies t next (1 - hSlot h) scale.1 scale.2 codes ∧
            ∀ k, k < d.dim → ∃ u, codeAt d.f (byteOf codes) k = (elem u k).1)) ∧
      (passes → op = 2 → hVer h ≠ e.expect → open' → Completes (exec (i c) s) fun t => outcome t 1 ∧ same t ∧ (clu t c).infl = q.infl ∧
        { t with clus := s.clus, mem := s.mem, batches := s.batches } = s ∧
        (∀ o, creg t c o = if o = Reg.UPD_REFUSED then bump32 0 1 (creg s c o) else creg s c o) ∧
        ∀ x, (b.kind = 1 ∨ x ∉ O) → mget 0 t.mem x = mget 0 s.mem x) ∧
      (passes → op = 3 → let g := leNat (e.payload.take 16)
        hdrOk g = true → hTag g = fmtTag d.f →
        (hVer h < hVer g → e.payload.length = 16 + slotBytes d → Completes (exec (i c) s) fun t => t.srLane = s.srLane ∧ (clu t c).regs = q.regs ∧
          flies t (hVer g) (1 - hSlot h) (hExp g) ((List.range 6).map (hOff g)) (e.payload.drop 16)) ∧
        (hVer g ≤ hVer h → Completes (exec (i c) s) fun t => frame t ∧ t.mem = s.mem ∧ t.srLane = s.srLane ∧ (clu t c).infl = q.infl ∧
          (clu t c).regs = q.regs))) ∧
    (∀ n, q.infl[n]? = none → exec (.moltCommit c n) s = .next s) ∧
    (∀ (n : Nat) (x : Molt) (H : List Nat), q.infl[n]? = some x → x.ent = e → Clean s m e.own none x.addr 16 H → H.Nodup →
      (e.op ≠ 3 → e.module = 0 → open') → (∀ k ∈ O, k ∉ H) →
      let alone : Prop := e.op = 3 ∨ e.shard.rep = false ∨ inDomain s = false
      let away : Prop := e.op ≠ 3 ∧ e.module ≠ 0
      let cs := (clustersOf s e.own).filter fun y => d.cmask.testBit y
      Completes (exec (.moltCommit c n) s) fun t => H.map (peek t) = leBytes 16 x.hdr ∧
        (∀ k, k ∉ H → (e.op = 3 ∨ e.module ≠ 0 ∨ b.kind = 1 ∨ k ∉ O) → mget 0 t.mem k = mget 0 s.mem k) ∧
        (e.op ≠ 3 → e.module = 0 → outcome t 0) ∧ (e.op = 3 ∨ e.module ≠ 0 → t.batches = s.batches) ∧
        { t with clus := s.clus, mem := s.mem, batches := s.batches, links := s.links, dregs := s.dregs } = s ∧
        (alone → ¬ away → t.links = s.links ∧ t.dregs = s.dregs) ∧
        (alone → away → ∀ y, msgFor s e.own (e.module - 1) 3 e.table e.tag (e.row / 2 ^ d.shlog) (leBytes 8 (hVer x.hdr * 2 ^ 32)) = some y →
          t.links = (trySend y s).links ∧ t.dregs = (trySend y s).dregs) ∧ (clu t c).infl = q.infl.eraseIdx n ∧
        (∀ o, creg t c o = if o = Reg.UPD_MOLTS ∧ e.op ≠ 3 then bump32 (if e.op = 1 then 32 else 0) 1 (creg s c o)
          else if o = Reg.UPD_INVAL then bump32 0 cs.length (creg s c o) else creg s c o) ∧
        ∀ y, (y ≠ c → (clu t y).regs = (clu s y).regs ∧ (clu t y).infl = (clu s y).infl) ∧
          (clu t y).invs = (clu s y).invs ++ (if y < 96 ∧ (clu s y).part = some e.own ∧ d.cmask.testBit y = true then [(e.own, e.table, e.row)] else []) ∧
          { clu t y with invs := [], regs := [], infl := [] } = { clu s y with invs := [], regs := [], infl := [] })

/-- UPDATE_JOB of a passing job descriptor puts its batch before the engine under a new number, and the next job that waits for room enters the queue. BATCH_INGEST of a batch, none before it on its route still to be routed, of one entry of its own partition in memory: a permitted operation on a row below ROWS whose shard is local queues the
entry at its home engine with its payload, descriptor and shard, and the batch leaves the intake with its tag (a home with 1,024 entries holds the batch back and sets UPD_ERR bit 1); a refused operation has outcome BAD_ENTRY and a row at or above ROWS ROW_RANGE, in the outcome array, and the batch, then
complete, ends: a host command's record is due with status OK and 1 entry not APPLIED. A header of another FORMAT or of no entry ends a host command's batch with BATCH_FORMAT and changes no byte of memory. With no job or batch, the cluster not on, its domain frozen, a job running or not yet signalled, or a batch held by one before it, nothing changes. (Outcomes in device memory.) -/
def Obligations.BatchesRoute : Prop :=
  ∀ (s : State) (c p : Nat) (ks H E T S O : List Nat), c < 96 →
    let q := clu s c
    let m := Master.upd c
    (q.uj = [] ∨ q.pw ≠ .on ∨ q.ujRun ≠ none ∨ mget none q.sig 6 ≠ none → exec (.updateJob c) s = .next s) ∧
    (∀ j rest, q.uj = j :: rest → isFrozen s (taskOf s j.task).part (.upd c) = true → exec (.updateJob c) s = .next s) ∧
    (q.bq = [] ∨ q.pw ≠ .on → exec (.batchIngest c) s = .next s) ∧
    (∀ id l, q.bq = id :: l → isFrozen s (batchOf s id).part (.upd c) = true ∨ routeHeld s id = true → exec (.batchIngest c) s = .next s) ∧
    (q.pw = .on → isFrozen s p (.upd c) = false → (∀ (j : EJob) (rest : List EJob), q.uj = j :: rest → p = (taskOf s j.task).part → q.ujRun = none → mget none q.sig 6 = none →
      Clean s m p none j.addr 64 ks →
      let w := words8 (ks.map (peek s))
      complOk 32 (bits (w 0) 31 0) (bits (w 0) 63 32) = true → bits (w 0) 3 0 = 4 →
      (syncMet s c (w 7) = false → exec (.updateJob c) s = .next s) ∧ (syncMet s c (w 7) = true → Completes (exec (.updateJob c) s) fun t => { t with clus := s.clus, batches := s.batches, nextBatch := s.nextBatch } = s ∧
        t.nextBatch = s.nextBatch + 1 ∧ (∀ d, d ≠ c → clu t d = clu s d) ∧
        clu t c = { Cluster.refill { q with uj := rest } with ujRun := some s.nextBatch, bq := q.bq ++ [s.nextBatch] } ∧
        ∀ n, batchOf t n = if n = s.nextBatch then { part := p, clu := c, kind := 2, item := j.task, w7 := w 7, addr := bits (w 1) 47 0, out := bits (w 2) 47 0 }
          else batchOf s n)) ∧
    (∀ (id : Nat) (l : List Nat) (td : TabD) (k : Nat),
      let b := batchOf s id
      let a := batchMaster b b.addr
      let w := words8 (H.map (peek s))
      let bytes := bits (w 1) 63 32
      let ended (t : State) : Prop := { t with clus := s.clus, batches := s.batches, remotes := s.remotes, latches := s.latches, mem := s.mem, due := s.due } = s ∧
        batchOpen t id = false ∧ (∀ n, n ≠ id → batchOf t n = batchOf s n) ∧ (∀ d, d ≠ c → clu t d = clu s d) ∧ id ∉ (clu t c).bq ∧
        { clu t c with bq := [], regs := [] } = { q with bq := [], regs := [] }
      q.bq = id :: l → routeHeld s id = false → q.ujRun ≠ some id → (∀ x ∈ s.remotes, x.gather ≠ none ∨ x.batch ≠ id) → batchOpen s id = true → b.part = p → b.clu = c → b.checked = false → b.ring.2 = 0 → b.kind ≠ 1 → Clean s a p none b.addr 32 H →
      complOk 32 (bits (w 0) 31 0) (bits (w 0) 63 32) = true →
      (b.kind = 0 → bits (w 0) 15 0 ≠ 1 ∨ bits (w 1) 31 0 = 0 → Completes (exec (.batchIngest c) s) fun t =>
        t.due = s.due ++ [{ b.due with status := 1, detail := 0x07_000C, rlen := b.n }] ∧ t.mem = s.mem ∧ ended t ∧ t.remotes = s.remotes ∧ (clu t c).regs = q.regs) ∧
      (bits (w 0) 15 0 = 1 → bits (w 1) 31 0 = 1 → bytes = 48 + k → Clean s a p none (b.addr + 32) (16 + k) E →
        let w0 := valAt s (E.take 8)
        let sh : Shard := let v := valAt s S
          { tier := bits v 1 0, module := bits v 7 2, home := bits v 14 8, rep := bitAt v 15, replica := bits v 21 16, base := bits v 111 64 }
        let table := bits w0 51 40
        let row := bits w0 39 0
        let op := bits w0 53 52
        w0.testBit 54 = false → bits w0 63 60 = 0 → table < bits (preg s p Reg.TBL_DIR_COUNT) 12 0 →
        Clean s m p none (bits (preg s p Reg.TBL_DIR_BASE) 47 0 + 64 * table) 64 T →
        complOk 32 (valAt s (T.take 4)) (valAt s ((T.drop 4).take 4)) = true → tabOf (words8 (T.map (peek s))) = some td →
        payloadSize td (bits w0 59 56) = some k → b.next = 0 → b.outc = [] → b.lost = 0 →
        let good : Prop := op ≠ 3 ∧ (op = 1 → td.accOk = true ∧ td.f ≠ .b1 ∧ td.f ≠ .c4)
        let ent : UEntry :=
          { batch := id, idx := 0, own := p, src := p, table := table, row := row, op := op, ptag := bits w0 59 56,
            expect := bits (valAt s ((E.drop 8).take 8)) 31 0, payload := (E.drop 16).map (peek s), td := td, shard := sh }
        (good → row < td.rows → Clean s m p none (td.smap + 16 * (row / 2 ^ td.shlog)) 16 S → sh.tier < 2 → (clu s sh.home).part = some p →
          isFrozen s p (.upd sh.home) = false →
          (1024 ≤ (clu s sh.home).uq.length → Completes (exec (.batchIngest c) s) fun t => { t with clus := s.clus, batches := s.batches } = s ∧
            (∀ n, batchOf t n = if n = id then { b with checked := true, tag := w 2, n := 1, rest := E.map (peek s) } else batchOf s n) ∧
            (∀ d, { clu t d with regs := [] } = { clu s d with regs := [] }) ∧
            ∀ d o x, (creg t d o).testBit x = ((creg s d o).testBit x || (d == sh.home && o == Reg.UPD_ERR && x == 1))) ∧
          ((clu s sh.home).uq.length < 1024 → Completes (exec (.batchIngest c) s) fun t => { t with clus := s.clus, batches := s.batches } = s ∧
            (∀ n, batchOf t n = if n = id then { b with checked := true, tag := w 2, n := 1, next := 1, rest := [] } else batchOf s n) ∧
            (∀ d, { clu t d with bq := [], uq := [] } = { clu s d with bq := [], uq := [] } ∧
              (clu t d).bq = (if d = c then q.bq.filter (· != id) else (clu s d).bq) ∧
              (clu t d).uq = (clu s d).uq ++ (if d = sh.home then [ent] else [])))) ∧
        (∀ code, (¬ good ∧ code = 2) ∨ (good ∧ td.rows ≤ row ∧ code = 3) → b.kind = 0 → regionOf b.out ≠ some 3 → Clean s m p none b.out 1 O →
          Completes (exec (.batchIngest c) s) fun t => O.map (peek t) = leBytes 1 code ∧ (∀ x, x ∉ O → mget 0 t.mem x = mget 0 s.mem x) ∧
            t.due = s.due ++ [{ b.due with status := 0, detail := 1, rlen := 1 }] ∧ ended t ∧ t.latches = s.latches ∧ t.remotes = s.remotes ∧
            ∀ o, creg t c o = if o = Reg.UPD_REFUSED then bump32 32 1 (creg s c o) else creg s c o))))

/-- A ROW_READ for a local partition and a row of a shard in this module is answered with ROW_DATA of the row's header and live codes, one for a table beyond the directory with an empty ROW_DATA (the model's, log 22), one for no local partition is refused. MOLT and REPLICA deliver their entry to the
queue of the home engine; at a full one they wait. ROW_DATA gives the waiting row its elements; OUTCOME gives a remote molt its outcome. REFUSE, and the lapse of TBL_REMOTE_WAIT, fail a read's row as REMOTE_UNREACHABLE, which without DROP_ROW ends its task, and end a molt as UNREACHABLE or UNCONFIRMED, counted at its engine;
a lapsed read of a replicated shard with a path goes once to the replica, under a new tag. A message of another kind at the front, and no message, change nothing; a response whose tag nothing waits for is dropped. (For a read's row: while another row of the bag waits for a retry and none is still to begin, so that the job goes on waiting; of a molt: with more outcomes to come, in device memory.) -/
def Obligations.RemoteAnswers : Prop :=
  ∀ (s : State) (x : Msg) (rest : List Msg) (T S R : List Nat) (td : TabD) (p : Nat),
    let s1 : State := { s with reqIn := rest }
    let row : Nat := leNat (x.payload.take 8) % 2 ^ 40
    let sh : Shard := let v := valAt s S
      { tier := bits v 1 0, module := bits v 7 2, home := bits v 14 8, rep := bitAt v 15, replica := bits v 21 16, base := bits v 111 64 }
    let table : Prop := x.table < bits (preg s p Reg.TBL_DIR_COUNT) 12 0 ∧ Clean s .fw p none (bits (preg s p Reg.TBL_DIR_BASE) 47 0 + 64 * x.table) 64 T ∧
      complOk 32 (valAt s (T.take 4)) (valAt s ((T.drop 4).take 4)) = true ∧ tabOf (words8 (T.map (peek s))) = some td ∧ row < td.rows ∧
      Clean s .fw p none (td.smap + 16 * (row / 2 ^ td.shlog)) 16 S ∧ sh.tier < 2 ∧ (clu s sh.home).part = some p
    (∀ (i : Instr) (k : Nat), (k, i) ∈ [(0, Instr.rowRead 0), (2, .molt), (4, .replica)] →
      (s.reqIn = [] ∨ (s.reqIn = x :: rest ∧ x.kind ≠ k)) → exec i s = .next s) ∧
    (∀ (i : Instr) (k : Nat), (k, i) ∈ [(1, Instr.rowData []), (3, .outcome), (5, .refuse [])] →
      (s.rspIn = [] ∨ (s.rspIn = x :: rest ∧ x.kind ≠ k) → exec i s = .next s) ∧
      (s.rspIn = x :: rest → x.kind = k → (∀ r ∈ s.remotes, r.tag ≠ x.tag) → exec i s = .next { s with rspIn := rest })) ∧
    (∀ n ov, (∀ r ∈ s.remotes, r.tag ≠ n) → exec (.remoteWaitExpiry n ov) s = .next s) ∧
    (s.reqIn = x :: rest → dpartLocal s x.dpart = none → (x.kind = 0 → ∀ n, exec (.rowRead n) s = .next (trySend (reply x 5 [] s1) s1)) ∧
      (x.kind = 2 → exec .molt s = .next (trySend (reply x 5 [] s1) s1)) ∧ (x.kind = 4 → exec .replica s = .next (trySend (reply x 5 [] s1) s1))) ∧
    (s.reqIn = x :: rest → dpartLocal s x.dpart = some p → x.kind = 0 → bits (preg s p Reg.TBL_DIR_COUNT) 12 0 ≤ x.table →
      ∀ n, exec (.rowRead n) s = .next (trySend (reply x 1 [] s1) s1)) ∧
    (s.reqIn = x :: rest → dpartLocal s x.dpart = some p → table →
      (x.kind = 0 → Clean s (.upd sh.home) p none (rowAddr td sh row) (16 + 2 * slotBytes td) R →
        let h := valAt s (R.take 16)
        (h = 0 → exec (.rowRead 0) s = .next (trySend (reply x 1 (leBytes 16 0) s1) s1)) ∧
        (h ≠ 0 → hdrOk h = true → hTag h = fmtTag td.f → exec (.rowRead 0) s = .next (trySend (reply x 1
          (leBytes 16 h ++ ((R.drop (16 + hSlot h * slotBytes td)).take (slotBytes td)).map (peek s)) s1) s1))) ∧
      (∀ i, (x.kind, i) ∈ [(2, Instr.molt), (4, .replica)] →
        let w0 := leNat (x.payload.take 8)
        let ent : UEntry :=
          { own := p, src := p, table := x.table, row := row, op := if x.kind = 4 then 3 else bits w0 53 52, ptag := bits w0 59 56,
            expect := bits (leNat ((x.payload.drop 8).take 8)) 31 0, payload := x.payload.drop 16, td := td, shard := sh,
            module := x.src + 1, tag := x.tag }
        (x.kind = 2 → bits w0 53 52 ≠ 3 ∧ (bits w0 53 52 = 1 → td.accOk = true ∧ td.f ≠ .b1 ∧ td.f ≠ .c4)) →
        (1024 ≤ (clu s sh.home).uq.length → exec i s = .next (flagC sh.home Reg.UPD_ERR 1 s)) ∧
        ((clu s sh.home).uq.length < 1024 → isFrozen s p (.upd sh.home) = false →
          exec i s = .next (modClu sh.home (fun q => { q with uq := q.uq ++ [ent] }) s1)))) ∧
    (∀ (r : Remote) (l n : List Remote) (ov O : List Nat), s.remotes = l ++ r :: n → (∀ y ∈ l, y.tag ≠ r.tag) →
      (r.gather = none →
        let b := batchOf s r.batch
        let done (t : State) (code counted : Nat) : Prop := t.remotes = l ++ n ∧ batchOf t r.batch = { b with outc := (batchOf t r.batch).outc } ∧
          (∀ y, mget 0 (batchOf t r.batch).outc y = if y = r.idx then code + 1 else mget 0 b.outc y) ∧ (∀ y, y ≠ r.batch → batchOf t y = batchOf s y) ∧
          (b.kind ≠ 1 → O.map (peek t) = leBytes 1 code) ∧ (∀ y, b.kind = 1 ∨ y ∉ O → mget 0 t.mem y = mget 0 s.mem y) ∧
          (∀ d, { clu t d with regs := [] } = { clu s d with regs := [] }) ∧
          ∀ d o, creg t d o = if d = b.clu ∧ o = Reg.UPD_REFUSED then bump32 32 counted (creg s d o) else creg s d o
        let only (t : State) (u : State) : Prop := { t with clus := s.clus, batches := s.batches, mem := s.mem, remotes := s.remotes } = u
        batchOpen s r.batch = true → b.outc.length + 1 < b.n → regionOf (b.out + r.idx) ≠ some 3 →
        (b.kind ≠ 1 → Clean s (.upd b.clu) b.part none (b.out + r.idx) 1 O) →
        (s.rspIn = x :: rest → x.kind = 3 → x.tag = r.tag → (∀ y ∈ l, y.gather = none → y.tag ≠ x.tag) →
          Completes (exec .outcome s) fun t => done t (leNat (x.payload.take 1)) 0 ∧ only t { s with rspIn := rest }) ∧
        (s.rspIn = x :: rest → x.kind = 5 → x.tag = r.tag → Completes (exec (.refuse ov) s) fun t => done t 9 1 ∧ only t { s with rspIn := rest }) ∧
        Completes (exec (.remoteWaitExpiry r.tag ov) s) fun t => done t 8 1 ∧ only { t with parts := s.parts } s ∧
          (∀ y, { part t y with regs := [] } = { part s y with regs := [] }) ∧
          ∀ y o k, (preg t y o).testBit k = ((preg s y o).testBit k || (y == r.part && o == Reg.TBL_ERR && k == 1))) ∧
      (∀ c j pos (g : GRun) (L : List RowRes) (y : RowRes), r.gather = some (c, j, pos) → c < 96 → mget none (clu s c).gRun j = some g → g.td.f ≠ .c4 →
        let z := gsetOf (fun i => g.w.getD i 0)
        g.rows = some L → g.bag < z.bags → pos < L.length → (∃ k a b z, k ≠ pos ∧ L[k]? = some (.retry a b z)) → .todo ∉ L →
        let rest' (t : State) : Prop := t.remotes = l ++ n ∧ t.mem = s.mem ∧ (∀ d, d ≠ c → clu t d = clu s d) ∧
          { clu t c with regs := [], gRun := [], fills := [] } = { clu s c with regs := [], gRun := [], fills := [] }
        let has (t : State) (v : RowRes) : Prop := rest' t ∧
          ∀ i, mget none (clu t c).gRun i = if i = j then some { g with rows := some (L.set pos v) } else mget none (clu s c).gRun i
        let ends (t : State) : Prop := t.mem = s.mem ∧ mget none (clu t c).gRun j = none ∧
          t.reports = s.reports ++ [{ task := g.job.task, status := 1, detail := 0x07_0009, clu := c }]
        (s.rspIn = x :: rest → x.kind = 1 → x.tag = r.tag → x.payload ≠ [] → (z.drop = true ∨ failures L = []) →
          let h := leNat (x.payload.take 16)
          (h = 0 ∨ (hdrOk h = true ∧ hTag h = fmtTag g.td.f)) →
          y = .got (if h = 0 then List.replicate g.td.dim 0 else decodeRow g.td [] h (x.payload.drop 16)) →
          Completes (exec (.rowData ov) s) fun t => has t y ∧ (clu t c).fills = (clu s c).fills ∧
            { t with clus := s.clus, remotes := s.remotes, rspIn := s.rspIn } = s ∧ t.rspIn = rest) ∧
        (let fails (o : Out) (P : State → Prop) : Prop :=
            (z.drop = true → y = .failed r.row 1 0x07_0009 → Completes o fun t => has t y ∧ P t) ∧
            (z.drop = false → failures L = [] → Completes o fun t => ends t ∧ P t)
          let nowhere : Prop := r.shard.rep = false ∨ r.fell = true ∨
            ((msgFor s r.own r.shard.replica 0 r.table s.nextTag (r.row / 2 ^ g.td.shlog) (leBytes 8 r.row)).bind fun z => sendMsg z none s) = none
          (s.rspIn = x :: rest → x.kind = 5 → x.tag = r.tag → fails (exec (.refuse ov) s) fun t => t.rspIn = rest) ∧
          (nowhere → fails (exec (.remoteWaitExpiry r.tag ov) s) fun t => (preg t r.part Reg.TBL_ERR).testBit 1 = true)) ∧
        (∀ z u, r.shard.rep = true → r.fell = false → msgFor s r.own r.shard.replica 0 r.table s.nextTag (r.row / 2 ^ g.td.shlog) (leBytes 8 r.row) = some z →
          sendMsg z none s = some u → Completes (exec (.remoteWaitExpiry r.tag ov) s) fun t => t.remotes = l ++ n ++ [{ r with tag := s.nextTag, fell := true }] ∧
            t.nextTag = (s.nextTag + 1) % 2 ^ 32 ∧ t.links = u.links ∧ t.dregs = u.dregs ∧
            { t with remotes := s.remotes, nextTag := s.nextTag, links := s.links, dregs := s.dregs, parts := s.parts } = s ∧
            ∀ y o k, (preg t y o).testBit k = ((preg s y o).testBit k || (y == r.part && o == Reg.TBL_ERR && k == 1)))))

/-- For a message that leaves by direction d, whether it begins here or is forwarded: the link whose flits it joins is an active link of d, the number of active links of d below it is
(DST + 5 DPART + 3 TABLE + SHARD[25:0]) mod A, A their number, and no other link changes. (A flow that is still moving there, of which an active link of d holds flits, goes on using that link, as R453 says.) -/
def Obligations.FlowsUseOneLink : Prop :=
  ∀ (s : State) (m : Msg) (came : Option (Nat × Nat)) (d : Nat), routeDir s m.dst = some d →
    let a := activeLinks s d
    let holds (x : Nat) : Bool := holdsFlow (linkOf s x) (flowOf m)
    ∃ t l, sendMsg m came s = some t ∧ l ∈ a ∧ ((∃ x ∈ a, holds x = true) → holds l = true) ∧ ((∀ x ∈ a, holds x = false) →
      (a.filter fun x => decide (x < l)).length = (m.dst + 5 * m.dpart + 3 * m.table + m.shard % 2 ^ 26) % a.length) ∧
      (∀ x, x ≠ l → linkOf t x = linkOf s x) ∧
      (linkOf t l).replay.length + (linkOf t l).txq.length =
        (linkOf s l).replay.length + (linkOf s l).txq.length + (cutFlits (m.payload.length + 17) (msgBytes m)).length

/-- FLIT_RECEIVE on a link in service. A flit with a good CRC acknowledges the replay buffer, and the transmitter grants what it can; a data flit of the next SEQ is taken: its payload joins its channel's bytes and a whole message goes to the requests, responses or, for another module, to the transit queue, and its credits go back. A
control flit returns credits. An uncorrectable codeword, a bad CRC or type or another SEQ discards the flit, with a NAK of the last good SEQ unless one is outstanding. NAK_REPLAY and ACK_TIMEOUT_REPLAY replay every flit held, in order; more than the REPLAY_LIMIT of the link's last training
replays in a millisecond begin a retrain. FABRIC_FORWARD sends the first message in transit on, or counts it as unreachable. On a link not in service, with no flit held for a timeout, and with nothing in transit, nothing changes. -/
def Obligations.FlitsAndReplay : Prop :=
  ∀ (s : State) (l fec : Nat) (bytes : List Byte) (cr : List Nat), l < 16 →
    let v := linkOf s l
    let w := leNat (bytes.take 4)
    let rx := exec (.flitReceive l fec bytes cr) s
    let good : Prop := bytes.length = 256 ∧ v.inj = false ∧ fec < 2 ∧ bits w 1 0 < 3 ∧ crc32c (bytes.take 252) = leNat (bytes.drop 252)
    let acked : Link := ackTo (bits w 27 16) v
    let pump (v : Link) : Link := pumpLink (txShares s l) (v.txq.length + 1) v
    let only (t : State) (sent : List (Nat × List Nat)) : Prop := { t with links := s.links, dregs := s.dregs, sent := s.sent } = s ∧
      (∀ x, x ≠ l → linkOf t x = linkOf s x) ∧ t.sent = s.sent ++ sent
    let counts (t : State) (u : Link) (rcvd bad uncorr again : Nat) : Prop := ∀ o, dreg t o =
      if o = lnkReg l Reg.LNK_FLITS then bump32 32 rcvd (bump32 0 (u.sent / 65536 - v.sent / 65536) (dreg s o))
      else if o = lnkReg l Reg.LNK_FEC then bump32 32 uncorr (bump32 0 (fec % 2) (dreg s o))
      else if o = lnkReg l Reg.LNK_REPLAY then bump32 32 bad (bump32 0 again (dreg s o)) else dreg s o
    let nak : List (Nat × List Nat) := if v.naked then [] else [(7, [l, (v.rxNext + 4095) % 4096])]
    let again (t : State) (v : Link) : Prop := t.sent = s.sent ++ [(8, l :: v.replay.map fun f => f.seq)] ∧
      dreg t (lnkReg l Reg.LNK_REPLAY) = bump32 0 1 (dreg s (lnkReg l Reg.LNK_REPLAY))
    let replays (o : Out) (v : Link) : Prop :=
      let n : Nat := if v.ms = s.now / 25000 then v.replays + 1 else 1
      (n ≤ bits v.pol 23 16 → Completes o fun t => only t [(8, l :: v.replay.map fun f => f.seq)] ∧
        (∀ o, dreg t o = if o = lnkReg l Reg.LNK_REPLAY then bump32 0 1 (dreg s o) else dreg s o) ∧
        linkOf t l = { v with ms := s.now / 25000, replays := n }) ∧
      (bits v.pol 23 16 < n → Completes o fun t => again t v ∧ lnkState t l = 5 ∧
        dreg t (lnkReg l Reg.LNK_TRAINS) = bump32 0 1 (dreg s (lnkReg l Reg.LNK_TRAINS)))
    (lnkState s l ≠ 3 ∨ bytes.length ≠ 256 → rx = .next s) ∧
    (lnkState s l ≠ 3 → ∀ seq, exec (.nakReplay l seq) s = .next s) ∧
    (lnkState s l ≠ 3 ∨ v.replay = [] → exec (.ackTimeoutReplay l) s = .next s) ∧ (s.transit = [] → exec .fabricForward s = .next s) ∧
    (lnkState s l = 3 →
      (good → bits w 1 0 = 0 → bits w 15 4 = v.rxNext →
        let u := pump acked
        let b := mget [] v.rxb (bits w 3 2) ++ (bytes.drop 4).take 248
        let takes (t : State) (rest : List Byte) : Prop := counts t u (if (v.rcvd + 1) % 65536 = 0 then 1 else 0) 0 0 0 ∧
          linkOf t l = { u with rxNext := (v.rxNext + 1) % 4096, naked := false, rcvd := v.rcvd + 1, rxb := mset [] v.rxb (bits w 3 2) rest }
        (takeMsg b = none → Completes rx fun t => takes t b ∧ only t []) ∧
        (∀ m rest, takeMsg b = some (m, rest) →
          let m : Msg := { m with link := l, vc := bits w 3 2 }
          let freed : List (Nat × List Nat) := [(17, [l, bits w 3 2, (b.length - rest.length) / 248])]
          (m.dst ≠ moduleIndex s → Completes rx fun t => takes t rest ∧
            only { t with transit := s.transit } freed ∧ t.transit = s.transit ++ [m]) ∧
          (m.dst = moduleIndex s → isResponse m.kind = true → Completes rx fun t => takes t rest ∧
            only { t with rspIn := s.rspIn } freed ∧ t.rspIn = s.rspIn ++ [m]) ∧
          (m.dst = moduleIndex s → isResponse m.kind = false → m.kind < 6 → Completes rx fun t => takes t rest ∧
            only { t with reqIn := s.reqIn } freed ∧ t.reqIn = s.reqIn ++ [m]))) ∧
      (good → bits w 1 0 = 1 → Completes rx fun t => only t [] ∧ counts t (pump (addCredits cr acked)) 0 0 0 0 ∧
        linkOf t l = pump (addCredits cr acked) ∧ ∀ c, mget 0 (addCredits cr acked).used c = mget 0 v.used c - (if c < 4 then cr.getD c 0 else 0)) ∧
      (good → bits w 1 0 = 2 → Completes rx fun t => only t [] ∧ counts t (pump acked) 0 0 0 0 ∧ linkOf t l = pump acked) ∧
      (good → bits w 1 0 = 0 → bits w 15 4 ≠ v.rxNext → Completes rx fun t => only t nak ∧ counts t (pump acked) 0 0 0 0 ∧
        linkOf t l = { pump acked with naked := true }) ∧
      (bytes.length = 256 → fec < 2 → (v.inj = true ∨ bits w 1 0 = 3 ∨ crc32c (bytes.take 252) ≠ leNat (bytes.drop 252)) → Completes rx fun t =>
        only t nak ∧ counts t v 0 1 0 0 ∧ linkOf t l = { v with naked := true, inj := false }) ∧
      (bytes.length = 256 → fec = 2 → Completes rx fun t => only t nak ∧ counts t v 0 0 1 0 ∧ linkOf t l = { v with naked := true }) ∧
      (∀ seq, replays (exec (.nakReplay l seq) s) (ackTo (seq % 4096) v)) ∧
      (v.replay ≠ [] → replays (exec (.ackTimeoutReplay l) s) v)) ∧
    (∀ (m : Msg) (r : List Msg), s.transit = m :: r →
      let s1 : State := { s with transit := r }
      (∀ d, routeDir s m.dst = some d → Completes (exec .fabricForward s) fun t => sendMsg m (some (m.link / 4, m.vc)) s1 = some t) ∧
      (routeDir s m.dst = none → Completes (exec .fabricForward s) fun t => { t with dregs := s.dregs } = s1 ∧ ∀ o, dreg t o =
        if o = Reg.LNK_UNREACH then bump32 0 1 (dreg s o) else if o = Reg.LNK_ERR then orBit (dreg s o) 3 else dreg s o))

/-- LINK_TRAIN of a link that is DOWN or training: with lock, a width that the policy permits and the partner R439 asks for, it goes to SOAK with the lowest good lanes of its width in use; with fewer than two good
lanes or no lock it is EXCLUDED with reason 1, by policy with 2, by its partner with 3. The soak's end brings it UP, or excludes it with reason 4. Loss of lock and RETRAIN take it out of service, RETRAINING, counted; the retrain's end
brings it UP, or excludes it with reason 5 and a record. Each training takes LNK_POLICY's value for the link. DISABLE makes it DISABLED, and clearing DISABLE makes that DOWN. LNK_DOMAIN takes a placement inside its domain while no link runs; while one runs the write is a violation. In any other state of the link, and before service for RETRAIN, DISABLE and LNK_DOMAIN, nothing changes. -/
def Obligations.LinksTrain : Prop :=
  ∀ (s : State) (l good ser : Nat) (lock uncorr : Bool) (p : Partner), l < 16 →
    let pol := dreg s Reg.LNK_POLICY
    let lanes := goodLanes s l good
    let soaks (t : State) (code k : Nat) : Prop := lnkState t l = 2 ∧ bits (dreg t (lnkReg l Reg.LNK_STATUS)) 4 3 = code ∧
      bits (dreg t (lnkReg l Reg.LNK_STATUS)) 13 8 = p.index % 64 ∧ bits (dreg t (lnkReg l Reg.LNK_STATUS)) 17 14 = p.link % 16 ∧
      (∀ i, i < 9 → (dreg t (lnkReg l Reg.LNK_LANES)).testBit i = (lanes.testBit i && decide (((List.range i).filter fun x => lanes.testBit x).length < k)) ∧
        (dreg t (lnkReg l Reg.LNK_LANES)).testBit (16 + i) = !lanes.testBit i)
    let out (t : State) (reason : Nat) : Prop := lnkState t l = 4 ∧ bits (dreg t (lnkReg l Reg.LNK_STATUS)) 7 5 = reason ∧
      (dreg t Reg.LNK_ERR).testBit 1 = true ∧ (dreg t Reg.LNK_DIRS).testBit l = false
    let except (t : State) (os : List Nat) : Prop := ∀ o, o ∉ os → dreg t o = dreg s o
    let own := [lnkReg l Reg.LNK_STATUS, lnkReg l Reg.LNK_LANES, Reg.LNK_ERR, Reg.LNK_DIRS]
    let taken (t : State) : Prop := (∀ x, linkOf t x = if x = l then { linkOf s l with pol := pol } else linkOf s x)
    let trains (t : State) : Prop := { t with dregs := s.dregs, links := s.links } = s ∧ taken t ∧ except t own
    let regs (t : State) (os : List Nat) : Prop := { t with dregs := s.dregs } = s ∧ except t (os ++ own)
    let permits (code : Nat) : Prop := code = 0 ∨ (pol.testBit 2 = true ∧ code ≤ bits pol 1 0)
    let starts : Prop := linksStarted s = true ∧ dirCounted s (l / 4) = true ∧ lnkState s l < 2
    let leaves (t : State) : Prop := lnkState t l = 5 ∧ (dreg t Reg.LNK_DIRS).testBit l = false ∧ t.mem = s.mem ∧
      dreg t (lnkReg l Reg.LNK_TRAINS) = bump32 0 1 (dreg s (lnkReg l Reg.LNK_TRAINS)) ∧
      t.dueErr.length = s.dueErr.length + 1 ∧ dreg t Reg.ERR_EVENTS = bump32 0 1 (dreg s Reg.ERR_EVENTS)
    (¬ starts → exec (.linkTrain l good lock p) s = .next s) ∧ (lnkState s l ≠ 2 → exec (.linkSoakEnd l ser uncorr) s = .next s) ∧
    (lnkState s l ≠ 3 → exec (.linkLossOfLock l) s = .next s) ∧ (lnkState s l ≠ 5 → exec (.liveRetrainEnd l good lock p ser uncorr) s = .next s) ∧
    (served s = false ∨ dirCounted s (l / 4) = false ∨ lnkState s l ∉ [0, 3, 4] → exec (.retrain l) s = .next s) ∧
    (served s = false → (∀ d, exec (.linkDisable l d) s = .next s) ∧ ∀ v, exec (.lnkDomainWrite v) s = .next s) ∧
    (∀ code k, starts → widthOf lanes = some (code, k) → lock = true → permits code → partnerOk s l p = true →
      Completes (exec (.linkTrain l good lock p) s) fun t => trains t ∧ soaks t code k) ∧
    (starts → (widthOf lanes = none ∨ lock = false) → Completes (exec (.linkTrain l good lock p) s) fun t => trains t ∧ out t 1) ∧
    (∀ code k, starts → widthOf lanes = some (code, k) → lock = true → ¬ permits code →
      Completes (exec (.linkTrain l good lock p) s) fun t => trains t ∧ out t 2) ∧
    (∀ code k, starts → widthOf lanes = some (code, k) → lock = true → permits code → partnerOk s l p = false →
      Completes (exec (.linkTrain l good lock p) s) fun t => trains t ∧ out t 3 ∧ (dreg t Reg.LNK_ERR).testBit 0 = true) ∧
    (lnkState s l = 2 → Completes (exec (.linkSoakEnd l ser uncorr) s) fun t => regs t [lnkReg l Reg.LNK_SER] ∧ dreg t (lnkReg l Reg.LNK_SER) = min ser (2 ^ 32 - 1) ∧
      (ser ≤ 20000 ∧ uncorr = false → lnkState t l = 3 ∧ (served s = true → (dreg t Reg.LNK_DIRS).testBit l = true)) ∧
      (20000 < ser ∨ uncorr = true → out t 4)) ∧
    (lnkState s l = 3 → Completes (exec (.linkLossOfLock l) s) leaves) ∧
    (served s = true → dirCounted s (l / 4) = true → lnkState s l = 3 ∨ lnkState s l = 4 ∨ lnkState s l = 0 → Completes (exec (.retrain l) s) fun t =>
      lnkState t l = 5 ∧ t.mem = s.mem ∧ dreg t (lnkReg l Reg.LNK_TRAINS) = bump32 0 1 (dreg s (lnkReg l Reg.LNK_TRAINS)) ∧
      (lnkState s l = 3 → leaves t)) ∧
    (lnkState s l = 5 →
      (∀ code k, widthOf lanes = some (code, k) → lock = true → permits code → partnerOk s l p = true → ser ≤ 20000 → uncorr = false →
        Completes (exec (.liveRetrainEnd l good lock p ser uncorr) s) fun t => lnkState t l = 3 ∧ dreg t (lnkReg l Reg.LNK_SER) = ser ∧ t.mem = s.mem ∧
          (served s = true → (dreg t Reg.LNK_DIRS).testBit l = true) ∧ ∀ x, x ≠ l → linkOf t x = linkOf s x) ∧
      (widthOf lanes = none ∨ lock = false ∨ (∃ code k, widthOf lanes = some (code, k) ∧ ¬ permits code) ∨ partnerOk s l p = false ∨ 20000 < ser ∨
        uncorr = true →
        Completes (exec (.liveRetrainEnd l good lock p ser uncorr) s) fun t => out t 5 ∧ taken t ∧ t.mem = s.mem ∧
          t.dueErr.length = s.dueErr.length + 1)) ∧
    (served s = true →
      (Completes (exec (.linkDisable l true) s) fun t => lnkState t l = 6 ∧ dreg t (lnkReg l Reg.LNK_CTRL) = 1 ∧
        (lnkState s l = 3 → (dreg t Reg.LNK_DIRS).testBit l = false) ∧ t.mem = s.mem) ∧
      (lnkState s l = 6 → Completes (exec (.linkDisable l false) s) fun t => regs t [lnkReg l Reg.LNK_CTRL] ∧ lnkState t l = 0 ∧
        dreg t (lnkReg l Reg.LNK_CTRL) = 0) ∧
      (lnkState s l ≠ 6 → Completes (exec (.linkDisable l false) s) fun t => { t with dregs := s.dregs } = s ∧
        ∀ o, dreg t o = if o = lnkReg l Reg.LNK_CTRL then 0 else dreg s o) ∧
      (∀ v, let inside : Prop := 0 < bits v 35 32 ∧ bits v 35 32 ≤ 8 ∧ 0 < bits v 39 36 ∧ bits v 39 36 ≤ 8 ∧ bits v 42 40 < bits v 35 32 ∧ bits v 45 43 < bits v 39 36
        let run : Prop := ∃ x, x < 16 ∧ lnkState s x ≠ 0 ∧ lnkState s x ≠ 4 ∧ lnkState s x ≠ 6
        (¬ run → inside → Completes (exec (.lnkDomainWrite v) s) fun t => { t with dregs := s.dregs } = s ∧ ∀ o, dreg t o =
          if o = Reg.LNK_DOMAIN then bits v 45 0 + (8 * bits v 45 43 + bits v 42 40) * 2 ^ 46 else dreg s o) ∧
        (¬ run → ¬ inside → exec (.lnkDomainWrite v) s = .next s) ∧
        (run → Completes (exec (.lnkDomainWrite v) s) fun t => { t with dregs := s.dregs, dueErr := s.dueErr } = s ∧
          dreg t Reg.LNK_DOMAIN = dreg s Reg.LNK_DOMAIN ∧ (dreg t Reg.PMAP_ERR).testBit 1 = true ∧ t.dueErr.length = s.dueErr.length + 1)))

/-- BANK_ACCESS of one word, permitted and awake: it loses the cycle, counted, while the port is held, while two staged words wait (the oldest drains) or to a rival of its bank that stands ahead by promotion, class or place; else it takes the port and reads, stores or updates its bytes, a
narrow write and an atomic holding the port for a second cycle; in a commit cycle of its word a read answers BUSY. Outside the banks it is performed at once. An update or vector domain's violation freezes it. OWNER_HANDOVER drains the bank and sets the owner with its complement; STAGING_DRAIN drains the oldest word; an owner register's write starts a handover where the host may,
sets BNK_ERR for a bad complement, and is else an ownership violation. A window access at basic level, or from BNK_WIN_BASE, reads or stores, wakes a sleeping cluster and waits, or, through CXL.mem with no partition there, answers poison. The scrub clears a corrected word and latches an uncorrectable one; bytes that go bad (operands, log 78) change no byte of another word.
What names nothing, no pending owner or staged word, a frozen or absent requester, a sleeping cluster, an access over two words and a window access beyond its size change nothing. (Staged words without errors.) -/
def Obligations.BanksAndWindows : Prop :=
  ∀ (s : State) (p c b : Nat) (ks : List Nat) (l : List Byte),
    let v := bankOf s c b
    let q := clu s c
    let bank (t : State) (x : Bank) : Prop := bankOf t c b = x ∧ ∀ n, n ≠ 576 * c + b → mget {} t.banks n = mget {} s.banks n
    let counts (t : State) (f : Nat → Nat → Nat) : Prop := ∀ o, creg t c o = f o (creg s c o)
    let on (o lo : Nat) : Nat → Nat → Nat := fun x w => if x = o then bump32 lo 1 w else w
    let quiet (t : State) : Prop := { t with clus := s.clus, banks := s.banks, mem := s.mem, ans := s.ans, fresh := s.fresh } = s ∧ (∀ d, d ≠ c → clu t d = clu s d) ∧
      { clu t c with regs := [] } = { clu s c with regs := [] }
    let sound (e : Staged) : Prop := mget 0 s.ecc e.word = 0 ∧ mget 0 s.inj e.word = 0
    (∀ (m : Master) (who : Requester) (a : Nat) (op : BankOp) (rivals : List Requester) (commit : Bool), sends m who op = true →
      let n := opSize op
      let o := reqOrder who
      let go := exec (.bankAccess m who a op rivals commit) s
      let acc := rights s p a m who
      let dom := actingFor s m who
      let lose (x : Bank) : Bank := { x with lost := mset 0 v.lost o (mget 0 v.lost o + 1) }
      let word := wordKey (a % 2 ^ 37)
      let ahead (r : Requester) : Prop := r ∈ rivals ∧ competes v.code r = true ∧ reqOrder r ≠ o
      (masterPart s m who = none ∨ (masterPart s m who = some p ∧ (isFrozen s p m = true ∨ n = 0 ∨
        (regionOf a = some 0 ∧ (wordKey a ≠ wordKey (a + n - 1) ∨ sleepsAt s p a ≠ none)))) → go = .next s) ∧
      (masterPart s m who = some p → isFrozen s p m = false → 0 < n →
      (regionOf a ≠ some 0 → Clean s acc p dom a n ks → (∀ k, op = .read k → go = .next { s with ans := (0, ks.map (peek s)) }) ∧
        (op = .write l → Completes go fun t => Stored s t ks l ∧ { t with mem := s.mem } = s)) ∧
      (wordKey a = wordKey (a + n - 1) → regionOf a = some 0 → bankOfKey (a % 2 ^ 37) = (c, b) → sleepsAt s p a = none →
      (runEM (keysOf acc p dom a n) s = .good ks s →
        (v.busy2 = true → Completes go fun t => bank t { v with busy2 := false } ∧ quiet t ∧
          t.mem = s.mem ∧ t.ans = s.ans ∧ t.fresh = s.fresh ∧ counts t (on Reg.BNK_COLLIDE 0)) ∧
        (∀ e r, v.busy2 = false → v.staged = e :: r → r ≠ [] → sound e → Completes go fun t =>
          bank t { v with staged := r } ∧ quiet t ∧ t.mem = (drainEntry e s).mem ∧ t.ans = s.ans ∧ t.fresh = s.fresh ∧
          counts t fun x w => if x = Reg.BNK_COLLIDE then bump32 32 1 (bump32 0 1 w) else w) ∧
        (v.busy2 = false → v.staged.length < 2 → (∃ r, ahead r ∧ outranks v r who = true) →
          Completes go fun t => bank t (lose v) ∧ quiet t ∧ t.mem = s.mem ∧ t.ans = s.ans ∧ t.fresh = s.fresh ∧ counts t (on Reg.BNK_COLLIDE 0)) ∧
        (v.busy2 = false → v.staged.length < 2 → (∀ r, ahead r → outranks v r who = false) →
          let paid : Prop := promoted v who = true ∧ ∃ r, ahead r ∧ reqOrder r < o
          let takes (t : State) (two : Bool) : Prop := bank t { v with lost := merase v.lost o, busy2 := two }
          let promote (w : Nat) (x : Nat) : Prop := (paid → x = bump32 0 1 w) ∧ (¬ paid → x = w)
          (opReads op = true → commit = true → (∃ e ∈ v.staged, e.word = word) → who ≠ .observe → Completes go fun t =>
            takes t (opTwice word op) ∧ t.ans.1 = 5 ∧ t.ans.2.length = n ∧ t.mem = s.mem ∧ quiet { t with cells := s.cells } ∧
            creg t c Reg.BNK_BUSY_RESP = bump32 0 1 (creg s c Reg.BNK_BUSY_RESP) ∧ ((∀ d k, m ≠ .cell d k) → t.cells = s.cells) ∧
            ∀ d k, m = .cell d k → OnlyCell s { t with clus := s.clus, banks := s.banks, ans := s.ans, fresh := s.fresh } d k ∧
              { cellOf t d k with cnt := [] } = { cellOf s d k with cnt := [] } ∧
              ∀ i, mget 0 (cellOf t d k).cnt i = if i = 13 then min (2 ^ 64 - 1) (mget 0 (cellOf s d k).cnt 13 + 1) else mget 0 (cellOf s d k).cnt i) ∧
          (Clean s acc p dom a n ks →
            let took (t : State) (two : Bool) : Prop := takes t two ∧ quiet t ∧ t.fresh = s.fresh ∧
              promote (creg s c Reg.BNK_PROMOTE) (creg t c Reg.BNK_PROMOTE) ∧ ∀ o, o ≠ Reg.BNK_PROMOTE → creg t c o = creg s c o
            (∀ k, op = .read k → Completes go fun t => took t false ∧ t.mem = s.mem ∧ t.ans = (0, ks.map (peek s))) ∧
            (op = .write l → Completes go fun t => took t (decide (n < wordSize word)) ∧ Stored s t ks l ∧ t.ans = s.ans) ∧
            (∀ swap f g, op = .atomic swap f g → Completes go fun t => took t true ∧ t.ans = (0, ks.map (peek s)) ∧
              Stored s t ks (leBytes n (if swap then g else aaddVal f (valAt s ks) g)))))) ∧
      (let mine (x : Nat) : Prop := (taskOf s x).part = p;
        (∀ j ∈ q.dq ++ q.vq, mine j.task) → (∀ i, ∀ j ∈ mget [] q.gq i, mine j.task) → (∀ i r, mget none q.gRun i = some r → mine r.job.task) →
        (∀ x ∈ q.bq, (batchOf s x).part = p ∧ (batchOf s x).clu = c) →
        ∀ kind x, runEM (keysOf acc p dom a n) s = .stop (.viol kind x) s → m = .upd c ∨ m = .vec c →
        Completes go fun t => isFrozen t p m = true ∧ t.ans = (0, List.replicate n 0) ∧ t.mem = s.mem)))) ∧
    (c < 96 → b < 576 →
      (v.pending = none → exec (.ownerHandover c b) s = .next s) ∧
      (∀ code, v.pending = some code → (∀ e ∈ v.staged, sound e) → Completes (exec (.ownerHandover c b) s) fun t => { t with banks := s.banks, mem := s.mem } = s ∧
        t.mem = (v.staged.foldl (fun s e => drainEntry e s) s).mem ∧
        bank t { v with code := code, codeN := 65535 - code % 65536, pending := none, giver := none, staged := [], lost := [] }) ∧
      (v.busy2 = true → exec (.stagingDrain c b) s = .next (modBank c b (fun v => { v with busy2 := false }) s)) ∧
      (v.busy2 = false → v.staged = [] → exec (.stagingDrain c b) s = .next s) ∧
      (∀ e r, v.busy2 = false → v.staged = e :: r → sound e → Completes (exec (.stagingDrain c b) s) fun t =>
        quiet t ∧ t.ans = s.ans ∧ t.fresh = s.fresh ∧ t.mem = (drainEntry e s).mem ∧ bank t { v with staged := r } ∧
        counts t fun x w => if x = Reg.BNK_COLLIDE ∧ r ≠ [] then bump32 32 1 w else w)) ∧
    (HostWrites s p →
      (∀ w, b < 576 → instOf s p (bits (preg s p Reg.BNK_SEL) 6 0) = none → exec (.bnkOwnerWrite p b w) s = .next s) ∧
      (∀ w, b < 576 → instOf s p (bits (preg s p Reg.BNK_SEL) 6 0) = some c →
        let host : Prop := v.code % 16 = 0 ∨ v.code % 16 = 5
        let agree : Prop := bits w 31 16 = 65535 - bits w 15 0
        (agree → host → codeOk s c b (bits w 15 0) = true → exec (.bnkOwnerWrite p b w) s =
          .next (modBank c b (fun v => { v with pending := some (bits w 15 0), giver := none }) s)) ∧
        (¬ agree → exec (.bnkOwnerWrite p b w) s = .next (setPreg p Reg.BNK_ERR (orBit (preg s p Reg.BNK_ERR) 1) s)) ∧
        (agree → host → codeOk s c b (bits w 15 0) = false → exec (.bnkOwnerWrite p b w) s =
          .next (freezeHost p 1 (0x41000 + 8 * b) (setPreg p Reg.BNK_ERR (orBit (preg s p Reg.BNK_ERR) 0) s))) ∧
        (agree → ¬ host → exec (.bnkOwnerWrite p b w) s = .next (freezeHost p 1 (0x41000 + 8 * b) s))) ∧
      (∀ w, let fits : Prop := bits w 47 0 % 2 ^ bits (dreg s (Reg.DEV_PORT_CFG + 8 * (part s p).port)) 13 8 = 0
        let only (t : State) (f : Nat → Nat) : Prop := { t with parts := s.parts } = s ∧ (∀ y, y ≠ p → part t y = part s y) ∧
          { part t p with regs := [] } = { part s p with regs := [] } ∧ ∀ o, preg t p o = f o
        (fits → Completes (exec (.bnkWinBaseWrite p w) s) fun t => only t fun o => if o = Reg.BNK_WIN_BASE then bits w 47 0 else preg s p o) ∧
        (¬ fits → Completes (exec (.bnkWinBaseWrite p w) s) fun t => only t fun o =>
          if o = Reg.BNK_ERR then orBit (preg s p o) 2 else preg s p o))) ∧
    (∀ o len wrt commit, p < 16 → mbxExists s p = false ∨ 2 ^ bits (dreg s (Reg.DEV_PORT_CFG + 8 * (part s p).port)) 13 8 < o + max l.length len →
      exec (.hostWindowAccess p o wrt l len commit) s = .next s) ∧
    (∀ port o len wrt commit, port < 4 → p < 16 → s.cxl.testBit port = false ∨ served s = false ∨
      2 ^ bits (dreg s (Reg.DEV_PORT_CFG + 8 * port)) 13 8 < o + max l.length len → exec (.cxlMemAccess port p o wrt l len commit) s = .next s) ∧
    (∀ o len wrt commit port, p < 16 → mbxExists s p = true → port = (part s p).port → o + max l.length len ≤ 2 ^ bits (dreg s (Reg.DEV_PORT_CFG + 8 * port)) 13 8 →
      let a : Nat := if (dreg s Reg.DEV_EXPERT).testBit p then (preg s p Reg.BNK_WIN_BASE + o) % 2 ^ 48 else (2 ^ 44 + o) % 2 ^ 48
      let q : WinAcc := { part := p, addr := a, write := wrt, data := l, len := len }
      ∀ i cxl, (i = .hostWindowAccess p o wrt l len commit ∧ cxl = false) ∨
          (i = .cxlMemAccess port p o wrt l len commit ∧ cxl = true ∧ port < 4 ∧ s.cxl.testBit port = true ∧ served s = true) →
        (sleepsAt s p a = some c → exec i s = .next (modClu c (fun v => { v with wake := true }) { s with winQ := s.winQ ++ [{ q with cxl := cxl }] })) ∧
        (sleepsAt s p a = none → wrt = true → hostFrozen s p = true → exec i s = .next s) ∧
        (sleepsAt s p a = none → wrt = true → hostFrozen s p = false → Clean s (.host p) p none a l.length ks →
          Completes (exec i s) fun t => Stored s t ks l ∧ { t with mem := s.mem } = s) ∧
        (sleepsAt s p a = none → wrt = false → (preg s p Reg.BNK_WIN_CTRL).testBit 0 = false → Clean s (.host p) p none a len ks →
          exec i s = .next { s with ans := (0, ks.map (peek s)) }) ∧
        (sleepsAt s p a = none → wrt = false → commit = false → (preg s p Reg.BNK_WIN_CTRL).testBit 0 = true → localLoc s p a = some (c, b) → regionOf a = some 0 → v.code ≠ 5 →
          Clean s .fw p none a len ks → exec i s = .next { s with ans := (0, ks.map (peek s)) })) ∧
    (∀ port o len wrt commit, port < 4 → p < 16 → s.cxl.testBit port = true → served s = true → o + max l.length len ≤ 2 ^ bits (dreg s (Reg.DEV_PORT_CFG + 8 * port)) 13 8 →
      mbxExists s p = false ∨ (part s p).port ≠ port → Completes (exec (.cxlMemAccess port p o wrt l len commit) s) fun t =>
        { t with dregs := s.dregs, ans := s.ans } = s ∧ t.ans = (if wrt then s.ans else (3, [])) ∧
        ∀ o, dreg t o = if o = Reg.DEV_CXL_UNMAPPED then bump32 0 1 (dreg s o) else dreg s o) ∧
    (∀ k found struck, k < 2 ^ 37 ∨ (2 ^ 50 ≤ k ∧ k < 2 ^ 52) ∨ 2 ^ 53 ≤ k →
      let go := exec (.backgroundScrub k found struck) s
      let w : Nat := if 2 ^ 53 ≤ k then k else wordKey k
      let e := errLevel s k + found
      let only (t : State) : Prop := { t with ecc := s.ecc, cells := s.cells, clus := s.clus, parts := s.parts, ceLog := s.ceLog, ueLog := s.ueLog, latches := s.latches } = s ∧
        (k < 2 ^ 53 → t.cells = s.cells ∧ ∀ x, wordKey x ≠ w → mget 0 t.ecc (wordKey x) = mget 0 s.ecc (wordKey x)) ∧
        (2 ^ 53 ≤ k → t.ecc = s.ecc ∧ OnlyCell s { s with cells := t.cells } (sramCell k).1 (sramCell k).2)
      (keyExists s k = false → go = .next s) ∧
      (keyExists s k = true → 2 ^ 51 ≤ k → k < 2 ^ 52 → (struck = 0 → go = .next s) ∧
        (struck ≠ 0 → Completes go fun t => only t ∧ errLevel t k = 2 ∧ t.clus = s.clus ∧ t.parts = s.parts ∧ t.ceLog = s.ceLog ∧
          t.ueLog = s.ueLog ∧ t.latches = s.latches)) ∧
      (keyExists s k = true → k < 2 ^ 51 ∨ 2 ^ 53 ≤ k →
        (e = 0 → struck ≤ 2 → Completes go fun t => only t ∧ errLevel t k = struck ∧ t.clus = s.clus ∧ t.parts = s.parts ∧ t.ceLog = s.ceLog ∧
          t.ueLog = s.ueLog ∧ t.latches = s.latches) ∧
        (e = 1 → struck ≤ 2 → Completes go fun t => only t ∧ errLevel t k = struck ∧ (k < 2 ^ 53 → t.ceLog = s.ceLog ++ [(w, s.now)]) ∧
          t.ueLog = s.ueLog ∧ t.latches = s.latches) ∧
        (e = 2 → struck = 0 → Completes go fun t => only t ∧ errLevel t k = 2 ∧ t.clus = s.clus ∧ t.parts = s.parts ∧ t.ceLog = s.ceLog ∧
          t.ueLog = s.ueLog ++ [(w, s.now)] ∧ ∃ x ∈ t.latches, x.unit = unitOfKey k) ∧
        (k < 2 ^ 53 → Completes go fun t => ∀ x, wordKey x ≠ w → mget 0 t.mem x = mget 0 s.mem x ∧ mget 0 t.ecc (wordKey x) = mget 0 s.ecc (wordKey x))))

/-- A slot runs a task's list, its engine not frozen and its cluster on. CLUTCH_FETCH of a slot with fewer than four buffered transfers reads the 64-byte descriptors up to the next kilobyte and keeps them up to the first that is no transfer, at most 16 in all. With no active descriptor, the buffer's first
becomes active: a transfer that passes its checks, from element 0, with the engine's STR_LEAD and the partition's STR_HALT_LIMIT kept; a failing one empties the slot and reports its fault; a WAIT, which passes when its flag has reached its value and retires; a BARRIER, which arrives;
an END ends the list. A LINK read last is taken off and the next clutch is at NEXT. Each changes its slot and the named counts only. Where the next descriptor is of another kind, or there is none to take, nothing changes. -/
def Obligations.StreamLists : Prop :=
  ∀ (s : State) (c e i t : Nat), c < 96 → e < 2 → i < 8 →
    let x := slotOf s c e i
    let forms := [(0, Instr.streamXfer c e i), (1, .streamWait c e i), (2, .streamBarrier c e i), (4, .streamEnd c e i)]
    ((x.list = none ∨ x.words ≠ [] ∨ x.st ≠ 1 ∨ x.buf = [] ∨ strFrozen s c e = true ∨ (clu s c).pw ≠ .on) → ∀ f ∈ forms, exec f.2 s = .next s) ∧
    ((x.list = none ∨ x.buf = [] ∨ strFrozen s c e = true ∨ (clu s c).pw ≠ .on) → exec (.streamLink c e i) s = .next s) ∧
    ((x.st ≠ 2 ∨ strFrozen s c e = true ∨ (clu s c).pw ≠ .on) → exec (.streamWaitPass c e i) s = .next s) ∧
    (∀ hs, (x.list = none ∨ x.st ≠ 1 ∨ 4 ≤ x.buf.length ∨ (∃ q ∈ x.buf, isKind 0 q.2 = false) ∨ x.fault ≠ none ∨ strFrozen s c e = true ∨
      (clu s c).pw ≠ .on) → exec (.clutchFetch c e i hs) s = .next (hostStores (cluPart s c) hs s)) ∧
    (x.list = some t → strFrozen s c e = false → (clu s c).pw = .on →
    let p := (taskOf s t).part
    let others (u : State) : Prop := (∀ d, d ≠ c → clu u d = clu s d) ∧ { clu u c with slots := [], regs := [] } = { clu s c with slots := [], regs := [] } ∧
      ∀ n, n ≠ 8 * e + i → mget {} (clu u c).slots n = mget {} (clu s c).slots n
    let slot (u : State) (y : Slot) : Prop := slotOf u c e i = y ∧ others u
    let pure' (u : State) : Prop := { u with clus := s.clus } = s ∧ ∀ o, o ≠ strReg e Reg.STR_DESC → creg u c o = creg s c o
    let count (u : State) (lo : Nat) : Prop := creg u c (strReg e Reg.STR_DESC) = bump32 lo 1 (creg s c (strReg e Reg.STR_DESC))
    let retire (y : Slot) : Slot := { y with retired := (x.retired + 1) % 2 ^ 32, words := [], daddr := 0, armed := false, shadow := none, elem := 0, out := [],
                                             old := x.old + x.out.length, st := if y.list.isNone then 0 else 1 }
    (∀ (hs : List (Nat × Byte)) (ks : List Nat),
      let s' := hostStores (cluPart s c) hs s
      let n := (1024 - x.next % 1024) / 64
      let W (j : Nat) : List Nat := (List.range 8).map fun q => valAt s' ((ks.drop (64 * j + 8 * q)).take 8)
      x.st = 1 → x.buf.length < 4 → (∀ q ∈ x.buf, isKind 0 q.2 = true) → x.fault = none → x.next % 64 = 0 → bulkDown s' p x.next = false → Clean s' (.str c e) p none x.next (64 * n) ks →
      Completes (exec (.clutchFetch c e i hs) s) fun u => u.mem = s'.mem ∧ pure' { u with mem := s.mem } ∧ count u 0 ∧ ∃ k, let m := min n (16 - x.buf.length)
        0 < k ∧ k ≤ m ∧
        slot u { x with buf := x.buf ++ (List.range k).map (fun j => (x.next + 64 * j, W j)), next := (x.next + 64 * k) % 2 ^ 48 } ∧
        (∀ j, j + 1 < k → isKind 0 (W j) = true) ∧ (k < m → isKind 0 (W (k - 1)) = false)) ∧
    (∀ (a : Nat) (w : List Nat) (r : List (Nat × List Nat)), x.words = [] → x.st = 1 → x.buf = (a, w) :: r →
      let y : Slot := { x with words := w, daddr := a, armed := false, st := 1, elem := 0, fault := none, streak := 0, lastElem := 0, buf := r,
                                         lead := bits (creg s c (strReg e Reg.STR_LEAD)) 31 0, limit := clampN 1 255 (bits (preg s p Reg.STR_HALT_LIMIT) 7 0) }
      let stops (u : State) (status detail : Nat) : Prop := slotOf u c e i = x.clear ∧ u.mem = s.mem ∧ others u ∧
        { u with clus := s.clus, latches := s.latches, reports := s.reports } = s ∧
        u.reports = s.reports ++ [{ task := t, status := status, detail := detail, clu := c }]
      let good : Prop := complOk 32 (bits (dw w 0) 31 0) (bits (dw w 0) 63 32) = true
      (∀ f ∈ forms, good → xKind w ≤ 4 → xKind w ≠ f.1 → exec f.2 s = .next s) ∧
      (good → xKind w = 0 → xferFault s c e w = none → Completes (exec (.streamXfer c e i) s) fun u => pure' u ∧ creg u c (strReg e Reg.STR_DESC) = creg s c (strReg e Reg.STR_DESC) ∧
        slot u { y with tc := if xFixed w then (clu s c).epochCyc + bits (dw w 4) 47 16 else cmpCycles s c }) ∧
      (∀ d, good → xKind w = 0 → xferFault s c e w = some d → Completes (exec (.streamXfer c e i) s) fun u => stops u 1 d) ∧
      (¬ good → Completes (exec (.streamXfer c e i) s) fun u => stops u 0x0D 0x09_0001) ∧
      (good → 4 < xKind w → Completes (exec (.streamXfer c e i) s) fun u => stops u 1 0x09_0002) ∧
      (good → xKind w = 1 → markerClean w (2 ^ 38 - 1) = true → Completes (exec (.streamWait c e i) s) fun u => pure' u ∧ slot u { y with st := 2 }) ∧
      (good → xKind w = 2 → markerClean w 0 = true → Completes (exec (.streamBarrier c e i) s) fun u => pure' { u with parts := s.parts } ∧
        slot u { x with words := w, daddr := a, st := 3, buf := r } ∧ (part u p).arrivals = true ∧ { part u p with arrivals := false } = { part s p with arrivals := false } ∧
        ∀ d, d ≠ p → part u d = part s d) ∧
      (good → xKind w = 4 → markerClean w 0 = true → x.shadow = none → Completes (exec (.streamEnd c e i) s) fun u => pure' u ∧ count u 32 ∧
        slot u (retire { x with list := none, buf := [], next := 0 }) ∧ (slotOf u c e i).st = 0)) ∧
    (x.st = 2 → x.shadow = none → flagMet (flagOf s c (bits (dw x.words 1) 37 32)) (bits (dw x.words 1) 31 0) = true →
      Completes (exec (.streamWaitPass c e i) s) fun u => pure' u ∧ count u 32 ∧ slot u (retire x)) ∧
    (x.st = 2 → flagMet (flagOf s c (bits (dw x.words 1) 37 32)) (bits (dw x.words 1) 31 0) = false → exec (.streamWaitPass c e i) s = .next s) ∧
    (∀ a w r, x.buf = r ++ [(a, w)] → isKind 3 w = true → markerClean w (2 ^ 48 - 1) = true → bits (dw w 1) 47 0 % 64 = 0 →
      Completes (exec (.streamLink c e i) s) fun u => pure' u ∧ slot u { x with buf := r, next := bits (dw w 1) 47 0 }) ∧
    (∀ a w r, x.buf = r ++ [(a, w)] → isKind 3 w = false → exec (.streamLink c e i) s = .next s))

/-- STREAM_GRANT: accesses that are acknowledged are no longer outstanding; with fewer than 64 outstanding it serves the ready rated slot with the earliest run-dry time among those due, the lowest on a tie, else the lowest ready unrated slot, and moves its next elements, at most 128 bytes, each converted (for formats of whole bytes); the loader channel takes every
fourth grant while it asks; none is made while halted. I/O stream engines (c from 96 on) do the same for their lowest slot. DESCRIPTOR_RETIRE of a transfer whose elements all moved changes the owner of DST's bank if GIVE is 1, adds 1 to its
flag, makes the request's record due if CPL is 1, and frees the slot for the next descriptor. A FIXED descriptor that is behind its consumer faults with DEADLINE_MISS. STR_ARM gives an idle slot the descriptor in STR_ARM_DESC, or keeps it as
the shadow of an active one, or sets STR_ERR. STR_CTRL.HALT, SLACK_CLR and STR_SAVE_BASE are written by a host at expert level. With a frozen engine or a cluster not on nothing is granted or retired. -/
def Obligations.StreamMoves : Prop :=
  ∀ (s0 : State) (c e i : Nat) (acks : List (Nat × Nat)) (hs : List (Nat × Byte)), c < 96 → e < 2 → i < 8 →
    let s := hostStores (cluPart s0 c) hs (acks.foldl (takeAck c e) s0)
    let go := exec (.streamGrant c e acks hs) s0
    let x := slotOf s c e i
    let w := x.words
    let p := slotPart s c e i
    let m := Master.str c e
    let rest (f : Cluster → Cluster) (u : State) : Prop := (∀ d, d ≠ c → clu u d = clu s d) ∧ f (clu u c) = f (clu s c)
    let slots (u : State) (y : Slot) : Prop := slotOf u c e i = y ∧ ∀ n, n ≠ 8 * e + i → mget {} (clu u c).slots n = mget {} (clu s c).slots n
    let now := cmpCycles s c
    let due (j : Nat) : Prop := j < 8 ∧ slotReady (slotOf s c e j) = true ∧ xRate (slotOf s c e j).words ≠ 0 ∧
      runDry (slotOf s c e j) ≤ now + (slotOf s c e j).lead
    let unrated (j : Nat) : Prop := j < 8 ∧ slotReady (slotOf s c e j) = true ∧ xRate (slotOf s c e j).words = 0
    let picked : Prop := (due i ∧ ∀ j, due j → runDry x < runDry (slotOf s c e j) ∨ (runDry x = runDry (slotOf s c e j) ∧ i ≤ j)) ∨
      ((∀ j, ¬ due j) ∧ unrated i ∧ ∀ j, unrated j → i ≤ j)
    let halted : Prop := (creg s c (strReg e Reg.STR_CTRL)).testBit 0 = true
    let turn := mget 0 (clu s c).ldTurn e
    let counted (u : State) : Prop := ∀ o, o ∉ [strReg e Reg.STR_GRANTS, strReg e Reg.STR_MIN_SLACK, strReg e Reg.STR_BYTES] → creg u c o = creg s c o
    (∀ n j l r, x.out = l ++ (n, j) :: r → (∀ y ∈ l, y.1 ≠ n) → ∃ u, takeAck c e s (i, n) = u ∧ { u with clus := s.clus } = s ∧
      rest (fun v => { v with slots := [] }) u ∧ slots u { x with out := l ++ r }) ∧
    (strFrozen s c e = true ∨ (clu s c).pw ≠ .on → go = .next s) ∧
    (strFrozen s c e = false → (clu s c).pw = .on →
      (halted ∨ 64 ≤ outstanding s c e → Completes go fun u => { u with clus := s.clus } = s ∧ rest (fun v => { v with regs := [], ldTurn := [] }) u ∧
        counted u ∧ creg u c (strReg e Reg.STR_BYTES) = creg s c (strReg e Reg.STR_BYTES)) ∧
      (∀ k, ¬ halted → outstanding s c e < 64 → loaderCell s c e = some k → 3 ≤ turn → Completes go fun u =>
        { u with clus := s.clus, cells := s.cells } = s ∧ rest (fun v => { v with regs := [], ldTurn := [] }) u ∧ counted u ∧
        mget 0 (clu u c).ldTurn e = 0 ∧ creg u c (strReg e Reg.STR_BYTES) = creg s c (strReg e Reg.STR_BYTES) ∧
        OnlyCell s { s with cells := u.cells } c k ∧ cellOf u c k = { cellOf s c k with ldGot := (cellOf s c k).ldGot + 1 }) ∧
      (∀ (A D : Nat → List Nat), ¬ halted → outstanding s c e < 64 → loaderPends s c e = false ∨ turn < 3 → picked →
        let n := x.elem
        let j := grantTo w n
        let sw := xSrcW w / 8
        let dw' := xDstW w / 8
        (n < j ∧ j ≤ xN w) ∧
        (xSrcW w % 8 = 0 → xDstW w % 8 = 0 → 0 < sw → 0 < dw' → (j - n) * max sw dw' ≤ 128 ∧
          (bulkDown s p (elemAddr w false n) = false → bulkDown s p (elemAddr w true n) = false →
          (∀ k, n ≤ k → k < j → 0 ≤ elemBit w false k ∧ elemBit w false k < 2 ^ 51 ∧ 0 ≤ elemBit w true k ∧ elemBit w true k < 2 ^ 51 ∧
            Clean s m p (xDom w) (elemAddr w false k) sw (A k) ∧ Clean s m p (xDom w) (elemAddr w true k) dw' (D k) ∧ (D k).Nodup) →
          (∀ k l, n ≤ k → k < j → n ≤ l → l < j → k ≠ l → ∀ q ∈ D k, q ∉ D l) →
          Completes go fun u => { u with clus := s.clus, mem := s.mem } = s ∧
            rest (fun v => { v with slots := [], regs := [], ldTurn := [] }) u ∧ slots u { x with elem := j, out := x.out ++ [(n, j)] } ∧ counted u ∧
            creg u c (strReg e Reg.STR_BYTES) = bump32 0 (units64 w true n j) (bump32 32 (units64 w false n j) (creg s c (strReg e Reg.STR_BYTES))) ∧
            (∀ k, n ≤ k → k < j → (D k).map (peek u) = leBytes dw' (xConv w (valAt s (A k)))) ∧
            ∀ q, (∀ k, n ≤ k → k < j → q ∉ D k) → mget 0 u.mem q = mget 0 s.mem q)))) ∧
    (∀ d g, d < 4 → g < 4 → let go := exec (.streamGrant (96 + d) g [] []) s
      (nIoDies s ≤ d → go = .next s) ∧ (d < nIoDies s → ((∀ n, n < 8 → (ioSlot s (32 * d + 8 * g + n)).ready = false) → go = .next s) ∧
      ∀ n, n < 8 → (∀ k, k < n → (ioSlot s (32 * d + 8 * g + k)).ready = false) → (ioSlot s (32 * d + 8 * g + n)).ready = true →
        let x := ioSlot s (32 * d + 8 * g + n)
        let w := x.todo.headD []
        let j := grantTo w x.elem
        let put (t u : State) (y : IoSlot) : Prop := { u with ioSlots := s.ioSlots } = { t with ioSlots := s.ioSlots } ∧
          ∀ k, ioSlot u k = if k = 32 * d + 8 * g + n then y else ioSlot s k
        (∀ f, x.elem = 0 → ioFault s w = some f → Completes go fun u => put s u { x with stop := some (.fail 1 f) }) ∧
        (∀ t, x.elem ≠ 0 ∨ ioFault s w = none → runEM (moveElems (.io d) x.part w x.elem j) s = .good () t → t.ioSlots = s.ioSlots → Completes go fun u =>
          put t u (if j < xN w then { x with elem := j } else { x with elem := 0, todo := x.todo.drop 1 })))) ∧
    ((x.st ≠ 1 ∨ w = [] ∨ x.elem < xN w ∨ x.fault ≠ none ∨ strFrozen s c e = true ∨ (clu s c).pw ≠ .on) → exec (.descriptorRetire c e i) s = .next s) ∧
    (strFrozen s c e = false → (clu s c).pw = .on → x.st = 1 → w ≠ [] → xN w ≤ x.elem → x.fault = none → x.shadow = none →
        let f := bits (dw w 0) 16 11
        let done : Slot := { x with retired := (x.retired + 1) % 2 ^ 32, words := [], daddr := 0, armed := false, elem := 0, out := [],
                                    st := if x.list.isNone then 0 else 1 }
        let ends (u : State) : Prop := slots u done ∧ rest (fun v => { v with slots := [], regs := [], flags := [] }) u ∧
          (∀ g, flagOf u c g = if (dw w 0).testBit 10 = true ∧ g = f then (flagOf s c g + 1) % 2 ^ 32 else flagOf s c g) ∧
          ∀ o, creg u c o = if o = strReg e Reg.STR_DESC then bump32 32 1 (creg s c o) else creg s c o
        ((dw w 0).testBit 17 = false → xCpl w = false → Completes (exec (.descriptorRetire c e i) s) fun u => ends u ∧ { u with clus := s.clus } = s) ∧
        (∀ k, (dw w 0).testBit 17 = true → xCpl w = false → regionOf (xDst w) = some 0 → runEM (keysOf m p (xDom w) (xDst w) 1) s = .good [k] s →
          let v := bankOf s (bankOfKey k).1 (bankOfKey k).2
          codeOk s (bankOfKey k).1 (bankOfKey k).2 (xGive w) = true → (∀ z ∈ v.staged, mget 0 s.ecc z.word = 0 ∧ mget 0 s.inj z.word = 0) →
          Completes (exec (.descriptorRetire c e i) s) fun u => ends u ∧
            { u with clus := s.clus, banks := s.banks, mem := s.mem } = s ∧ u.mem = (v.staged.foldl (fun s z => drainEntry z s) s).mem ∧
            (∀ n, n ≠ 576 * (bankOfKey k).1 + (bankOfKey k).2 → mget {} u.banks n = mget {} s.banks n) ∧
            bankOf u (bankOfKey k).1 (bankOfKey k).2 =
              { v with code := xGive w, codeN := 65535 - xGive w, pending := none, giver := none, staged := [], lost := [] }) ∧
        (∀ t, (dw w 0).testBit 17 = false → xCpl w = true → x.list = some t → hasReq s (taskOf s t).req = true → (reqOf s (taskOf s t).req).st ≠ .done → (taskOf s t).last = true →
          let r := reqOf s (taskOf s t).req
          Completes (exec (.descriptorRetire c e i) s) fun u => ends u ∧ u.mem = s.mem ∧ (reqOf u (taskOf s t).req).st = .done ∧
            u.due = s.due ++ [{ mbx := r.mbx, tag := r.tag, seq := r.seq, status := 0, detail := 0, island := cmpIsland s c, rlen := dstBytes w (xN w),
                                fvis := r.fvis, noirq := r.noirq }])) ∧
    (let late : Prop := (slackOf s c x).isSome = true ∧ 16 * dstBytes w x.acked < (now - x.tc) * xRate w;
      (∀ t, x.list = some t → x.armed = false → late → Completes (exec (.deadlineMiss c e i) s) fun u => u.mem = s.mem ∧ slotOf u c e i = x.clear ∧
        u.reports = s.reports ++ [{ task := t, status := 0x0A, detail := 0x09_0005, clu := c }]) ∧
      (¬ late → exec (.deadlineMiss c e i) s = .next s)) ∧
    (∀ q n v, HostWrites s q → instOf s q n = none → exec (.strArm q n e i) s = .next s ∧ exec (.strHalt q n e v) s = .next s ∧
      exec (.strSlackClear q n e) s = .next s) ∧
    (∀ q n v, HostWrites s q → instOf s q n = some c →
      let desc : List Nat := (List.range 8).map fun j => creg s c (strReg e Reg.STR_ARM_DESC + 8 * j)
      let sets (u : State) (o v : Nat) : Prop := { u with clus := s.clus } = s ∧ rest (fun v => { v with regs := [] }) u ∧ ∀ r, creg u c r = if r = o then v else creg s c r
      let errs (u : State) (b : Nat) : Prop := sets u (strReg e Reg.STR_ERR) (orBit (creg s c (strReg e Reg.STR_ERR)) b)
      (strFrozen s c e = true → Completes (exec (.strArm q n e i) s) fun u => errs u 4) ∧
      (strFrozen s c e = false → x.idle = true → complOk 32 (bits (dw desc 0) 31 0) (bits (dw desc 0) 63 32) = true → xKind desc = 0 → xCpl desc = false → xferFault s c e desc = none →
        Completes (exec (.strArm q n e i) s) fun u => { u with clus := s.clus } = s ∧ rest (fun v => { v with slots := [] }) u ∧
          slots u { x with words := desc, daddr := 0, armed := true, st := 1, elem := 0, fault := none, streak := 0, lastElem := 0,
                           lead := bits (creg s c (strReg e Reg.STR_LEAD)) 31 0, limit := clampN 1 255 (bits (preg s p Reg.STR_HALT_LIMIT) 7 0),
                           tc := if xFixed desc then (clu s c).epochCyc + bits (dw desc 4) 47 16 else now }) ∧
      (strFrozen s c e = false → w ≠ [] → x.shadow = none → Completes (exec (.strArm q n e i) s) fun u => { u with clus := s.clus } = s ∧
        rest (fun v => { v with slots := [] }) u ∧ slots u { x with shadow := some desc }) ∧
      (strFrozen s c e = false → w ≠ [] → x.shadow.isSome = true → Completes (exec (.strArm q n e i) s) fun u => errs u 1) ∧
      (strFrozen s c e = false → w = [] → x.idle = false → x.shadow = none → Completes (exec (.strArm q n e i) s) fun u => errs u 2) ∧
      (Completes (exec (.strHalt q n e v) s) fun u => sets u (strReg e Reg.STR_CTRL) (if v then 1 else 0)) ∧
      (Completes (exec (.strSlackClear q n e) s) fun u => sets u (strReg e Reg.STR_MIN_SLACK) 0x7FFF_FFFF)) ∧
    (∀ q v, HostWrites s q →
      let sets (u : State) (f : Nat → Nat) : Prop := { u with parts := s.parts } = s ∧ (∀ d, d ≠ q → part u d = part s d) ∧
        { part u q with regs := [] } = { part s q with regs := [] } ∧ ∀ o, preg u q o = f o
      (strBusy s q = false → saveBaseOk s q (bits v 47 0) = true → Completes (exec (.strSaveBaseWrite q v) s) fun u => sets u fun o =>
        if o = Reg.STR_SAVE_BASE then bits v 47 0 else preg s q o) ∧
      (strBusy s q = false → saveBaseOk s q (bits v 47 0) = false → Completes (exec (.strSaveBaseWrite q v) s) fun u => sets u fun o =>
        if o = Reg.STR_PERR then orBit (preg s q o) 1 else preg s q o) ∧
      (strBusy s q = true → exec (.strSaveBaseWrite q v) s = .next (freezeHost q 2 Reg.STR_SAVE_BASE s)))

/-- A refused translation, where the VF has PRI Enable, or a withdrawn range of a slot's next access marks a resumable descriptor for a halt and ends another's task; so does a host's refusal to read, which is all that can happen without PRI (of a refused write the device is not told). The loader channel's access ends its cell's task. STREAM_HALT writes the save area, makes the halt record due and halts the slot; past the descriptor's STR_HALT_LIMIT halts without progress it faults. PRI_RESPONSE stores its code in the save area of the halt it answers.
CMD_RESUME_STREAM sets ELEM from a passing save area and lets the slot go on, aborts if asked, or fails for no halted slot. ATS_INVALIDATE drops the VF's entries for its pages and is answered. BARRIER_RELEASE, once an arrival was made and nothing is missing, begins the next epoch: extents and shadows take effect, contexts and slots
go on, waiting records become due. BARRIER_TIMEOUT records the first missing participant. CMD_BARRIER arrives for the host. An event that finds nothing of its kind to do changes nothing. -/
def Obligations.HaltsAndBarriers : Prop :=
  ∀ (s : State) (c e i : Nat),
    let x := slotOf s c e i
    let m := Master.str c e
    let p := slotPart s c e i
    let slots (u : State) (y : Slot) : Prop := slotOf u c e i = y ∧ ∀ n, n ≠ 8 * e + i → mget {} (clu u c).slots n = mget {} (clu s c).slots n
    let others (u : State) (f : Nat → Nat → Nat) : Prop := (∀ d, d ≠ c → clu u d = clu s d) ∧
      { clu u c with slots := [], regs := [] } = { clu s c with slots := [], regs := [] } ∧ ∀ o, creg u c o = f o (creg s c o)
    let same : Nat → Nat → Nat := fun _ w => w
    let stops (u : State) (t detail : Nat) : Prop := slotOf u c e i = x.clear ∧ u.mem = s.mem ∧
      u.reports = s.reports ++ [{ task := t, status := 4, detail := detail, clu := c }]
    let base := saveAddr s p c e i
    (c < 96 → e < 2 → strFrozen s c e = true → (∀ n, n < 9 → (∀ cause wrt, exec (.mappingFault c e n cause wrt) s = .next s) ∧
      exec (.hostReadRefused c e n) s = .next s) ∧ (i < 8 → exec (.streamHalt c e i) s = .next s)) ∧
    (c < 96 → e < 2 → strFrozen s c e = false →
      (∀ n cause wrt, n < 9 → (∀ a, nextAccess s c e n wrt = some a → ¬ ((cause = 1 ∧ regionOf a = some 3) ∨ (cause = 2 ∧ regionOf a = some 2))) →
        exec (.mappingFault c e n cause wrt) s = .next s) ∧
      (∀ n, n < 9 → (∀ a, nextAccess s c e n false = some a → regionOf a ≠ some 3) → exec (.hostReadRefused c e n) s = .next s) ∧
      (∀ a k b w, nextAccess s c e 8 false = some a → loaderCell s c e = some k → stageBlock (cellOf s c k) = some (b, w) →
        let ends (u : State) (detail : Nat) : Prop := u.mem = s.mem ∧ ∃ r : Report, u.reports = s.reports ++ [r] ∧ r.task = w.2.task ∧ r.status = 4 ∧
          r.detail = detail ∧ r.clu = c
        (∀ cause, (cause = 1 ∧ regionOf a = some 3 ∧ priOn s (cluPart s c) = true) ∨ (cause = 2 ∧ regionOf a = some 2) →
          Completes (exec (.mappingFault c e 8 cause false) s) fun u => ends u (if cause = 1 then 0x09_0006 else 0x09_0007)) ∧
        (regionOf a = some 3 → Completes (exec (.hostReadRefused c e 8) s) fun u => ends u 0x09_000B)) ∧
      (i < 8 → (∀ a cause wrt, nextAccess s c e i wrt = some a → (cause = 1 ∧ regionOf a = some 3 ∧ priOn s p = true) ∨ (cause = 2 ∧ regionOf a = some 2) →
        (xResumable x.words = true ∧ x.words ≠ [] → Completes (exec (.mappingFault c e i cause wrt) s) fun u => { u with clus := s.clus } = s ∧
          slots u { x with fault := some (a, cause, wrt) } ∧ others u same) ∧
        (∀ t, ¬ (xResumable x.words = true ∧ x.words ≠ []) → x.list = some t → x.armed = false →
          Completes (exec (.mappingFault c e i cause wrt) s) fun u => stops u t (if cause = 1 then 0x09_0006 else 0x09_0007))) ∧
      (∀ a t wrt, nextAccess s c e i wrt = some a → regionOf a = some 3 → priOn s p = false → x.list = some t → x.armed = false →
        (wrt = true → exec (.mappingFault c e i 1 wrt) s = .next s) ∧
        (wrt = false → Completes (exec (.mappingFault c e i 1 wrt) s) fun u => stops u t 0x09_000B)) ∧
      (∀ a t, nextAccess s c e i false = some a → regionOf a = some 3 → x.list = some t → x.armed = false →
        Completes (exec (.hostReadRefused c e i) s) fun u => stops u t 0x09_000B) ∧
      (x.fault = none ∨ x.st ≠ 1 → exec (.streamHalt c e i) s = .next s) ∧
      (∀ a cause wrt S, x.fault = some (a, cause, wrt) → x.st = 1 →
        let streak : Nat := if x.streak = 0 ∨ x.lastElem < x.elem then 1 else x.streak + 1
        let halts := (x.halts + 1) % 8192
        let id := 16 * instIdx s p c + 8 * e + i + halts * 2 ^ 11
        let port := (part s p).port
        let posted := postedOn s port
        let g : Option Nat := if posted.length < min (mget {} s.hostCfg port).alloc 512 then (List.range 512).find? fun g => !posted.contains g else none
        (streak ≤ x.limit → Clean s m p none base 64 S → S.Nodup → Completes (exec (.streamHalt c e i) s) fun u =>
          S.map (peek u) = wordsBytes [dw x.words 0, x.daddr, x.elem, a % 2 ^ 48 + cause * 2 ^ 48 + (if wrt then 2 ^ 50 else 0), id + streak % 256 * 2 ^ 24,
            g.getD 0 % 512 + 15 * 2 ^ 9, 0, compl 64 x.elem] ∧ (∀ q, q ∉ S → mget 0 u.mem q = mget 0 s.mem q) ∧
          slots u { x with st := 4, halts := halts, streak := streak, lastElem := x.elem, out := [] } ∧ u.due = s.due ++ [haltRecord s p c id x] ∧
          others u (fun o w => if o = strReg e Reg.STR_HALTS then bump32 0 1 w else w) ∧
          { u with clus := s.clus, mem := s.mem, due := s.due, pages := s.pages, sent := s.sent } = s ∧
          u.pages = (if cause = 1 then s.pages ++ [{ port := port, prgi := g, clu := c, eng := e, slot := i, halts := halts }] else s.pages) ∧
          u.sent = if cause = 1 ∧ g.isSome = true then s.sent ++ [(4, [port, g.getD 0, a])] else s.sent) ∧
        (∀ t, x.limit < streak → x.list = some t → x.armed = false → Completes (exec (.streamHalt c e i) s) fun u => stops u t 0x09_0008)) ∧
      (∀ port g code (l : List PageReq) q r K, port < 4 → g < 512 → code < 16 → s.pages = l ++ q :: r → q.port = port → q.prgi = some g → q.clu = c → q.eng = e → q.slot = i →
        (∀ y ∈ l, ¬ (y.port = port ∧ y.prgi = some g)) → (∀ y ∈ s.pages, y.port = port → y.prgi ≠ none) →
        let done (u : State) : Prop := u.pages = l ++ r ∧ { u with clus := s.clus, mem := s.mem, pages := s.pages } = s ∧
          (∀ n, mget {} (clu u c).slots n = mget {} (clu s c).slots n) ∧
          others u fun o w => if o = strReg e Reg.STR_ERR ∧ code ≠ 0 then orBit w 3 else w
        (x.st ≠ 4 ∨ x.halts ≠ q.halts → Completes (exec (.priResponse port g code) s) fun u => done u ∧ u.mem = s.mem) ∧
        (x.st = 4 → x.halts = q.halts → Clean s m p none ((base + 40) % 2 ^ 48) 8 K → K.Nodup →
          Completes (exec (.priResponse port g code) s) fun u => done u ∧ K.map (peek u) = leBytes 8 (valAt s K - bits (valAt s K) 12 9 * 2 ^ 9 + code * 2 ^ 9) ∧
          ∀ n, n ∉ K → mget 0 u.mem n = mget 0 s.mem n)) ∧
      (∀ f d S, Begins s f 8 d → haltedSlot s f (bits (d.a 0) 23 0) = some (c, e, i) → let w := words8 (S.map (peek s))
        ((d.a 0).testBit 24 = false → Clean s m p none base 64 S → complOk 64 (w 2) (w 7) = true →
          ¬ (bits (w 3) 49 48 = 1 ∧ pageAnswered s c e i = true ∧ (bits (w 5) 12 9 = 1 ∨ bits (w 5) 12 9 = 15)) →
          Completes (exec (.cmdResumeStream f) s) fun u => Ends s u f d 0 0 0 ∧ slots u { x with st := 1, fault := none, elem := w 2 } ∧
            others u (fun o w => if o = strReg e Reg.STR_HALTS then bump32 32 1 w else w) ∧ { u with clus := s.clus, mbx := s.mbx, due := s.due } = s) ∧
        (∀ t, (d.a 0).testBit 24 = true → x.list = some t → x.armed = false → Completes (exec (.cmdResumeStream f) s) fun u => Ends s u f d 0 0 0 ∧ stops u t 0x09_0009)))) ∧
    (∀ port g code, port < 4 → g < 512 → code < 16 → (∀ y ∈ s.pages, ¬ (y.port = port ∧ y.prgi = some g)) → exec (.priResponse port g code) s = .next s) ∧
    (∀ f, f < 21 → (nextCmd s f 8 = none → exec (.cmdResumeStream f) s = .next s) ∧ (nextCmd s f 6 = none → exec (.cmdBarrier f) s = .next s)) ∧
    (∀ f d, Begins s f 8 d → haltedSlot s f (bits (d.a 0) 23 0) = none → Completes (exec (.cmdResumeStream f) s) fun u => Ends s u f d 1 0x09_000D 0 ∧
      { u with mbx := s.mbx, due := s.due, dueErr := s.dueErr } = s) ∧
    (∀ port vf page n, port < 4 → 0 < vf → vf < 17 → exec (.atsInvalidate port vf page n) s = .next { s with
      atc := s.atc.filter fun y => !(y.port == port && y.vf == vf && decide (page ≤ y.page) && decide (y.page < page + n))
      sent := if hostOut s port vf then s.sent else s.sent ++ [(3, [port, vf, page, n])] }) ∧
    (∀ p, p < 16 →
      let q := part s p
      let own (c : Nat) : Prop := c < 96 ∧ (clu s c).part = some p
      let ready : Prop := (q.arrivals = true ∨ q.hostBar ≠ []) ∧ missing s p = []
      (¬ ready → exec (.barrierRelease p) s = .next s) ∧
      (ready → (∀ c k x, own c → k < 32 → (ctxOf s c k x).arrived = true → (ctxOf s c k x).pc ≠ 2047) → Completes (exec (.barrierRelease p) s) fun u =>
        preg u p Reg.STR_BAR_EPOCH = (preg s p Reg.STR_BAR_EPOCH + 1) % 2 ^ 32 ∧ (∀ o, o ≠ Reg.STR_BAR_EPOCH → preg u p o = preg s p o) ∧
        { part u p with regs := [] } = { q with regs := [], hbm := q.hbmNext, bulk := q.bulkNext, arrivals := false, hostBar := [], atRelease := [], scrubs := [], insts := (clustersOf s p).filter fun c => !bindRuns s c } ∧
        u.due = s.due ++ ((q.hostBar ++ q.atRelease).filter fun d => isOpen s d.mbx d.seq) ∧ (q.scrubs = [] → u.mem = s.mem ∧ u.ecc = s.ecc) ∧ (∀ d, ¬ own d → clu u d = clu s d) ∧
        { u with clus := s.clus, cells := s.cells, parts := s.parts, mbx := s.mbx, due := s.due, mem := s.mem, ecc := s.ecc } = s ∧ (∀ y, y ≠ p → part u y = part s y) ∧
        ∀ c, own c → (∀ k x, k < 32 → x < 4 → (ctxOf s c k x).arrived = true → (ctxOf u c k x).arrived = false ∧ (ctxOf u c k x).st = .ready ∧
            (ctxOf u c k x).pc = (ctxOf s c k x).pc + 1 ∧ ∀ r, (ctxOf u c k x).reg r = (ctxOf s c k x).reg r) ∧
          (∀ k x, (ctxOf s c k x).arrived = false → ctxOf u c k x = ctxOf s c k x) ∧
          (∀ n, n < 16 → (slotOf s c (n / 8) (n % 8)).st ≠ 3 → slotOf u c (n / 8) (n % 8) = slotOf s c (n / 8) (n % 8)) ∧
          (clu u c).joining = ((clu s c).joining && bindRuns s c) ∧
          (∀ n, n < 16 → (slotOf s c (n / 8) (n % 8)).st = 3 → (slotOf s c (n / 8) (n % 8)).shadow = none → (slotOf u c (n / 8) (n % 8)).words = [] ∧
            (slotOf u c (n / 8) (n % 8)).st = if (slotOf s c (n / 8) (n % 8)).list = none then 0 else 1) ∧
          (mwf none (clu s c).cstSh = true → ∀ n, mget 0xFFFF_0000 (clu u c).cst n = (mget none (clu s c).cstSh n).getD (mget 0xFFFF_0000 (clu s c).cst n)) ∧
          (∀ v, (clu s c).clkSh = some v → creg u c Reg.PWR_CLK = v) ∧ (clu u c).cstSh = [] ∧ (clu u c).clkSh = none) ∧
      (¬ (q.arrivals = true ∨ q.hostBar ≠ []) ∨ bits (preg s p Reg.STR_BAR_WAIT) 15 0 = 0 ∨ missing s p = [] → exec (.barrierTimeout p) s = .next s) ∧
      (∀ isl kind n r, (q.arrivals = true ∨ q.hostBar ≠ []) → bits (preg s p Reg.STR_BAR_WAIT) 15 0 ≠ 0 → missing s p = (isl, kind, n) :: r →
        Completes (exec (.barrierTimeout p) s) fun u => { u with parts := s.parts, dueErr := s.dueErr } = s ∧ (∀ y, y ≠ p → part u y = part s y) ∧
          { part u p with regs := [] } = { q with regs := [] } ∧ (∀ o, preg u p o = if o = Reg.STR_PERR then orBit (preg s p o) 0 else preg s p o) ∧
          ∃ err : ErrInfo, u.dueErr = s.dueErr ++ [err] ∧ err.sev = 4 ∧ err.cls = 10 ∧ err.detail = 0x09_000E ∧ err.part = some p ∧ err.subject = isl + kind * 2 ^ 16) ∧
      (∀ d, Begins s p 6 d → Completes (exec (.cmdBarrier p) s) fun u => { u with parts := s.parts, mbx := s.mbx } = s ∧ u.due = s.due ∧
        part u p = { q with hostBar := q.hostBar ++ [{ mbx := p, tag := d.tag, seq := d.seq, island := fwIsland s p, fvis := d.fvis, noirq := d.noirq }], arrivals := true } ∧
        (∀ y, y ≠ p → part u y = part s y ∧ mbxOf u y = mbxOf s y) ∧ { mbxOf u p with cmds := [] } = { mbxOf s p with cmds := [] } ∧
        (mbxOf u p).cmds = (mbxOf s p).cmds.map fun y => if y.seq = d.seq then { y with started := true } else y))

/-- With the tables of requests and tasks in canonical form. CMD_SUBMIT_REQUEST: a plan with an SVC is queued with its class, deadline and plan and counted in DSP_ADMIT, unless the quota, DSP_QMAX or the deadline sheds it, in that order: status 2 and a count in DSP_SHED. A failed partition map entry is status 0x0D with PMAP_ERR bit 0, an absent plan
or one without SVC status 1, each with an error record; a request that is not queued holds an entry while the quota has one. LAPSE_CHECK ends every queued request whose remaining budget is below its SVC, with status 3. REQUEST_DISPATCH takes the first queued request whose plan has a free lane (one of a plan that an earlier request found full
waits behind it), with the lowest one and the next sequence number, or ends it if it has lapsed; with none, or in a partition that does not run, it starts nothing. CMD_CANCEL ends a queued request with status 0x0C; a SEQ of no queued request is refused. Tasks of an ended request that have not started stay unstarted. With no such command to begin
nothing changes, and nothing beyond this changes. -/
def Obligations.RequestsServed : Prop :=
  ∀ (s : State), mwf {} s.reqs = true → mwf {} s.tasks = true →
    let u := gcReqs s
    let parts (t : State) (p a b : Nat) : Prop := (∀ k, k ≠ p → part t k = part s k) ∧ { part t p with regs := [] } = { part s p with regs := [] } ∧
      ∀ o, preg t p o = if o = Reg.DSP_ADMIT then bump32 32 a (preg s p o) else if o = Reg.DSP_SHED then bump32 32 b (preg s p o) else preg s p o
    let unstarted (a t : State) (P : Nat → Prop) : Prop := ∀ n, let v := taskOf a n
      (¬ P v.req → taskOf t n = v) ∧ (P v.req → { taskOf t n with st := [] } = { v with st := [] } ∧ (mwf .unsent v.st = true → ∀ c,
        mget .unsent (taskOf t n).st c = let x := mget .unsent v.st c; if x = .queued ∨ (x = .unsent ∧ c ∈ v.clus) then .stopped else x))
    let gone (q : Req) (status detail : Nat) : Due :=
      { mbx := q.mbx, tag := q.tag, seq := q.seq, status := status, detail := detail, island := fwIsland s q.part, fvis := q.fvis, noirq := q.noirq }
    (∀ f, f < 21 → (nextCmd s f 1 = none → exec (.cmdSubmitRequest f) s = .next s) ∧ (nextCmd s f 0x11 = none → exec (.cmdCancel f) s = .next s)) ∧
    (∀ (f : Nat) (c : Cmd) (K : List Nat), f < 16 → Begins s f 1 c →
      let plan := bits (c.a 0) 7 0
      let w := words8 (K.map (peek s))
      let r : Req :=
        { mbx := f, part := f, tag := c.tag, seq := c.seq, fvis := c.fvis, noirq := c.noirq, cls := bits (c.a 0) 9 8, plan := plan,
          arg := bits (c.a 1) 47 0, t0 := c.at0, budget := 2000 * bits (c.a 0) 63 32, ntask := bits (w 0) 55 48 + 1, tasksAt := bits (w 0) 47 0,
          svc := bits (w 1) 31 0, lanes := bits (w 0) 62 56 + 1, lstride := bits (w 1) 63 32 }
      let ahead := ((u.reqs.filter fun x => x.2.part == f && x.2.st == .service).map fun x => x.2.svc).sum +
        (((queueOf u f).filter fun x => precedes x (s.nextReq, r)).map fun x => x.2.svc).sum
      let full : Prop := (part s f).quota ≤ inUse u f
      let long : Prop := preg s f Reg.DSP_QMAX ≤ (reqsIn u f .queued).length
      let late : Prop := bits (c.a 0) 63 32 ≠ 0 ∧ bits (c.a 0) 63 32 < cdiv ahead r.lanes + wakeTime s f + r.svc
      let overAt (t : State) (status detail : Nat) : Prop := Ends s t f c status detail 0 ∧ t.tasks = u.tasks ∧
        (full → t.reqs = u.reqs ∧ t.nextReq = s.nextReq) ∧ (¬ full → t.nextReq = s.nextReq + 1 ∧
          ∀ n, reqOf t n = if n = s.nextReq then { st := .done, mbx := f, part := f, tag := c.tag, seq := c.seq } else reqOf u n)
      let noted (t : State) (sev cls detail : Nat) : Prop := ∃ e : ErrInfo, t.dueErr = s.dueErr ++ [e] ∧ e.sev = sev ∧ e.cls = cls ∧ e.detail = detail ∧ e.tag = c.tag ∧ e.iseq = c.seq
      let absent : Prop := Completes (exec (.cmdSubmitRequest f) s) fun t => overAt t 1 0x0A_0005 ∧ noted t 2 5 0x0A_0005 ∧
        { t with reqs := s.reqs, nextReq := s.nextReq, tasks := s.tasks, mbx := s.mbx, due := s.due, dueErr := s.dueErr } = s
      ((part s f).mapBad = true → Completes (exec (.cmdSubmitRequest f) s) fun t => overAt t 0x0D 0x0C_000A ∧ noted t 3 0 0x0C_000A ∧
        (∀ o, dreg t o = if o = Reg.PMAP_ERR then orBit (dreg s o) 0 else dreg s o) ∧
        { t with reqs := s.reqs, nextReq := s.nextReq, tasks := s.tasks, mbx := s.mbx, due := s.due, dueErr := s.dueErr, dregs := s.dregs } = s) ∧
      ((part s f).mapBad = false → preg s f Reg.DSP_PLAN_COUNT ≤ plan → absent) ∧
      ((part s f).mapBad = false → plan < preg s f Reg.DSP_PLAN_COUNT → Clean s .fw f none (bits (preg s f Reg.DSP_PLAN_BASE) 47 0 + 16 * plan) 16 K →
        (r.svc = 0 → absent) ∧
        (r.svc ≠ 0 → ¬ full → ¬ long → ¬ late → Completes (exec (.cmdSubmitRequest f) s) fun t =>
          { t with reqs := s.reqs, nextReq := s.nextReq, tasks := s.tasks, parts := s.parts, mbx := s.mbx } = s ∧ t.nextReq = s.nextReq + 1 ∧
          (∀ n, reqOf t n = if n = s.nextReq then r else reqOf u n) ∧ t.tasks = u.tasks ∧ (∀ g, g ≠ f → mbxOf t g = mbxOf s g ∧ part t g = part s g) ∧
          { mbxOf t f with cmds := [] } = { mbxOf s f with cmds := [] } ∧ { part t f with regs := [] } = { part s f with regs := [] } ∧
          (mbxOf t f).cmds = ((mbxOf s f).cmds.map fun x => if x.seq = c.seq then { x with started := true } else x) ∧
          ∀ o, preg t f o = if o = Reg.DSP_ADMIT then bump32 0 1 (preg s f o) else preg s f o) ∧
        (r.svc ≠ 0 → ∀ detail, (full ∧ detail = 0x0A_0002) ∨ (¬ full ∧ long ∧ detail = 0x0A_0003) ∨ (¬ full ∧ ¬ long ∧ late ∧ detail = 0x0A_0001) →
          Completes (exec (.cmdSubmitRequest f) s) fun t => overAt t 2 detail ∧
            { t with reqs := s.reqs, nextReq := s.nextReq, tasks := s.tasks, parts := s.parts, mbx := s.mbx, due := s.due } = s ∧ (∀ g, g ≠ f → part t g = part s g) ∧
            { part t f with regs := [] } = { part s f with regs := [] } ∧ ∀ o, preg t f o = if o = Reg.DSP_SHED then bump32 0 1 (preg s f o) else preg s f o))) ∧
    (∀ p, p < 16 →
      let ends (r : Nat) : Prop := (r, reqOf s r) ∈ s.reqs ∧ (reqOf s r).part = p ∧ (reqOf s r).st = .queued ∧ (reqOf s r).budget ≠ 0 ∧
        80 * (reqOf s r).t0 + (reqOf s r).budget < 80 * s.now + 2000 * (reqOf s r).svc
      let lost := s.reqs.filter fun x => x.2.part == p && x.2.st == .queued && lapsed s x.2
      let blocked (A : List (Nat × Req)) : Prop := ∀ A1 y A2, A = A1 ++ y :: A2 → freeLane u y.2 = none ∨ ∃ z ∈ A1, z.2.plan = y.2.plan
      (Completes (exec (.lapseCheck p) s) fun t => { t with reqs := s.reqs, tasks := s.tasks, parts := s.parts, due := s.due } = s ∧
        (∀ r, (¬ ends r → reqOf t r = reqOf s r) ∧ (ends r → reqOf t r = { reqOf s r with st := .done, nextTask := (reqOf s r).ntask })) ∧
        t.due = s.due ++ lost.map (fun x => gone x.2 3 0x0A_0004) ∧ parts t p lost.length lost.length ∧ unstarted s t ends) ∧
      ((part s p).st ≠ .active ∨ (part s p).loading = true → exec (.requestDispatch p) s = .next s) ∧
      ((part s p).st = .active → (part s p).loading = false →
        (∀ A r q B l, queueOf u p = A ++ (r, q) :: B → blocked A → (∀ y ∈ A, y.2.plan ≠ q.plan) → freeLane u q = some l →
          (¬ ends r → Completes (exec (.requestDispatch p) s) fun t => { t with reqs := s.reqs, tasks := s.tasks, parts := s.parts } = s ∧
            t.tasks = u.tasks ∧ (∀ n, reqOf t n = if n = r then { q with st := .service, lane := some l, dseq := (part s p).dseq, tasksAt := q.tasksAt + l * q.lstride }
              else reqOf u n) ∧ ∀ k, part t k = if k = p then { part s p with dseq := ((part s p).dseq + 1) % 2 ^ 64 } else part s k) ∧
          (ends r → Completes (exec (.requestDispatch p) s) fun t => t.due = s.due ++ [gone q 3 0x0A_0004] ∧ reqOf t r = { q with st := .done, nextTask := q.ntask } ∧
            (∀ n, n ≠ r → reqOf t n = reqOf u n) ∧ parts t p 1 1 ∧ unstarted u t (· = r) ∧ { t with reqs := s.reqs, tasks := s.tasks, parts := s.parts, due := s.due } = s)) ∧
        (blocked (queueOf u p) → exec (.requestDispatch p) s = .next u))) ∧
    (∀ f c, f < 16 → Begins s f 0x11 c →
      let sq := bits (c.a 0) 31 0
      let cmds (t : State) : Prop := (∀ g, g ≠ f → mbxOf t g = mbxOf s g) ∧ { mbxOf t f with cmds := [] } = { mbxOf s f with cmds := [] } ∧
        (mbxOf t f).cmds = (mbxOf s f).cmds.map fun x => if x.seq = c.seq then { x with started := true, due := true } else x
      (∀ r q, s.reqs.find? (fun x => x.2.mbx == f && x.2.seq == sq && x.2.st == .queued) = some (r, q) →
        Completes (exec (.cmdCancel f) s) fun t => reqOf t r = { q with st := .done, nextTask := q.ntask } ∧ (∀ n, n ≠ r → reqOf t n = reqOf s n) ∧
          t.due = s.due ++ [gone q 0x0C 0x0B_000D, { mbx := f, tag := c.tag, seq := c.seq, island := fwIsland s f, fvis := c.fvis, noirq := c.noirq }] ∧
          cmds t ∧ parts t q.part 1 0 ∧ unstarted s t (· = r) ∧ { t with reqs := s.reqs, tasks := s.tasks, parts := s.parts, due := s.due, mbx := s.mbx } = s) ∧
      ((∀ x ∈ s.reqs, ¬ (x.2.mbx = f ∧ x.2.seq = sq ∧ x.2.st = .queued)) → Completes (exec (.cmdCancel f) s) fun t =>
        Ends s t f c 1 (if (mbxOf s f).reqSeqs.contains sq ∧ (c.seq + 2 ^ 32 - sq) % 2 ^ 32 < 65536 then 0x0B_000A else 0x0B_0009) 0 ∧
        { t with due := s.due, mbx := s.mbx, dueErr := s.dueErr } = s ∧ ∃ e : ErrInfo, t.dueErr = s.dueErr ++ [e] ∧ e.sev = 2 ∧ e.cls = 5 ∧ e.subject = 0x11))

/-- With the task table in canonical form. TASK_SEND of a sound descriptor whose predecessor condition holds queues the next task on its clusters; a full queue or the condition leaves it to wait, bad complements or content end the request with an error record. TASK_START, while no start is under way: a task that needs a frozen master ends its request with
status 7; else the first ready task starts if its demand fits beside the tokens held, or alone under the oversize rule, and without a ready task nothing happens. A start (of an entry that starts no stream list and hands no bank over at the start, while no new seeds wait) clears the flags of FLAGS, sends its jobs to the queues, sets its contexts
READY at ENTRY with their arguments and holds its tokens. DSP_HOLD_EXPIRY, once the first ready task has not fitted, bars the others. TASK_END of a task that has ended on the cluster frees its tokens; the last cluster of the LAST task ends the request with status 0, counted in DSP_LATE when past its deadline. DSP_HALT writes DSP_CTRL. Nothing else changes. -/
def Obligations.TasksRun : Prop :=
  ∀ (s : State), mwf {} s.tasks = true →
    let unstarted (t : State) (P : Nat → Prop) : Prop := ∀ n, let v := taskOf s n
      (¬ P v.req → taskOf t n = v) ∧ (P v.req → { taskOf t n with st := [] } = { v with st := [] } ∧ (mwf .unsent v.st = true → ∀ c,
        mget .unsent (taskOf t n).st c = let x := mget .unsent v.st c; if x = .queued ∨ (x = .unsent ∧ c ∈ v.clus) then .stopped else x))
    let late (q : Req) : Prop := q.st = .service ∧ q.budget ≠ 0 ∧ 80 * q.t0 + q.budget < 80 * s.now
    let ended (t : State) (r status detail island : Nat) (err : Bool) : Prop := let q := reqOf s r
      (∀ n, reqOf t n = if n = r then { q with st := .done, nextTask := q.ntask } else reqOf s n) ∧
      t.due = s.due ++ [{ mbx := q.mbx, tag := q.tag, seq := q.seq, status := status, detail := detail, island := island, fvis := q.fvis, noirq := q.noirq }] ∧
      (∀ k, { part t k with regs := [] } = { part s k with regs := [] } ∧ (k ≠ q.part → part t k = part s k)) ∧
      ∀ o, let w := preg s q.part o
        (o = Reg.DSP_ADMIT → preg t q.part o = bump32 32 1 w) ∧ (o = Reg.DSP_LATE → (late q → preg t q.part o = bump32 0 1 w) ∧ (¬ late q → preg t q.part o = w)) ∧
        (o = Reg.DSP_ERR → preg t q.part o = if err then orBit w 0 else w) ∧ (o ∉ [Reg.DSP_ADMIT, Reg.DSP_LATE, Reg.DSP_ERR] → preg t q.part o = w)
    (∀ r, hasReq s r = false ∨ (reqOf s r).st ≠ .service ∨ (reqOf s r).ntask ≤ (reqOf s r).nextTask → exec (.taskSend r) s = .next s) ∧
    (∀ r, hasReq s r = true → (reqOf s r).st = .service → (reqOf s r).nextTask < (reqOf s r).ntask → ∀ K,
      let q := reqOf s r
      let a := q.tasksAt + 64 * q.nextTask
      let w := words8 (K.map (peek s))
      let insts := maskBits (w 5) (bits (w 6) 31 0)
      let cl := insts.filterMap (instOf s q.part)
      let prev (t : Nat) : Prop := ∀ c ∈ (taskOf s t).clus, mget .unsent (taskOf s t).st c = .ended ∨ ((w 0).testBit 6 = false ∧ mget .unsent (taskOf s t).st c = .running)
      let sound : Prop := bits (w 0) 3 0 = 1 ∧ bits (w 0) 31 9 = 0 ∧ bits (w 1) 31 27 = 0 ∧ bits (w 4) 63 48 = 0 ∧ bits (w 6) 63 32 = 0 ∧ bits (w 7) 63 0 = 0 ∧
        bits (w 3) 63 32 ≠ 0 ∧ insts ≠ [] ∧ (∀ n ∈ insts, instOf s q.part n ≠ none) ∧ (∀ c ∈ cl, bits (w 1) 15 11 + bits (w 1) 20 16 + 1 ≤ (clu s c).ncell) ∧
        ((w 0).testBit 7 = true ↔ q.tids.length + 1 = q.ntask)
      let fails (status detail sev cls : Nat) : Prop := Completes (exec (.taskSend r) s) fun t => ended t r status detail (fwIsland s q.part) true ∧ unstarted t (· = r) ∧
        { t with reqs := s.reqs, tasks := s.tasks, parts := s.parts, due := s.due, dueErr := s.dueErr } = s ∧
        ∃ e : ErrInfo, t.dueErr = s.dueErr ++ [e] ∧ e.sev = sev ∧ e.cls = cls ∧ e.detail = detail ∧ e.part = some q.part ∧ e.tag = q.tag ∧ e.iseq = q.seq
      Clean s .fw q.part none a 64 K →
      (complOk 32 (bits (w 0) 31 0) (bits (w 0) 63 32) = false → fails 0x0D 0x0A_0007 3 0) ∧
      (complOk 32 (bits (w 0) 31 0) (bits (w 0) 63 32) = true →
        ((∃ t, q.tids.getLast? = some t ∧ ¬ prev t) → exec (.taskSend r) s = .next s) ∧
        ((∀ t, q.tids.getLast? = some t → prev t) →
          (¬ sound → fails 1 0x0A_0006 2 5) ∧
          (sound → (∃ c ∈ cl, 64 ≤ (queuedOn s c).length) → exec (.taskSend r) s = .next s) ∧
          (sound → (∀ c ∈ cl, (queuedOn s c).length < 64) →
            Completes (exec (.taskSend r) s) fun t => { t with tasks := s.tasks, reqs := s.reqs, nextTask := s.nextTask } = s ∧ t.nextTask = s.nextTask + 1 ∧
              (∀ n, reqOf t n = if n = r then { q with nextTask := q.nextTask + 1, tids := q.tids ++ [s.nextTask] } else reqOf s n) ∧
              (∀ n, n ≠ s.nextTask → taskOf t n = taskOf s n) ∧
              { taskOf t s.nextTask with st := [] } =
                { req := r, part := q.part, idx := q.tids.length, nctx := bits (w 0) 5 4 + 1, waitPrev := (w 0).testBit 6, last := (w 0).testBit 7,
                  xsteal := (w 0).testBit 8, entry := bits (w 1) 10 0, cellFirst := bits (w 1) 15 11, ncell := bits (w 1) 20 16 + 1, minStep := bits (w 1) 26 21,
                  arg := q.arg + bits (w 1) 63 32, flags := w 2, energy := bits (w 3) 31 0, dur := bits (w 3) 63 32, clist := bits (w 4) 47 0, daddr := a, clus := cl } ∧
              ∀ c, mget .unsent (taskOf t s.nextTask).st c = if c ∈ cl then .queued else .unsent)))) ∧
    (∀ c, c < 96 →
      let q := clu s c
      let mayGo (d room0 room : Nat) : Prop := (d ≤ room0 ∧ held s c + d ≤ room) ∨ (room0 < d ∧ runningOn s c = [] ∧ 0 < q.bud0)
      (∀ n m, q.starting = none → firstFrozen s c = some (n, m) → hasReq s (taskOf s n).req = true → (reqOf s (taskOf s n).req).st ≠ .done →
        Completes (exec (.taskStart c) s) fun t => ended t (taskOf s n).req 7 m (fwIsland s (reqOf s (taskOf s n).req).part) false ∧ unstarted t (· = (taskOf s n).req) ∧
          { t with reqs := s.reqs, tasks := s.tasks, parts := s.parts, due := s.due } = s) ∧
      (readyTasks s c = [] → q.holdAt = none → q.starting = none → firstFrozen s c = none → exec (.taskStart c) s = .next s) ∧
      (∀ n v rest D E H, readyTasks s c = (n, v) :: rest → v = taskOf s n → firstFrozen s c = none → q.holdAt = none → q.starting = none → q.reseedDue = false →
        awake s c = true → q.hot = false → s.bdev ≠ 0 → (∀ y ∈ runningOn s c, c ∉ y.2.ovr) → v.clus.Nodup →
        let d := cdiv (16 * v.energy * q.cellMHz) (v.dur * 1600)
        let room (b : Nat) : Nat := if (reqOf s v.req).cls < 2 then b else b - b * bits (preg s v.part Reg.PWR_RESV) 3 0 / 16
        let x (i : Nat) : Nat := words8 (D.map (peek s)) i
        let w (i : Nat) : Nat := words8 (E.map (peek s)) i
        let hs := (List.range (bits (w 6) 63 48)).map (words8 (H.map (peek s)))
        let jobs (i : Nat) : List EJob := (List.range (bits (w i) 63 48)).map fun k => { addr := (bits (w i) 47 0 + 64 * k) % 2 ^ 48, task := n }
        let sent := Cluster.refill { q with dw := q.dw ++ jobs 0, vw := q.vw ++ jobs 1, gw := q.gw ++ jobs 2, uw := q.uw ++ jobs 3 }
        let alone : Prop := room q.bud0 < d
        mayGo d (room q.bud0) (room q.bud) → Clean s .fw v.part none v.daddr 64 D → complOk 32 (bits (x 0) 31 0) (bits (x 0) 63 32) = true → taskForm x = true →
        Clean s .fw v.part none ((v.clist + 64 * v.clus.idxOf c) % 2 ^ 48) 64 E → bits (w 4) 63 48 = 0 → bits (w 5) 63 48 = 0 → w 7 = 0 →
        Clean s .fw v.part none (bits (w 6) 47 0) (8 * bits (w 6) 63 48) H → (∀ h ∈ hs, handOk s c h = true ∧ h.testBit 26 = true) →
        Completes (exec (.taskStart c) s) fun t => { t with cells := s.cells, clus := s.clus, tasks := s.tasks } = s ∧ (∀ b, b ≠ c → clu t b = clu s b) ∧
          (∀ i, flagOf t c i = if i < 64 ∧ v.flags.testBit i = true then 0 else flagOf s c i) ∧
          { clu t c with flags := [], regs := [] } = { dealJobs sent.gw.length sent with flags := [], regs := [] } ∧
          (alone → ∀ o, creg t c o = if o = Reg.DSP_TASKS ∨ o = Reg.DSP_OVERSIZE then bump32 0 1 (creg s c o) else creg s c o) ∧
          (¬ alone → ∀ o, creg t c o = if o = Reg.DSP_TASKS then bump32 0 1 (creg s c o) else creg s c o) ∧
          (∀ m, m ≠ n → taskOf t m = taskOf s m) ∧ { taskOf t n with st := v.st, tokens := v.tokens, ovr := v.ovr } = v ∧
          (∀ b, mget .unsent (taskOf t n).st b = if b = c then .running else mget .unsent v.st b) ∧
          (alone → (∀ b, mget 0 (taskOf t n).tokens b = if b = c then q.bud else mget 0 v.tokens b) ∧ (taskOf t n).ovr = c :: v.ovr) ∧
          (¬ alone → (∀ b, mget 0 (taskOf t n).tokens b = if b = c then d else mget 0 v.tokens b) ∧ (taskOf t n).ovr = v.ovr) ∧
          (v.cellFirst + v.ncell ≤ 32 → (∀ m, m / 32 ≠ c → mget {} t.cells m = mget {} s.cells m) ∧ (∀ k, k < 32 → { cellOf t c k with ctx := [] } = { cellOf s c k with ctx := [] }) ∧
            ∀ k y, k < 32 → let free := freeCtxs (cellOf s c k)
              if v.cellFirst ≤ k ∧ k < v.cellFirst + v.ncell ∧ y ∈ free.take v.nctx then
                { ctxOf t c k y with g := [] } = { ctxOf s c k y with st := .ready, pc := v.entry, task := some n, arrived := false, step := false, g := [] } ∧
                (ctxOf t c k y).reg 1 = BitVec.ofNat 64 v.arg ∧ (ctxOf t c k y).reg 2 = BitVec.ofNat 64 (v.clus.idxOf c * v.ncell + (k - v.cellFirst)) ∧
                (ctxOf t c k y).reg 3 = BitVec.ofNat 64 (v.clus.length * v.ncell) ∧ (ctxOf t c k y).reg 4 = BitVec.ofNat 64 (free.idxOf y) ∧
                (ctxOf t c k y).reg 5 = BitVec.ofNat 64 v.nctx ∧ (∀ j, j = 0 ∨ 5 < j → (ctxOf t c k y).reg j = 0)
              else ctxOf t c k y = ctxOf s c k y)) ∧
      (readyTasks s c = [] ∨ q.holdAt = none ∨ (∃ f r, readyTasks s c = f :: r ∧ mayStart s c f.2 = true) → exec (.dspHoldExpiry c) s = .next s) ∧
      (∀ n v rest h, readyTasks s c = (n, v) :: rest → mayStart s c v = false → q.holdAt = some h → Completes (exec (.dspHoldExpiry c) s) fun t =>
        { t with clus := s.clus, parts := s.parts } = s ∧ clu t c = { q with barred := some n } ∧ (∀ b, b ≠ c → clu t b = clu s b) ∧
        (∀ p, { part t p with regs := [] } = { part s p with regs := [] }) ∧
        ∀ p o, preg t p o = if p = v.part ∧ o = Reg.DSP_ERR ∧ rest ≠ [] then orBit (preg s p o) 1 else preg s p o) ∧
      (∀ n, taskEnded s c n = false → exec (.taskEnd c n) s = .next s) ∧
      (∀ n E H, taskEnded s c n = true → q.reseedDue = false →
        let v := taskOf s n
        let w (i : Nat) : Nat := words8 (E.map (peek s)) i
        let last : Prop := (∀ b ∈ v.clus, b = c ∨ mget .unsent v.st b = .ended) ∧ v.last = true
        Clean s .fw v.part none ((v.clist + 64 * v.clus.idxOf c) % 2 ^ 48) 64 E → Clean s .fw v.part none (bits (w 6) 47 0) (8 * bits (w 6) 63 48) H →
        (∀ h ∈ (List.range (bits (w 6) 63 48)).map (words8 (H.map (peek s))), h.testBit 26 = false) →
        (last → hasReq s v.req = true ∧ (reqOf s v.req).st ≠ .done) →
        Completes (exec (.taskEnd c n) s) fun t => { t with clus := s.clus, tasks := s.tasks, parts := s.parts, reqs := s.reqs, due := s.due } = s ∧
          (∀ b, b ≠ c → clu t b = clu s b) ∧ { clu t c with regs := [] } = { q with regs := [] } ∧
          (∀ o, creg t c o = if o = Reg.DSP_TASKS then bump32 32 1 (creg s c o) else creg s c o) ∧ (∀ m, m ≠ n → taskOf t m = taskOf s m) ∧
          { taskOf t n with st := [], tokens := [] } = { v with st := [], tokens := [], ovr := v.ovr.filter (· != c) } ∧
          (∀ b, mget .unsent (taskOf t n).st b = if b = c then .ended else mget .unsent v.st b) ∧ (∀ b, mget 0 (taskOf t n).tokens b = if b = c then 0 else mget 0 v.tokens b) ∧
          (¬ last → t.due = s.due ∧ t.reqs = s.reqs ∧ t.parts = s.parts) ∧ (last → ended t v.req 0 0 (cmpIsland s (v.clus.headD c)) false))) ∧
    (∀ p n halt, (p < 16 → mbxExists s p = false → exec (.dspHalt p n halt) s = .next s) ∧
      (HostWrites s p → instOf s p n = none → exec (.dspHalt p n halt) s = .next s) ∧
      (∀ c, HostWrites s p → instOf s p n = some c → Completes (exec (.dspHalt p n halt) s) fun t => { t with clus := s.clus } = s ∧
        (∀ b, b ≠ c → clu t b = clu s b) ∧ { clu t c with regs := [] } = { clu s c with regs := [] } ∧
        ∀ o, creg t c o = if o = Reg.DSP_CTRL then b2n halt else creg s c o))

/-- BUDGET_PERIOD puts PWR_DEV_CAP and PWR_THERM into effect, forces the clocks of a cluster at T_HARD to 400 MHz until it reads below T_HARD - 5, and but during a takeover sets B_dev and gives each bound cluster its share of it in tokens, before and after the thermal factor. LIMITER_STEP, while the average stands above 102 % of the cap, or
above the cap once limiting, takes one step off every cluster's clocks, down to 400 MHz; LIMITER_RESTORE below 98 % gives one back; the counters go on. PWR_THERM_WRITE takes a pair of limits in range, T_SOFT at most T_HARD - 5. BRUMATION_ENTRY of an idle cluster that PWR_STATE_CFG lets sleep stops its counters and drains its staging registers
(of words with no error and no armed injection); OFF_ENTRY turns a brumating one off. WAKE_COMPLETE, when something asks for it, wakes a brumating cluster as it was, and one that was OFF with banks, flags and programs cleared, new seeds and its image on the way (here: with no waiting host access). Without these conditions nothing happens. Nothing else changes. -/
def Obligations.PowerStates : Prop :=
  ∀ (s : State),
    let avg := bits (dreg s Reg.PWR_INPUT) 31 16
    let top (k : Nat) : Nat := min k (bits (dreg s Reg.PWR_CLK_MAX) 5 0)
    let clocked (c : Nat) (q : Cluster) : Cluster :=
      let cell := top (bits (creg s c Reg.PWR_CLK) 5 0)
      let cmp := top (bits (creg s c Reg.PWR_CLK) 13 8)
      { q with limCell := min q.limCell cell, limCmp := min q.limCmp cmp, cellMHz := if q.hot then 400 else 400 + 25 * (cell - min q.limCell cell),
               cmpMHz := if q.hot then 400 else 400 + 25 * (cmp - min q.limCmp cmp), cycCell := cellCycles s c, cycCmp := cmpCycles s c, cycAt := s.now }
    (∀ pext phio,
      let cap := dreg s Reg.PWR_DEV_CAP
      let hard : Int := Int.ofNat (min 105 (bits (dreg s Reg.PWR_THERM) 15 8))
      let soft : Int := Int.ofNat (bits (dreg s Reg.PWR_THERM) 7 0)
      let b := 9 * (cap - pext) - 10 * phio
      let n (p : Nat) : Nat := (clustersOf s p).length
      let lim (p : Nat) : Nat :=
        let m := bits (dreg s (Reg.PWR_PT_CAP_SET + 8 * p)) 15 0
        let r := (part s p).capReq
        if r = 0 then m else if m = 0 then r else min r m
      let count (p : Nat) : Nat := if (part s p).st = .unbound then 0 else if lim p = 0 then 16 * n p else lim p
      let total := ((List.range 16).map count).sum
      let reads (c : Nat) (P : Int → Prop) : Prop := c < 96 ∧ ∃ x, tempOf s c = some x ∧ P x
      Completes (exec (.budgetPeriod pext phio) s) fun t => { t with clus := s.clus, dregs := s.dregs, bdev := s.bdev, capNow := s.capNow, thermNow := s.thermNow } = s ∧
        t.capNow = cap ∧ t.thermNow = dreg s Reg.PWR_THERM ∧
        (∀ o, o ≠ Reg.PWR_MEASURED → o ≠ Reg.PWR_ERR → dreg t o = dreg s o) ∧
        (∀ i, (dreg t Reg.PWR_ERR).testBit i = true ↔ (dreg s Reg.PWR_ERR).testBit i = true ∨ (i = 1 ∧ ∃ c, reads c (hard ≤ ·)) ∨
          (takingOver s = false ∧ ((i = 3 ∧ b = 0) ∨ (i = 2 ∧ ∃ c p, c < 96 ∧ p < 16 ∧ (clu s c).part = some p ∧ tempOf s c = none)))) ∧
        (∀ c, let q := clu s c
          (reads c (hard ≤ ·) → { clu t c with bud := q.bud, bud0 := q.bud0 } = clocked c { q with hot := true }) ∧
          (q.hot = true → reads c (· < hard - 5) → { clu t c with bud := q.bud, bud0 := q.bud0 } = clocked c { q with hot := false }) ∧
          (¬ reads c (hard ≤ ·) → ¬ (q.hot = true ∧ reads c (· < hard - 5)) → { clu t c with bud := q.bud, bud0 := q.bud0 } = q)) ∧
        (takingOver s = true → t.bdev = s.bdev ∧ dreg t Reg.PWR_MEASURED = dreg s Reg.PWR_MEASURED ∧ ∀ c, (clu t c).bud = (clu s c).bud ∧ (clu t c).bud0 = (clu s c).bud0) ∧
        (takingOver s = false → t.bdev = b ∧ dreg t Reg.PWR_MEASURED = pext % 65536 + phio % 65536 * 2 ^ 16 + b / 10 * 2 ^ 32 ∧
          (∀ c, (∀ p, p < 16 → (clu s c).part ≠ some p) → (clu t c).bud = (clu s c).bud ∧ (clu t c).bud0 = (clu s c).bud0) ∧
          ∀ c p, c < 96 → p < 16 → (clu s c).part = some p →
            let N : Nat := if b < 10 * total then 16 * count p * b else 16 * count p
            let D : Nat := if b < 10 * total then n p * (10 * total) else n p
            (clu t c).bud0 = N / D ∧ (tempOf s c = none → (clu t c).bud = N / (D * 4)) ∧ ∀ x, tempOf s c = some x → (x < soft → (clu t c).bud = N / D) ∧
              (soft ≤ x → (clu t c).bud = N * (max (hard - soft) (4 * (hard - soft) - 3 * (x - soft))).toNat / (D * (4 * (hard - soft)).toNat)))) ∧
    (
      let cap := s.capNow
      let moved (t : State) (f : Nat → Nat) : Prop := (∀ c, 96 ≤ c → clu t c = clu s c) ∧ ∀ c, c < 96 →
        let q := clu s c
        clu t c = clocked c { q with limCell := f q.limCell, limCmp := f q.limCmp } ∧ cellCycles t c = cellCycles s c ∧ cmpCycles t c = cmpCycles s c
      (102 * cap < 100 * avg ∨ (s.limiting = true ∧ cap < avg) → Completes (exec .limiterStep s) fun t =>
        { t with clus := s.clus, dregs := s.dregs, limiting := s.limiting } = s ∧ t.limiting = true ∧
        (∀ o, dreg t o = if o = Reg.PWR_ERR then orBit (dreg s o) 0 else dreg s o) ∧ moved t (· + 1)) ∧
      (¬ (102 * cap < 100 * avg ∨ (s.limiting = true ∧ cap < avg)) → exec .limiterStep s = .next { s with limiting := false }) ∧
      (100 * avg < 98 * cap → Completes (exec .limiterRestore s) fun t => { t with clus := s.clus, limiting := s.limiting } = s ∧ t.limiting = false ∧ moved t (· - 1)) ∧
      (98 * cap ≤ 100 * avg → exec .limiterRestore s = .next s)) ∧
    (∀ v,
      let h := min 105 (max 60 (bits v 15 8))
      let l := max 40 (bits v 7 0)
      (served s = true → l ≤ h - 5 → exec (.pwrThermWrite v) s = .next (setDreg Reg.PWR_THERM (l + h * 256) s)) ∧
      (served s = false ∨ h - 5 < l → exec (.pwrThermWrite v) s = .next s)) ∧
    (∀ c, c < 96 →
      let q := clu s c
      let cfg := preg s (cluPart s c) Reg.PWR_STATE_CFG
      let only (t : State) : Prop := ∀ d, d ≠ c → clu t d = clu s d
      let calm : Prop := ∀ w ∈ s.winQ, sleepsAt s w.part w.addr ≠ some c
      let goes : Prop := cluIdle s c = true ∧ bits cfg 31 16 ≠ 0 ∧ cfg.testBit 32 = true ∧ homesShard s c = false ∧ wakeCause s c = false
      (q.pw = .on → cluIdle s c = true → bits cfg 15 0 ≠ 0 →
        (∀ b e, b < 576 → e ∈ (bankOf s c b).staged → mget 0 s.ecc e.word = 0 ∧ mget 0 s.inj e.word = 0) → Completes (exec (.brumationEntry c) s) fun t =>
        { t with clus := s.clus, banks := s.banks, mem := s.mem } = s ∧ only t ∧
        clu t c = { q with pw := .brum, wake := false, cycCell := cellCycles s c, cycCmp := cmpCycles s c, cycAt := s.now } ∧
        cellCycles t c = cellCycles s c ∧ cmpCycles t c = cmpCycles s c ∧ (∀ d b, b < 576 → bankOf t d b = if d = c then { bankOf s d b with staged := [] } else bankOf s d b) ∧
        (∀ k, ¬ inClu c k → (∀ b e, b < 576 → e ∈ (bankOf s c b).staged → ∀ x ∈ e.data, x.1 ≠ k) → mget 0 t.mem k = mget 0 s.mem k) ∧
        ((∀ b e, b < 576 → e ∈ (bankOf s c b).staged → (e.data.map fun x => x.1).Nodup ∧ ∀ x ∈ e.data, x.1 < 2 ^ 37 ∧ bankOfKey x.1 = (c, b)) →
          ∀ k, peek t k = peek s k)) ∧
      (q.pw ≠ .on ∨ cluIdle s c = false ∨ bits cfg 15 0 = 0 → exec (.brumationEntry c) s = .next s) ∧
      (q.pw = .brum → goes → Completes (exec (.offEntry c) s) fun t => { t with clus := s.clus } = s ∧ only t ∧ clu t c = { q with pw := .off }) ∧
      (q.pw ≠ .brum ∨ ¬ goes → exec (.offEntry c) s = .next s) ∧
      (q.pw = .brum → wakeCause s c = true → calm → Completes (exec (.wakeComplete c) s) fun t =>
        { t with clus := s.clus } = s ∧ only t ∧ clu t c = { q with pw := .on, wake := false, cycAt := s.now }) ∧
      (q.pw = .off → wakeCause s c = true → calm → Completes (exec (.wakeComplete c) s) fun t =>
        { t with clus := s.clus, cells := s.cells, banks := s.banks, mem := s.mem, ecc := s.ecc, srGen := s.srGen, srLane := s.srLane, chorus := s.chorus } = s ∧ only t ∧
        clu t c = { q with pw := .on, wake := false, flags := [], cst := [], cstSh := [], stats := [], snap := [], slots := [], cycCell := 0, cycCmp := 0, cycAt := s.now,
                           reseedDue := false } ∧
        (∀ d b, b < 576 → bankOf t d b = if d = c then {} else bankOf s d b) ∧
        (∀ k, (inClu c k = true → peek t k = 0 ∧ mget 0 t.ecc k = 0) ∧ (inClu c k = false → mget 0 t.mem k = mget 0 s.mem k ∧ mget 0 t.ecc k = mget 0 s.ecc k)) ∧
        (∀ d k, k < 32 → cellOf t d k = if d = c then { frozen := (cellOf s c k).frozen, quiet := (cellOf s c k).quiet } else cellOf s d k) ∧
        (∀ e, (e = c ∨ e = 96 + c ∨ e = 192 + c → mget 0 t.srGen e = (mget 0 s.srGen e + 1) % 2 ^ 26 ∧ ∀ i, i < 128 → mget 0 t.srLane (128 * e + i) = 0) ∧
          (e ≠ c → e ≠ 96 + c → e ≠ 192 + c → mget 0 t.srGen e = mget 0 s.srGen e ∧ ∀ i, i < 128 → mget 0 t.srLane (128 * e + i) = mget 0 s.srLane (128 * e + i))) ∧
        t.chorus = s.chorus ++ match q.part with
          | none => []
          | some p => (List.range q.ncell).flatMap fun k => (part s p).image.map fun g => { clu := c, cell := k, seg := g }) ∧
      (q.pw = .on ∨ wakeCause s c = false → exec (.wakeComplete c) s = .next s))

/-- DOORBELL: a narrow or a disallowed doorbell sets its MBX_ERR bit, a good one moves the fetch target. COMMAND_FETCH and ENTRY_REREAD read the entry at H: one of SEQ S with good complements is taken, and H and S go on, or refused; another is read again up to 8 times; then it ends with CMD_COMPLEMENT, or fetching ends with DOORBELL_AHEAD.
MAILBOX_ENABLE starts or stops a mailbox. COMPLETION_RECORD_WRITE (request table in canonical form) writes the first record due into the ring, its halves' XOR all ones, closes its command and counts it, or waits for room; the sideband's record leaves in a message. Head writes move a head within its bounds; a ring that dropped records then writes its LOST record
first. ERROR_RECORD_WRITE (no bulk unit at its limit) writes the first record due, or the top latch's, into its rings, or counts it as lost. ERR_RING_ENABLE starts or stops the device ring. MSIX_SEND sends a vector that is due, or pends it while masked. Without a mailbox, work or condition nothing happens. Nothing else changes. -/
def Obligations.MailboxesServe : Prop :=
  ∀ (s : State) (f : Nat), f < 20 →
    let m := mbxOf s f
    let S := bits (mreg s f Reg.MBX_CMD_HEAD) 63 32
    let H := bits (mreg s f Reg.MBX_CMD_HEAD) 31 0
    let N := 2 ^ bits (mreg s f Reg.MBX_CMD_CFG) 4 0
    let answers : Prop := mbxExists s f = true ∧ (f < 16 → isFrozen s f (.host f) = false)
    let inRing (head tail v : Nat) : Prop := (v % 2 ^ 32 + 2 ^ 32 - head % 2 ^ 32) % 2 ^ 32 ≤ (tail + 2 ^ 32 - head % 2 ^ 32) % 2 ^ 32
    let sets (o b : Nat) : Nat → Nat := fun r => if r = o then orBit (mreg s f r) b else mreg s f r
    let notes (u t : State) (sev cls detail : Nat) : Prop := ∃ e : ErrInfo, t.dueErr = u.dueErr ++ [e] ∧ e.sev = sev ∧ e.cls = cls ∧ e.detail = detail
    (∀ (wide : Bool) tail expseq hs,
      let u := hostStores f hs s
      let d := (expseq % 2 ^ 32 + 2 ^ 32 - S) % 2 ^ 32
      let i := Instr.doorbell f wide tail expseq hs
      (¬ answers → exec i s = .next u) ∧
      (answers →
        (wide = false → Completes (exec i s) fun t => OnlyMbx u t f ∧ MbxIs t f m (sets Reg.MBX_ERR 0)) ∧
        (wide = true → mbxEnabled s f = false → exec i s = .next u) ∧
        (wide = true → mbxEnabled s f = true →
          (2 ^ 31 ≤ d → Completes (exec i s) fun t => OnlyMbx u t f ∧ MbxIs t f m (sets Reg.MBX_ERR 1)) ∧
          (d < 2 ^ 31 → N ≤ d ∨ tail ≠ (H + d) % N → Completes (exec i s) fun t =>
            OnlyMbx u { t with dueErr := u.dueErr } f ∧ MbxIs t f m (sets Reg.MBX_ERR 2) ∧ notes u t 2 5 0) ∧
          (d < 2 ^ 31 → d < N → tail = (H + d) % N → Completes (exec i s) fun t => OnlyMbx u { t with due := u.due } f ∧
            MbxIs t f { m with target := some (expseq % 2 ^ 32), ahead := false, held := if m.letGo then [] else m.held, letGo := false }
              (fun r => if r = Reg.MBX_COUNTS then bump32 32 1 (mreg s f r) else mreg s f r) ∧
            t.due = s.due ++ (if m.letGo then m.held else []))))) ∧
    (∀ hs i, (i = Instr.commandFetch f hs ∧ ¬ (m.reads = 0 ∧ ∀ x ∈ m.cmds, x.started = true)) ∨ (i = .entryReread f hs ∧ m.reads = 0) ∨
        ((i = .commandFetch f hs ∨ i = .entryReread f hs) ∧ (takingOver s = true ∨ mbxEnabled s f = false ∨ mbxExists s f = false ∨ (f < 16 ∧ (part s f).st = .resetting) ∨
          m.target = none ∨ ∃ tg, m.target = some tg ∧ 2 ^ 31 ≤ (tg + 2 ^ 32 - S) % 2 ^ 32)) → exec i s = .next (hostStores f hs s)) ∧
    (∀ hs i tg, (i = Instr.commandFetch f hs ∧ m.reads = 0 ∧ ∀ x ∈ m.cmds, x.started = true) ∨ (i = .entryReread f hs ∧ m.reads ≠ 0) →
      takingOver s = false → mbxEnabled s f = true → mbxExists s f = true → ¬ (f < 16 ∧ (part s f).st = .resetting) → m.target = some tg → (tg + 2 ^ 32 - S) % 2 ^ 32 < 2 ^ 31 →
      let a := bits (mreg s f Reg.MBX_CMD_BASE) 46 0 + 64 * H
      let u := ringXlat f a 64 (hostStores f hs s)
      let w := words8 (peeks u (hostKey f a) 64)
      let good := complOk 64 (w 0) (w 7) = true
      let c : Cmd := { op := bits (w 0) 15 0, seq := S, tag := w 1, fvis := (w 0).testBit 16, noirq := (w 0).testBit 17, fence := (w 0).testBit 18, args := [w 2, w 3, w 4, w 5, w 6], at0 := s.now }
      let bare : Cmd := { seq := S, tag := w 1, started := true }
      let took (v : Cmd) (g : Cmd → Cmd) : Mbx := { m with reads := 0, cmds := (m.cmds ++ [v]).map fun x => if x.seq = S then g x else x }
      let seen (q : Mbx) : Mbx := { q with reqSeqs := if c.op = 1 then S :: m.reqSeqs.filter (fun x => (S + 2 ^ 32 - x) % 2 ^ 32 < 65536) else m.reqSeqs }
      let passed : Nat → Nat := fun r => if r = Reg.MBX_CMD_HEAD then (H + 1) % N + (S + 1) % 2 ^ 32 * 2 ^ 32 else if r = Reg.MBX_COUNTS then bump32 0 1 (mreg s f r) else mreg s f r
      let rec' (status detail rlen : Nat) (tag : Nat) (c : Cmd) : Due :=
        { mbx := f, tag := tag, seq := S, status := status, detail := detail, island := fwIsland s f, rlen := rlen, fvis := c.fvis, noirq := c.noirq }
      (bits (w 0) 63 32 = S → good →
        (refuseDetail s f c = none → Completes (exec i s) fun t => OnlyMbx u t f ∧ MbxIs t f (seen (took c id)) passed) ∧
        (∀ dt, refuseDetail s f c = some dt → Completes (exec i s) fun t => OnlyMbx u { t with due := u.due, dueErr := u.dueErr } f ∧
          MbxIs t f (seen (took c fun x => { x with started := true, due := true })) passed ∧ t.due = s.due ++ [rec' 1 dt 0 (w 1) c] ∧ notes u t 2 5 dt)) ∧
      (¬ (bits (w 0) 63 32 = S ∧ good) →
        (m.reads < 8 → Completes (exec i s) fun t => OnlyMbx u t f ∧ mbxOf t f = { m with reads := m.reads + 1 }) ∧
        (8 ≤ m.reads → bits (w 0) 63 32 = S → Completes (exec i s) fun t => OnlyMbx u { t with due := u.due, dueErr := u.dueErr } f ∧
          MbxIs t f (took bare fun x => { x with due := true }) passed ∧ t.due = s.due ++ [rec' 0x0D 0x0B_0001 0 (w 1) {}] ∧ notes u t 3 0 0x0B_0001) ∧
        (8 ≤ m.reads → bits (w 0) 63 32 ≠ S → Completes (exec i s) fun t => OnlyMbx u { t with due := u.due } f ∧
          MbxIs t f { m with target := none, reads := 0, ahead := true } (sets Reg.MBX_ERR 3) ∧ t.due = s.due ++ [rec' 0x08 0x0B_0005 H 0 {}]))) ∧
    (¬ answers → ∀ v, exec (.mailboxEnable f true) s = .next s ∧ exec (.mailboxEnable f false) s = .next s ∧ exec (.mbxCplHeadWrite f v) s = .next s ∧ exec (.mbxErrHeadWrite f v) s = .next s) ∧
    (answers →
      (Completes (exec (.mailboxEnable f false) s) fun t => OnlyMbx s t f ∧ MbxIs t f { m with target := none, reads := 0 } fun o => if o = Reg.MBX_CTRL then 0 else mreg s f o) ∧
      (mbxEnabled s f = true → exec (.mailboxEnable f true) s = .next s) ∧
      (mbxEnabled s f = false → Completes (exec (.mailboxEnable f true) s) fun t => ∃ u, LostFirst u t f ∧ OnlyMbx s u f ∧
        MbxIs u f { m with newCpl := false, newErr := false, gone := false, target := none, reads := 0, ahead := false } fun o =>
          if o = Reg.MBX_CTRL then 1 else if o = Reg.MBX_CMD_HEAD then bits (mreg s f Reg.MBX_CMD_CFG) 63 32 * 2 ^ 32
          else if m.newCpl = true ∧ (o = Reg.MBX_CPL_HEAD ∨ o = Reg.MBX_CPL_TAIL) then 0 else if m.newErr = true ∧ (o = Reg.MBX_ERR_HEAD ∨ o = Reg.MBX_ERR_TAIL) then 0 else mreg s f o) ∧
      (∀ v, let head := mreg s f Reg.MBX_CPL_HEAD
        (inRing head (mreg s f Reg.MBX_CPL_TAIL) v → Completes (exec (.mbxCplHeadWrite f v) s) fun t =>
          OnlyMbx s t f ∧ MbxIs t f m fun o => if o = Reg.MBX_CPL_HEAD then v % 2 ^ 32 else mreg s f o) ∧
        (¬ inRing head (mreg s f Reg.MBX_CPL_TAIL) v → Completes (exec (.mbxCplHeadWrite f v) s) fun t => OnlyMbx s t f ∧ MbxIs t f m (sets Reg.MBX_ERR 7))) ∧
      (∀ v, let head := mreg s f Reg.MBX_ERR_HEAD
        let tail := mreg s f Reg.MBX_ERR_TAIL
        (inRing head tail v → Completes (exec (.mbxErrHeadWrite f v) s) fun t => ∃ u, LostFirst u t f ∧ OnlyMbx s u f ∧
          MbxIs u f m fun o => if o = Reg.MBX_ERR_HEAD then v % 2 ^ 32 else mreg s f o) ∧
        (¬ inRing head tail v → Completes (exec (.mbxErrHeadWrite f v) s) fun t => OnlyMbx s t f ∧ MbxIs t f m (sets Reg.MBX_ERR 7)))) ∧
    ((∀ x ∈ s.due, x.mbx ≠ f) ∨ mbxRunning s f = false → exec (.completionRecordWrite f) s = .next s) ∧
    (∀ (A : List Due) (d : Due) B, mwf {} s.reqs = true → s.due = A ++ d :: B → (∀ x ∈ A, x.mbx ≠ f) → d.mbx = f → mbxRunning s f = true →
      let tail := mreg s f Reg.MBX_CPL_TAIL
      let log := bits (mreg s f Reg.MBX_CPL_CFG) 4 0
      let a := bits (mreg s f Reg.MBX_CPL_BASE) 46 0 + 32 * (tail % 2 ^ log)
      let v := ringXlat f a 32 s
      let vis : Bool := d.fvis && d.status == 0
      let isl : Nat := if vis then coreIsland (dieOf s (mbxPort s f)) else d.island
      let closes : Prop := d.status ≠ 8 ∧ d.kind ≠ 1
      (¬ RingFull (mreg s f Reg.MBX_CPL_HEAD) tail log → Completes (exec (.completionRecordWrite f) s) fun t => t.due = A ++ B ∧
        OnlyMbx v { t with due := v.due, mem := v.mem, parts := v.parts, reqs := v.reqs } f ∧
        MbxIs t f { m with cmds := if d.status = 8 ∨ d.kind = 1 ∨ d.old = true then m.cmds else m.cmds.filter (fun c => c.seq != d.seq), waitAt := none
                           counted := if d.noirq then m.counted else m.counted + 1, since := if d.noirq ∨ m.counted ≠ 0 then m.since else s.now } (fun o =>
          if o = Reg.MBX_CPL_TAIL then (tail + 1) % 2 ^ 32 else if o = Reg.MBX_CPL_WAIT then bump32 0 ((m.waitAt.map fun w => (s.now - w) / 25).getD 0) (mreg s f o) else mreg s f o) ∧
        (∀ p, part t p = if vis = true ∧ p = f then { part s p with flushes := (part s p).flushes + 1 } else part s p) ∧
        (∀ n, let r := reqOf s n
          (closes → r.mbx = f → r.seq = d.seq → r.st = .done → reqOf t n = { r with written := true }) ∧
          (¬ (closes ∧ r.mbx = f ∧ r.seq = d.seq ∧ r.st = .done) → reqOf t n = r)) ∧
        ∃ x, WordsAt s t (hostKey f a) 32 [d.tag % 2 ^ 64, d.seq % 2 ^ 32 + d.status % 2 ^ 8 * 2 ^ 32 + d.detail % 2 ^ 24 * 2 ^ 40, isl % 2 ^ 16 + recCycles s isl * 2 ^ 16, x] ∧
          bits x 31 0 = min d.rlen 0xFF_FFFF + b2n vis * 2 ^ 24 + d.kind % 2 * 2 ^ 25 + b2n (tail / 2 ^ log % 2 == 0) * 2 ^ 31 ∧
          foldXor [d.tag % 2 ^ 64, d.seq % 2 ^ 32 + d.status % 2 ^ 8 * 2 ^ 32 + d.detail % 2 ^ 24 * 2 ^ 40, isl % 2 ^ 16 + recCycles s isl * 2 ^ 16, x] = 2 ^ 32 - 1) ∧
      (RingFull (mreg s f Reg.MBX_CPL_HEAD) tail log → Completes (exec (.completionRecordWrite f) s) fun t => OnlyMbx s t f ∧ mbxOf t f = { m with waitAt := some (m.waitAt.getD s.now) })) ∧
    (∀ (A : List Due) (d : Due) B, mwf {} s.reqs = true → s.due = A ++ d :: B → (∀ x ∈ A, x.mbx ≠ 20) → d.mbx = 20 → d.status ≠ 8 → d.kind = 0 → d.old = false →
      Completes (exec (.completionRecordWrite 20) s) fun t => OnlyMbx s { t with due := s.due, sent := s.sent, reqs := s.reqs } 20 ∧ t.due = A ++ B ∧
        mbxOf t 20 = { mbxOf s 20 with cmds := (mbxOf s 20).cmds.filter fun c => c.seq != d.seq } ∧
        (∀ n, (reqOf s n).mbx ≠ 20 → reqOf t n = reqOf s n) ∧ ∃ x, foldXor [d.tag % 2 ^ 64, d.seq % 2 ^ 32 + d.status % 2 ^ 8 * 2 ^ 32 + d.detail % 2 ^ 24 * 2 ^ 40,
            d.island % 2 ^ 16 + recCycles s d.island * 2 ^ 16, x] = 2 ^ 32 - 1 ∧ bits x 31 0 = min d.rlen 0xFF_FFFF ∧
          t.sent = s.sent ++ [(2, [d.tag % 2 ^ 64, d.seq % 2 ^ 32 + d.status % 2 ^ 8 * 2 ^ 32 + d.detail % 2 ^ 24 * 2 ^ 40, d.island % 2 ^ 16 + recCycles s d.island * 2 ^ 16, x])]) ∧
    (takingOver s = true ∨ (bulkTriggers s = [] ∧ s.dueErr = [] ∧ s.latches = []) → exec .errorRecordWrite s = .next s) ∧
    (takingOver s = false → bulkTriggers s = [] →
      (∀ e r, s.dueErr = e :: r → Completes (exec .errorRecordWrite s) fun t => ErrRouted { s with dueErr := r } t e 0) ∧
      (∀ l, s.dueErr = [] → topLatch s.latches = some l → Completes (exec .errorRecordWrite s) fun t => t.trig = s.trig ++ (if l.ovf = 255 then [l.unit] else []) ∧
        ErrRouted { s with latches := s.latches.filter fun x => x.unit != l.unit } { t with trig := s.trig } l.err l.ovf)) ∧
    (∀ v, let tail := dreg s Reg.ERR_RING_TAIL
      (served s = false → exec (.errRingHeadWrite v) s = .next s) ∧
      (served s = true → inRing (dreg s Reg.ERR_RING_HEAD) tail v → Completes (exec (.errRingHeadWrite v) s) fun t => DevLostFirst (setDreg Reg.ERR_RING_HEAD (v % 2 ^ 32) s) t) ∧
      (served s = true → ¬ inRing (dreg s Reg.ERR_RING_HEAD) tail v → exec (.errRingHeadWrite v) s = .next (setDreg Reg.ERR_DFLAGS (orBit (dreg s Reg.ERR_DFLAGS) 6) s))) ∧
    (∀ en, served s = false → exec (.errRingEnable en) s = .next s) ∧
    (served s = true → (exec (.errRingEnable false) s = .next (setDreg Reg.ERR_RING_CTRL 0 s)) ∧
      ((dreg s Reg.ERR_RING_CTRL).testBit 0 = true → exec (.errRingEnable true) s = .next (setDreg Reg.ERR_RING_CTRL 1 s)) ∧
      ((dreg s Reg.ERR_RING_CTRL).testBit 0 = false → Completes (exec (.errRingEnable true) s) fun t => ∃ u, DevLostFirst u t ∧ { u with dregs := s.dregs, ringNew := s.ringNew } = s ∧
        u.ringNew = false ∧ ∀ o, dreg u o = if o = Reg.ERR_RING_CTRL then 1 else if s.ringNew = true ∧ (o = Reg.ERR_RING_HEAD ∨ o = Reg.ERR_RING_TAIL) then 0 else dreg s o)) ∧
    (∀ v (masked : Bool), v < 3 →
      let irq := mreg s f Reg.MBX_IRQ_MOD
      let due : Prop := (v = 0 ∧ m.counted ≠ 0 ∧ (max 1 (bits irq 15 0) ≤ m.counted ∨ bits irq 31 16 ≠ 0)) ∨ (v = 1 ∧ m.errs ≠ 0) ∨ (v = 2 ∧ f = ringFn s ∧ s.ringErrs ≠ 0)
      let pend := mget false m.msixPend v
      (due → Completes (exec (.msixSend f v masked) s) fun t => OnlyMbx s { t with sent := s.sent, ringErrs := s.ringErrs } f ∧
        t.sent = s.sent ++ (if masked then [] else [(1, [f, v])]) ∧ t.ringErrs = s.ringErrs - (if v = 2 then 1 else 0) ∧
        { mbxOf t f with msixPend := [] } = { m with msixPend := [], counted := if v = 0 then 0 else m.counted, since := if v = 0 then 0 else m.since, errs := m.errs - (if v = 1 then 1 else 0) } ∧
        ∀ x, mget false (mbxOf t f).msixPend x = if x = v then masked else mget false m.msixPend x) ∧
      (¬ due → pend = true → masked = false → Completes (exec (.msixSend f v masked) s) fun t =>
        OnlyMbx s { t with sent := s.sent } f ∧ t.sent = s.sent ++ [(1, [f, v])] ∧ { mbxOf t f with msixPend := [] } = { m with msixPend := [] } ∧
        ∀ x, mget false (mbxOf t f).msixPend x = if x = v then false else mget false m.msixPend x) ∧
      (¬ due → pend = false ∨ masked = true → exec (.msixSend f v masked) s = .next s))

/-- With the slots of the I/O stream engines in canonical form. CMD_NOP ends with OK; CMD_PATH_FLUSH too, its record FABRIC_VISIBLE. CMD_QUERY writes the response that SELECT names into its buffer (inline for the sideband), or says what it needs; a reserved SELECT is refused. CMD_SET_BUDGET sets the request or the cap, unless it is below 16 W for a bound
cluster. CMD_UPDATE_ROWS gives its batch to an update engine of the partition that is not frozen, or ends with FAILED if all are; with none that can take it it waits. CMD_LOAD_MODEL stops dispatch; once no request is in service it reads the header, then one record at a time: an I/O stream engine copies DATA, a CHORUS segment goes to every enabled cell,
pairs of a REG record are written, a SHARD moves or waits, and a record that is bad ends it with LOAD_RECORD, a failed chorus with CHORUS_CRC; after the last one it ends with OK and dispatch goes on. A failed map entry ends a query or a budget with status 0x0D. With no such command nothing happens. Faults leave an error record; nothing else changes. -/
def Obligations.CommandsAct : Prop :=
  ∀ (s : State) (f : Nat) (c : Cmd), mwf {} s.ioSlots = true →
    let ok (t : State) : Prop := { t with mbx := s.mbx, due := s.due } = s
    let noted (u t : State) (sev cls detail : Nat) : Prop := ∃ e : ErrInfo, t.dueErr = u.dueErr ++ [e] ∧ e.sev = sev ∧ e.cls = cls ∧ e.detail = detail
    let fails (t : State) (c : Cmd) (status detail rlen sev cls : Nat) : Prop := Ends s t f c status detail rlen ∧ noted s t sev cls detail ∧
      { t with mbx := s.mbx, due := s.due, dueErr := s.dueErr } = s
    let starts (t : State) : Prop := (∀ g, g ≠ f → mbxOf t g = mbxOf s g) ∧ { mbxOf t f with cmds := [] } = { mbxOf s f with cmds := [] } ∧
      (mbxOf t f).cmds = (mbxOf s f).cmds.map fun x => if x.seq = c.seq then { x with started := true } else x
    let mapFail (t : State) : Prop := fails { t with dregs := s.dregs } c 0x0D 0x0C_000A 0 3 0 ∧ ∀ o, dreg t o = if o = Reg.PMAP_ERR then orBit (dreg s o) 0 else dreg s o
    (f < 21 → ∀ i op, (i, op) ∈ [(Instr.cmdNop f, 0), (.cmdPathFlush f, 0x0B), (.cmdQuery f, 7), (.cmdSetBudget f, 9), (.cmdUpdateRows f, 5)] → nextCmd s f op = none → exec i s = .next s) ∧
    (f < 21 → nextCmd s f 2 = none → (part s f).load = none → exec (.cmdLoadModel f) s = .next s) ∧
    (Begins s f 0 c → Completes (exec (.cmdNop f) s) fun t => Ends s t f c 0 0 0 ∧ ok t) ∧
    (Begins s f 0x0B c → Completes (exec (.cmdPathFlush f) s) fun t => Ends s t f { c with fvis := true } 0 0 0 ∧ ok t) ∧
    (Begins s f 7 c →
      let p : Nat := if f < 16 then f else bits (c.a 0) 11 8
      let sel := bits (c.a 0) 7 0
      let on := clustersOf s p
      let rel := bits (dreg s Reg.ERR_FW) 15 0
      let code : Nat := match s.variant with
        | .v16x4 => 0x1604
        | .v12x4 => 0x1204
        | .v16x2 => 0x1602
        | .v8x2 => 0x0802
      let len : Nat := if sel = 0 then 64 else if sel = 1 then 8 * on.length else if sel = 2 then 32 * on.length else 24 * on.length
      let answer (l : List Byte) : Prop :=
        (sel = 0 → l = wordsBytes [code + 0xB0 * 2 ^ 16 + rel / 256 * 2 ^ 32 + rel % 256 * 2 ^ 40 + Config.fwPatch rel % 65536 * 2 ^ 48,
          ((List.range 96).filter fun k => !(clu s k).vacant).length + nStacks s * 2 ^ 8 + nIoDies s * 2 ^ 16 + p * 2 ^ 24, vacantMask s % 2 ^ 64, vacantMask s / 2 ^ 64, 0, 0, 0, 0]) ∧
        (sel = 1 → l = wordsBytes (on.map fun k => k + (clu s k).ncell * 2 ^ 8 + sluSlot s k * 2 ^ 16 + k / 12 * 2 ^ 24)) ∧
        (sel = 2 → ∀ i k, i < on.length → k < 32 → k < (clu s (on.getD i 0)).ncell → l.getD (32 * i + k) 0 = BitVec.ofNat 8 (cellSlotOf s (on.getD i 0) k)) ∧
        (sel = 3 → l = wordsBytes ([0, 96, 192].flatMap fun e => on.map fun k => segNum (moduleIndex s) (mget 0 s.srGen (e + k)) (e + k) 0))
      ((part s p).mapBad = false ∨ sel = 0 →
        (4 ≤ sel → Completes (exec (.cmdQuery f) s) fun t => fails t c 1 0x0B_0004 0 2 5) ∧
        (f < 20 → sel < 4 → bits (c.a 2) 31 0 < len → Completes (exec (.cmdQuery f) s) fun t => fails { t with fresh := s.fresh } c 1 0x0B_000F len 2 5) ∧
        (f = 20 → sel < 4 → Completes (exec (.cmdQuery f) s) fun t => Ends s t f c 0 0 len ∧ ok { t with fresh := s.fresh, sent := s.sent } ∧
          ∃ l : List Byte, l.length = len ∧ answer l ∧ t.sent = s.sent ++ [(10, (l.take 256).map fun b => b.toNat)]) ∧
        (∀ K, f < 20 → sel < 4 → len ≤ bits (c.a 2) 31 0 → CleanIo s f f (bits (c.a 1) 47 0) len K → K.Nodup → Completes (exec (.cmdQuery f) s) fun t =>
          Ends s t f c 0 0 len ∧ answer (K.map (peek t)) ∧ (∀ q, q ∉ K → mget 0 t.mem q = mget 0 s.mem q) ∧ ok { t with mem := s.mem, fresh := s.fresh })) ∧
      ((part s p).mapBad = true → sel ≠ 0 → Completes (exec (.cmdQuery f) s) mapFail)) ∧
    (Begins s f 9 c →
      let p : Nat := if f < 16 then f else bits (c.a 0) 19 16
      let cap := bits (c.a 0) 15 0
      ((part s p).mapBad = true → Completes (exec (.cmdSetBudget f) s) mapFail) ∧
      ((part s p).mapBad = false → cap ≠ 0 → cap < 16 * (clustersOf s p).length → Completes (exec (.cmdSetBudget f) s) fun t => fails t c 1 0x0B_0010 0 2 5) ∧
      ((part s p).mapBad = false → cap = 0 ∨ 16 * (clustersOf s p).length ≤ cap → Completes (exec (.cmdSetBudget f) s) fun t => Ends s t f c 0 0 0 ∧ ok { t with parts := s.parts, dregs := s.dregs } ∧
        (∀ n, part t n = if f < 16 ∧ n = p then { part s n with capReq := cap } else part s n) ∧
        ∀ o, dreg t o = if 16 ≤ f ∧ o = Reg.PWR_PT_CAP_SET + 8 * p then cap else dreg s o)) ∧
    (Begins s f 5 c →
      let rec0 : Due := { mbx := f, tag := c.tag, seq := c.seq, island := fwIsland s f, fvis := c.fvis, noirq := c.noirq }
      let free := (clustersOf s f).filter fun k => !(clu s k).leaving && !isFrozen s f (.upd k)
      (free ≠ [] → Completes (exec (.cmdUpdateRows f) s) fun t => starts t ∧ { t with clus := s.clus, batches := s.batches, nextBatch := s.nextBatch, mbx := s.mbx, fresh := s.fresh } = s ∧
        ∃ k ∈ free, t.nextBatch = s.nextBatch + 1 ∧
          (∀ n, batchOf t n = if n = s.nextBatch then { part := f, clu := k, addr := bits (c.a 0) 47 0, out := bits (c.a 1) 47 0, due := rec0 } else batchOf s n) ∧
          ∀ d, clu t d = if d = k then { clu s d with bq := (clu s d).bq ++ [s.nextBatch] } else clu s d) ∧
      (∀ k, free = [] → (clustersOf s f).find? (fun k => isFrozen s f (.upd k)) = some k → Completes (exec (.cmdUpdateRows f) s) fun t => fails t c 7 (3 + 16 * k) 0 4 2) ∧
      (free = [] → (∀ k ∈ clustersOf s f, isFrozen s f (.upd k) = false) → exec (.cmdUpdateRows f) s = .next s)) ∧
    (Begins s f 2 c → Completes (exec (.cmdLoadModel f) s) fun t => { t with parts := s.parts, mbx := s.mbx } = s ∧ starts t ∧
      ∀ n, part t n = if n = f then { part s n with loading := true, load := some { cmd := c } } else part s n) ∧
    (∀ (l : Load), f ≤ 20 → nextCmd s f 2 = none → (part s f).load = some l → isOpen s f l.cmd.seq = true → (∀ x ∈ (mbxOf s f).cmds, x.seq = l.cmd.seq → x.started = true) →
      let base := bits (l.cmd.a 0) 47 0
      let size := bits (l.cmd.a 1) 39 0
      let go := exec (.cmdLoadModel f) s
      let put (u : State) (l : Load) : State := modPart f (fun q => { q with load := some l }) u
      let goes (t : State) (l : Load) : Prop := ∀ n, part t n = if n = f then { part s n with load := some l } else part s n
      let overAt (t : State) : Prop := (∀ n, part t n = if n = f then { part s n with load := none, loading := false } else part s n) ∧
        ∀ n, ioSlot t n = if (ioSlot s n).mbx = f then {} else ioSlot s n
      let bad : Prop := Completes go fun t => overAt t ∧ fails { t with parts := s.parts, ioSlots := s.ioSlots } l.cmd 1 0x0B_000E l.idx 2 5
      let w (E : List Nat) : Nat := valAt s (E.take 8)
      let next (n : Nat) : Load := { l with addr := l.addr + 16 + n, idx := l.idx + 1, sent := false, copying := false }
      (l.opened = false → reqsIn s f .service ≠ [] → go = .next s) ∧
      (l.opened = false → reqsIn s f .service = [] → (size < 32 → bad) ∧
        (∀ E, 32 ≤ size → CleanIo s f f base 32 E →
          (bits (w E) 15 0 = 1 → Completes go fun t => { t with parts := s.parts } = s ∧ goes t { l with opened := true, addr := base + 32, total := bits (w E) 63 32 }) ∧
          (bits (w E) 15 0 ≠ 1 → bad))) ∧
      (l.opened = true → l.failed = true → Completes go fun t => overAt t ∧ Ends s t f l.cmd 1 0x05_0008 l.idx ∧ ok { t with parts := s.parts, ioSlots := s.ioSlots }) ∧
      (l.opened = true → l.failed = false → l.copying = true →
        (∀ n x, s.ioSlots.find? (fun x => x.2.mbx == f) = some (n, x) → x.stop = none → (x.todo ≠ [] → go = .next s) ∧
          (∀ E, x.todo = [] → CleanIo s f f l.addr 8 E → Completes go fun t => { t with parts := s.parts, ioSlots := s.ioSlots } = s ∧ goes t (next (bits (valAt s E) 63 32)) ∧
            ∀ j, ioSlot t j = if j = n then {} else ioSlot s j)) ∧
        ((∀ x ∈ s.ioSlots, x.2.mbx ≠ f) → go = .next (put s { l with copying := false }))) ∧
      (l.opened = true → l.failed = false → l.copying = false → l.sent = true →
        ((∃ j ∈ s.chorus, j.cmd = some (f, l.cmd.seq)) → go = .next s) ∧
        (∀ E, (∀ j ∈ s.chorus, j.cmd ≠ some (f, l.cmd.seq)) → CleanIo s f f l.addr 8 E → go = .next (put s (next (bits (valAt s E) 63 32))))) ∧
      (l.opened = true → l.failed = false → l.copying = false → l.sent = false →
        (l.total ≤ l.idx → Completes go fun t => overAt t ∧ Ends s t f l.cmd 0 0 l.idx ∧ ok { t with parts := s.parts, ioSlots := s.ioSlots }) ∧
        (l.idx < l.total → base + size < l.addr + 16 → bad) ∧
        (∀ E B, l.idx < l.total → l.addr + 16 ≤ base + size → CleanIo s f f l.addr 16 E →
          let dest := bits (valAt s (E.drop 8)) 47 0
          let ty := bits (w E) 3 0
          let len := bits (w E) 63 32
          let wrong : Prop := 3 < ty ∨ len % 8 ≠ 0 ∨ base + size < l.addr + 16 + len ∨ (ty ≠ 0 ∧ dest ≠ 0)
          let slots := (List.range 32).map fun i => 32 * dieOf s (mbxPort s f) + i
          (wrong → bad) ∧
          (¬ wrong → ty = 0 → (∀ n ∈ slots, (ioSlot s n).busy = true) → go = .next s) ∧
          (¬ wrong → ty = 0 → (∃ n ∈ slots, (ioSlot s n).busy = false) → Completes go fun t => { t with parts := s.parts, ioSlots := s.ioSlots, fresh := s.fresh } = s ∧
            goes t { l with copying := true } ∧ ∃ n ∈ slots, (ioSlot s n).busy = false ∧ ∀ j, ioSlot t j =
              if j = n then { busy := true, mbx := f, seq := l.cmd.seq, part := f, todo := ioDescs (l.addr + 16) dest len } else ioSlot s j) ∧
          (¬ wrong → ty ≠ 0 → CleanIo s f f (l.addr + 16) len B →
            (ty = 1 → segsOf (len / 32) (B.map (peek s)) = none → bad) ∧
            (∀ hs : List (List Nat × List Nat), ty = 1 → B.map (peek s) = wordsBytes (hs.flatMap fun g => g.1 ++ g.2) →
              (∀ g ∈ hs, g.1.length = 4 ∧ (∀ x ∈ g.1 ++ g.2, x < 2 ^ 64) ∧ bits (dw g.1 0) 15 0 = 1 ∧ bits (dw g.1 0) 31 16 = g.2.length ∧ g.2 ≠ [] ∧ bits (dw g.1 0) 47 32 + g.2.length ≤ 2048) →
              let segs : List Seg := hs.map fun g => { base := bits (dw g.1 0) 47 32, crc := bits (dw g.1 1) 31 0, id := bits (dw g.1 1) 63 32, words := g.2.map (BitVec.ofNat 64) }
              Completes go fun t => { t with parts := s.parts, chorus := s.chorus } = s ∧
                (∀ n, part t n = if n = f then { part s n with load := some { l with sent := true, imaged := true }, image := if l.imaged then (part s f).image ++ segs else segs } else part s n) ∧
                t.chorus = s.chorus ++ (clustersOf s f).flatMap fun k => (List.range (clu s k).ncell).flatMap fun j => segs.map fun g => { clu := k, cell := j, seg := g, cmd := some (f, l.cmd.seq) }) ∧
            (∀ u, ty = 2 →
              let pairs := (List.range (len / 8)).map fun i => valAt s ((B.drop (8 * i)).take 8)
              (regPairs f pairs s = (true, u) → go = .next (put u (next len))) ∧
              (regPairs f pairs s = (false, u) → (mbxOf u f).cmds = (mbxOf s f).cmds → Completes go fun t => (part t f).load = none ∧ (part t f).loading = false ∧
                Ends u t f l.cmd 1 0x0B_000E l.idx ∧ noted u t 2 5 0x0B_000E)) ∧
            (∀ u r, ty = 3 → (len ≠ 24 → bad) ∧ (len = 24 → runEM (moveShard f (ioOf s f) (w B) ((B.drop 8).map (peek s))) s = .good r u →
              (r = .moved → go = .next (put u (next len))) ∧ (r = .wait → go = .next u) ∧
              (r = .bad → (mbxOf u f).cmds = (mbxOf s f).cmds → Completes go fun t => (part t f).load = none ∧ (part t f).loading = false ∧ Ends u t f l.cmd 1 0x0B_000E l.idx)))))))

/-- REGISTER_WRITE: an aligned 64-bit write of a LIVE field takes its value, clamped to its range; a W1C bit is cleared; a QUIET one of a running block freezes the host function; a narrow doorbell sets its bit, another narrow or misaligned write is discarded. EXPERT_RANGE_ACCESS answers the bytes read; at basic level it sets NOT_EXPERT.
A function that does not answer, or is frozen, takes no write. PERST# and FLR put a bound partition in orphan hold, its open items' records held with HOST_GONE, or reset it under DROP; PERST# resets the port's configuration space and PF0; PF0's mailbox keeps only what is open. TOKEN_COMMIT stores a pair of good complements.
CMD_RECLAIM with the stored token, or FORCE, ends orphan hold; a wrong one locks the next out until RECLAIM_LOCKOUT_EXPIRY. DEV_EXPERT_WRITE and DEV_PORT_CFG_WRITE write their registers, the latter not while VF Enable is 1; a cleared ATS Enable drops translations. BULK_PORT_LINK_DOWN counts a lost expander. -/
def Obligations.HostsAct : Prop :=
  ∀ (s : State),
    let noted (t : State) (sev cls detail : Nat) : Prop := ∃ e : ErrInfo, t.dueErr = s.dueErr ++ [e] ∧ e.sev = sev ∧ e.cls = cls ∧ e.detail = detail
    (∀ p off n v, p < 16 → mbxExists s p = false ∨ (expertOff off = false ∧ isFrozen s p (.host p) = true) → exec (.registerWrite p off n v) s = .next s) ∧
    (∀ p off v, HostWrites s p →
      let live := [(Reg.STR_HALT_LIMIT, max 1 (bits v 7 0)), (Reg.STR_BAR_WAIT, bits v 15 0), (Reg.BNK_SEL, bits v 6 0), (Reg.BNK_WIN_CTRL, v % 2), (Reg.QNT_RM_WAIT, max 1 (bits v 15 0)),
        (Reg.TBL_GRANT, bits v 31 0), (Reg.TBL_REMOTE_WAIT, max 1 (bits v 15 0)), (Reg.DSP_QMAX, max 1 (bits v 15 0)), (Reg.DSP_HOLD, max 1 (bits v 15 0)), (Reg.PWR_RESV, bits v 3 0), (Reg.PWR_STATE_CFG, bits v 32 0)]
      let busy := reqsIn s p .queued ≠ [] ∨ reqsIn s p .service ≠ []
      (∀ x, (off, x) ∈ live → exec (.registerWrite p off 8 v) s = .next (setPreg p off x s)) ∧
      (∀ n, (off, n) ∈ [(Reg.STR_PERR, 2), (Reg.BNK_ERR, 4), (Reg.DSP_ERR, 2), (Reg.TBL_ERR, 2)] → Completes (exec (.registerWrite p off 8 v) s) fun t => { t with parts := s.parts } = s ∧
        (∀ q, q ≠ p → part t q = part s q) ∧ { part t p with regs := [] } = { part s p with regs := [] } ∧
        (∀ o, o ≠ off → preg t p o = preg s p o) ∧ ∀ i, i < 64 → (preg t p off).testBit i = ((preg s p off).testBit i && !(decide (i < n) && v.testBit i))) ∧
      (¬ busy → exec (.registerWrite p Reg.DSP_PLAN_BASE 8 v) s = .next (setPreg p Reg.DSP_PLAN_BASE (bits v 47 0) s)) ∧
      (busy → Completes (exec (.registerWrite p Reg.DSP_PLAN_BASE 8 v) s) fun t => isFrozen t p (.host p) = true ∧ preg t p Reg.DSP_PLAN_BASE = preg s p Reg.DSP_PLAN_BASE ∧ t.mem = s.mem) ∧
      (∀ n, n < 8 → off / 8 * 8 = 0x1020 → exec (.registerWrite p off n v) s = .next (flagM p 0 s)) ∧
      (∀ n, n ≠ 8 ∨ off % 8 ≠ 0 → ¬ (n < 8 ∧ off / 8 * 8 = 0x1020) → exec (.registerWrite p off n v) s = .next s) ∧
      (∀ n k x, (off / 8 * 8, x) ∈ live → off / 8 * 8 ≠ Reg.BNK_SEL → n ∈ [1, 2, 4, 8] → off % n = 0 → k = off % 8 →
        exec (.expertRangeAccess p off n false v) s = .next { s with ans := (0, leBytes n (preg s p (off / 8 * 8) / 2 ^ (8 * k) % 2 ^ (8 * n))) })) ∧
    (∀ p off n v, p < 16 → mbxExists s p = true → (dreg s Reg.DEV_EXPERT).testBit p = false → expertOff off = true →
      exec (.expertRangeAccess p off n false v) s = .next { setMreg p Reg.MBX_ERR (orBit (mreg s p Reg.MBX_ERR) 5) s with ans := (1, []) } ∧
      exec (.expertRangeAccess p off n true v) s = .next { setMreg p Reg.MBX_ERR (orBit (mreg s p Reg.MBX_ERR) 5) s with sent := s.sent ++ [(16, [p])] } ∧
      exec (.registerWrite p off n v) s = .next { setMreg p Reg.MBX_ERR (orBit (mreg s p Reg.MBX_ERR) 5) s with sent := s.sent ++ [(16, [p])] }) ∧
    (∀ port v off n, port < 4 →
      (mgmtOk s port = false ∨ mgmtEnded s = false → exec (.registerWrite (16 + port) off n v) s = .next s) ∧
      (mgmtOk s port = true → mgmtEnded s = true → (off / 8 * 8 = 0x820 → n < 8 → exec (.registerWrite (16 + port) off n v) s = .next (flagM (16 + port) 0 s)) ∧
        (¬ (off / 8 * 8 = 0x820 ∧ n < 8) → n ≠ 8 ∨ off % 8 ≠ 0 → exec (.registerWrite (16 + port) off n v) s = .next s) ∧ ∀ x,
        (off, x) ∈ [(Reg.BRG_CFG, bits v 1 0), (Reg.BRG_LOG_SEL, bits v 2 0), (Reg.DFL_SEL, bits v 11 0)] ∨ (served s = true ∧
          (off, x) ∈ [(Reg.PMAP_SEL, bits v 3 0), (Reg.PMAP_DRAIN, min 1000 (max 100 (bits v 15 0))), (Reg.PWR_DEV_CAP, min 3000 (max 1200 (bits v 15 0))), (Reg.PWR_CLK_MAX, min 48 (bits v 5 0))]) →
        exec (.registerWrite (16 + port) off 8 v) s = .next (setDreg off x s) ∧
        exec (.expertRangeAccess (16 + port) off 8 false v) s = .next { s with ans := (0, leBytes 8 (mgmtRead s (16 + port) off % 2 ^ 64)) })) ∧
    (∀ v, exec (.devExpertWrite v) s = .next (if mgmtEnded s then setDreg Reg.DEV_EXPERT (bits v 15 0) s else s)) ∧
    (∀ port v (h : HostCfg), port < 4 →
      let off := Reg.DEV_PORT_CFG + 8 * port
      let lastOne := v.testBit 1 = false ∧ s.session = false ∧ ∀ q, q < 4 → q ≠ port → mgmtOk s q = false
      Completes (exec (.devPortCfgWrite port v h) s) fun t => { t with hostCfg := s.hostCfg, atc := s.atc, dregs := s.dregs, dueErr := s.dueErr } = s ∧
        (∀ q, mget {} t.hostCfg q = if q = port then { h with ats := h.ats % 2 ^ 16, pri := h.pri % 2 ^ 16 } else mget {} s.hostCfg q) ∧
        t.atc = s.atc.filter (fun x => x.port != port || (h.ats % 2 ^ 16).testBit (x.vf - 1)) ∧
        (mgmtEnded s = false ∨ (h.vfen = false ∧ lastOne) → t.dregs = s.dregs ∧ t.dueErr = s.dueErr) ∧
        (mgmtEnded s = true → h.vfen = true → (∀ o, dreg t o = if o = Reg.PMAP_ERR then orBit (dreg s o) 1 else dreg s o) ∧ noted t 4 2 0) ∧
        (mgmtEnded s = true → h.vfen = false → ¬ lastOne → t.dueErr = s.dueErr ∧
          ∀ o, dreg t o = if o = off then bits v 2 0 + min 36 (max 30 (bits v 13 8)) * 256 else dreg s o)) ∧
    (∀ port, port < 4 →
      exec (.bulkPortLinkDown port true) s = .next { s with bulkOut := if s.bulkOut.testBit port then s.bulkOut - 2 ^ port else s.bulkOut } ∧
      (s.bulkOut.testBit port = true → exec (.bulkPortLinkDown port false) s = .next s) ∧
      (s.bulkOut.testBit port = false → Completes (exec (.bulkPortLinkDown port false) s) fun t => { t with bulkOut := s.bulkOut, dregs := s.dregs, dueErr := s.dueErr } = s ∧
        t.bulkOut = s.bulkOut + 2 ^ port ∧ (∀ o, dreg t o = if o = Reg.ERR_EVENTS then bump32 0 1 (dreg s o) else dreg s o) ∧
        ∃ e : ErrInfo, t.dueErr = s.dueErr ++ [e] ∧ e.sev = 5 ∧ e.cls = 3 ∧ e.subject = port + 96 ∧ e.part = none)) ∧
    (∀ f, f < 21 → nextCmd s f 0x0A = none → exec (.cmdReclaim f) s = .next s) ∧
    (∀ p, p < 16 →
      let q := part s p
      let parts (t : State) (x : Part) : Prop := ∀ n, part t n = if n = p then x else part s n
      let one (t : State) (x : Part) : Prop := { t with parts := s.parts } = s ∧ parts t x
      (mbxExists s p = true → isFrozen s p (.host p) = false →
        (complOk 64 q.tokW q.tokWN = true → Completes (exec (.tokenCommit p) s) fun t => one t { q with token := q.tokW, tokenN := q.tokWN }) ∧
        (complOk 64 q.tokW q.tokWN = false → Completes (exec (.tokenCommit p) s) fun t => one t { q with tokBad := true })) ∧
      (mbxExists s p = false ∨ isFrozen s p (.host p) = true → exec (.tokenCommit p) s = .next s) ∧
      (Completes (exec (.reclaimLockoutExpiry p) s) fun t => one t { q with lockout := false }) ∧
      (∀ f c, Begins s f 0x0A c → p = (if f < 16 then f else bits (c.a 2) 3 0) →
        let force : Prop := 16 ≤ f ∧ (c.a 2).testBit 4 = true
        let ok : Due := { mbx := f, tag := c.tag, seq := c.seq, island := fwIsland s f, fvis := c.fvis, noirq := c.noirq }
        let free : Part := { q with st := if q.st = .orphan then .active else q.st }
        let only (t : State) : Prop := { t with parts := s.parts, mbx := s.mbx, due := s.due } = s ∧ (∀ g, g ≠ f → g ≠ p → mbxOf t g = mbxOf s g) ∧ (16 ≤ f → { mbxOf t f with cmds := [] } = { mbxOf s f with cmds := [] }) ∧
          (mbxOf t f).cmds = (mbxOf s f).cmds.map fun x => if x.seq = c.seq then { x with started := true, due := true } else x
        let letGo (t : State) : Prop := t.due = s.due ++ [ok] ∧ { mbxOf t p with letGo := false } = { mbxOf s p with letGo := false } ∧ (mbxOf t p).letGo = true
        (force → Completes (exec (.cmdReclaim f) s) fun t => only t ∧ parts t free ∧ (q.st = .orphan → letGo t) ∧ (q.st ≠ .orphan → t.due = s.due ++ [ok] ∧ mbxOf t p = mbxOf s p)) ∧
        (¬ force → q.lockout = true → exec (.cmdReclaim f) s = .next s) ∧
        (¬ force → q.lockout = false →
          (complOk 64 (c.a 0) (c.a 1) = false → Completes (exec (.cmdReclaim f) s) fun t => Ends s t f c 0x0D 0x0B_0008 0 ∧ { t with mbx := s.mbx, due := s.due, dueErr := s.dueErr } = s ∧
            noted t 3 0 0x0B_0008) ∧
          (complOk 64 (c.a 0) (c.a 1) = true → complOk 64 q.token q.tokenN = false → Completes (exec (.cmdReclaim f) s) fun t => Ends s t f c 0x0D 0x0B_0008 0 ∧
            { t with mbx := s.mbx, due := s.due, dueErr := s.dueErr } = s ∧ ∃ e d : ErrInfo, t.dueErr = s.dueErr ++ [d, e] ∧ e.sev = 3 ∧ e.detail = 0x0B_0008 ∧ d.detail = 0x0B_0008 ∧ d.part = none) ∧
          (complOk 64 (c.a 0) (c.a 1) = true → complOk 64 q.token q.tokenN = true →
            (q.token = 0 ∨ c.a 0 ≠ q.token → Completes (exec (.cmdReclaim f) s) fun t => Ends s t f c 1 0x0B_0007 0 ∧ noted t 2 5 0x0B_0007 ∧
              { t with parts := s.parts, mbx := s.mbx, due := s.due, dueErr := s.dueErr } = s ∧ { part t p with regs := [] } = { q with regs := [], lockout := true } ∧
              (∀ o, preg t p o = if o = Reg.PT_RECLAIM_FAIL then bump32 0 1 (preg s p o) else preg s p o) ∧ ∀ n, n ≠ p → part t n = part s n) ∧
            (q.token ≠ 0 → c.a 0 = q.token → Completes (exec (.cmdReclaim f) s) fun t => only t ∧ parts t free ∧ (16 ≤ f → letGo t) ∧
              (f < 16 → t.due = s.due ++ (mbxOf s p).held ++ [ok] ∧ { mbxOf t p with cmds := [] } = { mbxOf s p with cmds := [], held := [], letGo := false })))))) ∧
    (∀ port fn gen width i detail, port < 4 → s.pwr = 2 → linkOk gen width = true →
        (i = Instr.perst port gen width ∧ detail = 0x0B_000B ∧ fn = none) ∨ (∃ n, 0 < n ∧ n ≤ 16 ∧ i = .flr port n ∧ detail = 0x0B_000C ∧ fn = some n) →
      let h := mget {} s.hostCfg port
      let cfg : HostCfg := match fn with
        | none => {}
        | some n => { h with ats := clearBit h.ats (n - 1), pri := clearBit h.pri (n - 1) }
      let who := (List.range 16).filter fun p => (part s p).st != .unbound && (part s p).port == port && (fn.all fun n => (part s p).vf == n)
      let space (t : State) : Prop := (∀ q, mget {} t.hostCfg q = if q = port then cfg else mget {} s.hostCfg q) ∧ (∀ x ∈ t.atc, x.port = port → cfg.ats.testBit (x.vf - 1) = true) ∧
        (fn = none → (∀ x ∈ t.pages, x.port ≠ port) ∧ mget (0, 0) t.hostLnk port = (gen, width) ∧ t.cxl.testBit port = (dreg s (Reg.DEV_PORT_CFG + 8 * port)).testBit 2 ∧
          mreg t (16 + port) Reg.MBX_CTRL = 0 ∧ (mbxOf t (16 + port)).target = none)
      (who = [] → Completes (exec i s) fun t => space t ∧ { t with hostCfg := s.hostCfg, atc := s.atc, pages := s.pages, hostLnk := s.hostLnk, cxl := s.cxl, mbx := s.mbx, due := s.due } = s ∧
        (fn ≠ none → t.mbx = s.mbx ∧ t.due = s.due ∧ t.pages = s.pages ∧ t.hostLnk = s.hostLnk ∧ t.cxl = s.cxl)) ∧
      (∀ p, who = [p] → (part s p).st ≠ .resetting → Completes (exec i s) fun t => space t ∧ mreg t p Reg.MBX_CTRL = 0 ∧ (∀ n, n ≠ p → (part t n).st = (part s n).st) ∧
        ((dreg s (Reg.DEV_PORT_CFG + 8 * port)).testBit 0 = true → (part t p).st = .resetting) ∧
        ((dreg s (Reg.DEV_PORT_CFG + 8 * port)).testBit 0 = false → (part t p).st = .orphan ∧ (mbxOf t p).cmds = [] ∧ (∀ d ∈ t.due, d.mbx ≠ p) ∧ t.mem = s.mem ∧
          (∀ d ∈ (mbxOf s p).held, d ∈ (mbxOf t p).held) ∧ (∀ d ∈ s.due, d.mbx = p → d.kind = 0 → d.status ≠ 8 → { d with old := true } ∈ (mbxOf t p).held) ∧
          ∀ x ∈ (mbxOf s p).cmds, x.due = false → (∀ d ∈ s.due, d.mbx = p → d.seq ≠ x.seq) → ∃ d ∈ (mbxOf t p).held, d.seq = x.seq ∧ d.status = 0x0B ∧ d.detail = detail))) ∧
    (∀ port gen width fn, port < 4 → fn ≤ 16 → s.pwr ≠ 2 → exec (.flr port fn) s = .next s ∧ (linkOk gen width = true → exec (.perst port gen width) s = .next s)) ∧
    (∀ port, port < 4 → s.pwr = 2 →
      let f := 16 + port
      let m := mbxOf s f
      let left := m.cmds.filter fun c => !(c.due || s.due.any fun d => d.mbx == f && d.seq == c.seq)
      let isOpen : Prop := left ≠ [] ∨ ∃ d ∈ s.due, d.mbx = f
      Completes (exec (.flr port 0) s) fun t => OnlyMbx s { t with due := s.due } f ∧
        (isOpen → mbxOf t f = { cmds := left, lost := m.lost, gone := true } ∧ t.due = s.due.map fun d => if d.mbx = f then { d with old := true } else d) ∧
        (¬ isOpen → mbxOf t f = {} ∧ t.due = s.due))

/-- CMD_BIND and CMD_UNBIND of a partition not being reset: a failed map entry, or a resource that R411 refuses, ends the command with its detail and an error record; a function is bound or its partition reset, a cluster begins to move, an extent is in effect from the next release, a queue, a share or a quota at once. Else an open rebinding goes on: a move
whose cluster has drained joins (here with no shard to rewrite, a cluster that takes its entries, and maps in canonical form): its units cleared, owners as at a bind, seeds reapplied, the image on its way; then its command ends, as that of an idle queue and of a reset function does; with none, firmware arrives for the host where only it is missing.
CLUSTER_DRAIN_LIMIT stops the tasks still on the cluster. CMD_SCRUB clears an extent, a range, a cluster or a partition. CMD_FREEZE_RELEASE releases one frozen master or all: a cell's contexts, a stream engine's slots or another master's queues are empty. With no such command the last two do nothing. -/
def Obligations.PartitionsRebind : Prop :=
  ∀ (s : State) (f : Nat) (c : Cmd), 16 ≤ f →
    let p := bits (c.a 0) 3 0
    let kind := bits (c.a 0) 7 4
    let a := c.a 1
    let scrub := (c.a 0).testBit 8
    let ok : Due := { mbx := f, tag := c.tag, seq := c.seq, island := fwIsland s f, fvis := c.fvis, noirq := c.noirq }
    let q := part s p
    let but (t : State) : Prop := { t with mbx := s.mbx, due := s.due } = s
    let fails (t : State) (status detail sev cls : Nat) : Prop := Ends s t f c status detail 0 ∧ { t with mbx := s.mbx, due := s.due, dueErr := s.dueErr } = s ∧
      ∃ e : ErrInfo, t.dueErr = s.dueErr ++ [e] ∧ e.sev = sev ∧ e.cls = cls ∧ e.detail = detail
    let mapFail (t : State) : Prop := fails { t with dregs := s.dregs } 0x0D 0x0C_000A 3 0 ∧ ∀ o, dreg t o = if o = Reg.PMAP_ERR then orBit (dreg s o) 0 else dreg s o
    let starts (t : State) : Prop := t.due = s.due ∧ (∀ g, g ≠ f → mbxOf t g = mbxOf s g) ∧ { mbxOf t f with cmds := [] } = { mbxOf s f with cmds := [] } ∧
      (mbxOf t f).cmds = (mbxOf s f).cmds.map fun x => if x.seq = c.seq then { x with started := true } else x
    let only (t : State) (x : Part) : Prop := ∀ n, part t n = if n = p then x else part s n
    let hbm : Extent := { first := bits a 12 4, n := bits a 21 13 + 1, lo := bits a 28 24, hi := bits a 36 32 }
    let blk : Extent := { ports := bits a 7 4, lo := bits a 27 16, hi := bits a 43 32 }
    let later (x : Bool × Extent) : List (Bool × Extent) := if scrub then q.scrubs ++ [x] else q.scrubs
    let zero (t : State) (g : Nat → Bool) : Prop := ∀ k, mget 0 t.mem k = (if g k then 0 else mget 0 s.mem k) ∧ mget 0 t.ecc k = if g k then 0 else mget 0 s.ecc k
    let wait (t : State) (x : Part) : Prop := { t with mbx := s.mbx, parts := s.parts, mem := s.mem, ecc := s.ecc } = s ∧ starts t ∧ only t { x with arrivals := q.arrivals || decide (missing s p = []) }
    let moving (t : State) (m : Move) : Prop := { t with mbx := s.mbx, moves := s.moves, clus := s.clus } = s ∧ starts t ∧ t.moves = s.moves ++ [m] ∧
      ∀ d, clu t d = if d = m.clu then { clu s d with leaving := true } else clu s d
    let same (t : State) : Prop := t.mem = s.mem ∧ t.ecc = s.ecc
    (Begins s f 3 c → q.st ≠ .resetting →
      let mv := (c.a 0).testBit 9
      let bad : Prop := q.mapBad = true ∨ (mv = true ∧ (part s (bits a 11 8)).mapBad = true)
      let go := exec (.cmdBind f) s
      (bad → Completes go mapFail) ∧
      (∀ dt, ¬ bad → bindDetail s p kind a mv = some dt → Completes go fun t => fails t 1 dt 2 5) ∧
      (¬ bad → bindDetail s p kind a mv = none →
        (kind = 0 → Completes go fun t => Ends { s with mbx := merase s.mbx p } t f c 0 0 0 ∧ but { t with parts := s.parts } ∧ only t { st := .active, port := bits a 1 0, vf := bits a 6 2, quota := bits a 32 16 }) ∧
        (kind = 1 → Completes go fun t => moving t { mbx := f, cmd := c, clu := bits a 6 0, src := (clu s (bits a 6 0)).part, dst := some p, scrub := scrub }) ∧
        (kind = 2 → Completes go fun t => wait t { q with hbmNext := q.hbmNext ++ [hbm], atRelease := q.atRelease ++ [ok] } ∧ zero t fun k => scrub && inHbm hbm k) ∧
        (kind = 3 → Completes go fun t => wait t { q with bulkNext := q.bulkNext ++ [blk], atRelease := q.atRelease ++ [ok] } ∧ zero t fun k => scrub && inBulk blk k) ∧
        (kind = 4 → Completes go fun t => Ends s t f c 0 0 0 ∧ but { t with netq := s.netq } ∧ ∀ n, netqOf t n = if n = bits a 9 0 then { netqOf s n with part := some p } else netqOf s n) ∧
        (kind = 5 → Completes go fun t => Ends s t f c 0 0 0 ∧ but { t with parts := s.parts } ∧ { part t p with shares := q.shares } = q ∧ (∀ n, n ≠ p → part t n = part s n) ∧
          ∀ i, mget 0 (part t p).shares i = if i = 2 * bits a 3 0 then bits a 15 8 else if i = 2 * bits a 3 0 + 1 then bits a 23 16 else mget 0 q.shares i) ∧
        (kind = 6 → Completes go fun t => Ends s t f c 0 0 0 ∧ but { t with parts := s.parts } ∧ only t { q with quota := bits a 16 0 }))) ∧
    (Begins s f 4 c → q.st ≠ .resetting → (kind = 0 → moveLate s p = false) →
      let go := exec (.cmdUnbind f) s
      let bad : Prop := kind ≠ 0 ∧ q.mapBad = true
      (bad → Completes go mapFail) ∧
      (∀ dt, ¬ bad → unbindDetail s p kind a = some dt → Completes go fun t => fails t 1 dt 2 5) ∧
      (¬ bad → unbindDetail s p kind a = none →
        (kind = 0 → Completes go fun t => (part t p).st = .resetting ∧ (part t p).unbind = some (f, c) ∧ (∀ n, n ≠ p → (part t n).st = (part s n).st) ∧
          (s.stage = 5 → ∃ u v, starts u ∧ but u ∧ exec (.partitionReset p false) u = .next v ∧ t = modPart p (fun q => { q with unbind := some (f, c) }) v)) ∧
        (kind = 1 → Completes go fun t => moving t { mbx := f, cmd := c, clu := bits a 6 0, src := some p, scrub := scrub }) ∧
        (kind = 2 → Completes go fun t => same t ∧ wait t { q with hbmNext := q.hbmNext.dropLast, atRelease := q.atRelease ++ [ok], scrubs := later (false, q.hbmNext.getLast?.getD {}) }) ∧
        (kind = 3 → Completes go fun t => same t ∧ wait t { q with bulkNext := q.bulkNext.dropLast, atRelease := q.atRelease ++ [ok], scrubs := later (true, q.bulkNext.getLast?.getD {}) }) ∧
        (kind = 4 → Completes go fun t => { t with mbx := s.mbx, netq := s.netq } = s ∧ starts t ∧ ∀ n, netqOf t n = if n = bits a 9 0 then { netqOf s n with unbind := some (f, c) } else netqOf s n) ∧
        (kind = 5 → Completes go fun t => Ends s t f c 0 0 0 ∧ but { t with parts := s.parts } ∧ { part t p with shares := q.shares } = q ∧ (∀ n, n ≠ p → part t n = part s n) ∧
          ∀ i, mget 0 (part t p).shares i = if i / 2 = bits a 3 0 then 0 else mget 0 q.shares i))) ∧
    (∀ op i, f ≤ 20 → (op = 3 ∧ i = Instr.cmdBind f) ∨ (op = 4 ∧ i = .cmdUnbind f) →
        (∀ x, nextCmd s f op = some x → (part s (bits (x.a 0) 3 0)).st = .resetting ∨ (op = 4 ∧ bits (x.a 0) 7 4 = 0 ∧ moveLate s (bits (x.a 0) 3 0) = true)) →
      let dues (t : State) (x : Cmd) (status detail : Nat) : Prop := t.due = s.due ++ [{ mbx := f, tag := x.tag, seq := x.seq, status := status, detail := detail, island := fwIsland s f, fvis := x.fvis, noirq := x.noirq }] ∧
        (∀ g, g ≠ f → mbxOf t g = mbxOf s g) ∧ { mbxOf t f with cmds := [] } = { mbxOf s f with cmds := [] } ∧ (mbxOf t f).cmds = (mbxOf s f).cmds.map fun y => if y.seq = x.seq then { y with due := true } else y
      let noMove : Prop := ∀ m ∈ s.moves, ¬ (m.mbx = f ∧ m.cmd.op = op ∧ moveGoes s m = true)
      let noQueue : Prop := ∀ x ∈ s.netq, ¬ (queueIdle s x.1 = true ∧ ∃ u, x.2.unbind = some u ∧ u.1 = f ∧ u.2.op = op)
      let overAt (n : Nat) (u : Cmd) : Prop := unbindGoes s n = true ∧ (part s n).unbind = some (f, u) ∧ u.op = op
      (∀ m d, s.moves.find? (fun m => m.mbx == f && m.cmd.op == op && moveGoes s m) = some m → d = m.clu → d < 96 →
        let es := (clu s d).redo ++ (clu s d).uq
        let heir := m.src.bind fun r => (clustersOf s r).find? (· != d)
        (m.joined = false → m.src = none ∨ (∃ r, m.src = some r ∧ bits (preg s r Reg.TBL_DIR_COUNT) 12 0 = 0 ∧ (es = [] ∨ heir ≠ none)) → mwf {} s.cells = true → Completes (exec i s) fun t =>
          (clu t d).part = m.dst ∧ (clu t d).leaving = false ∧ (clu t d).joining = m.dst.isSome ∧ (∀ n, flagOf t d n = 0) ∧ (clu t d).cst = [] ∧ (clu t d).cstSh = [] ∧ creg t d Reg.UPD_CACHE_BANKS = 0 ∧
          t.due = s.due ∧ t.mbx = s.mbx ∧ (∀ k x, k < 32 → ctxOf t d k x = {}) ∧
          (∀ b, b < 576 → (bankOf t d b).code = (if b < 64 then 0 else 1 + 16 * ((b - 64) / 16)) ∧ (bankOf t d b).codeN = 65535 - (bankOf t d b).code ∧ (bankOf t d b).pending = none ∧ (bankOf t d b).staged = []) ∧
          (m.scrub = true → ∀ k, k < 2 ^ 37 → bits k 36 30 = d → peek t k = 0) ∧ (∀ e, mget 0 t.srGen e = if e = d ∨ e = 96 + d ∨ e = 192 + d then (mget 0 s.srGen e + 1) % 2 ^ 26 else mget 0 s.srGen e) ∧
          (∀ c', m.src ≠ none → heir = some c' → (clu t c').uq = (clu s c').uq ++ es.map fun e => { e with shard := { e.shard with home := c' } }) ∧ (m.src ≠ none → (clu t d).uq = [] ∧ (clu t d).redo = []) ∧
          (m.dst = none → t.chorus = s.chorus) ∧ (∀ r, m.dst = some r → t.chorus = s.chorus ++ (List.range (clu s d).ncell).flatMap fun k => (part s r).image.map fun g => { clu := d, cell := k, seg := g, cmd := none }) ∧
          t.moves = s.moves.map fun x => if x.clu = d then { x with joined := true } else x) ∧
        (m.joined = true → isOpen s f m.cmd.seq = true → Completes (exec i s) fun t => but { t with moves := s.moves, dregs := s.dregs } ∧ t.moves = s.moves.filter (fun x => x.clu != d) ∧
          (∀ o, dreg t o = if o = Reg.PMAP_MOVES ∧ m.src ≠ none ∧ m.dst ≠ none then bump32 0 1 (dreg s o) else dreg s o) ∧ dues t m.cmd (if m.failed then 1 else 0) (if m.failed then 0x05_0008 else 0))) ∧
      (∀ n v u, noMove → s.netq.find? (fun x => queueIdle s x.1 && x.2.unbind.any fun u => u.1 == f && u.2.op == op) = some (n, v) → v.unbind = some u → isOpen s f u.2.seq = true → Completes (exec i s) fun t =>
        (∀ k, netqOf t k = if k = n then { netqOf s k with part := none, unbind := none, mode := 0 } else netqOf s k) ∧ but { t with netq := s.netq } ∧ dues t u.2 0 0) ∧
      (∀ n u, noMove → noQueue → n < 16 → overAt n u → (∀ m, m < n → ∀ v, ¬ overAt m v) → Completes (exec i s) fun t => part t n = {} ∧
        (clustersOf s n = [] → (∀ x ∈ s.netq, x.2.part ≠ some n) → (part s n).atRelease = [] → (∀ d ∈ s.due, d.mbx ≠ n) → (mbxOf s n).cmds = [] → (part s n).hbm = [] ∨ (u.a 0).testBit 8 = false → (part s n).bulk = [] ∨ (u.a 0).testBit 8 = false → isOpen s f u.seq = true →
          but { t with parts := s.parts, reqs := s.reqs, tasks := s.tasks, pmapReset := s.pmapReset } ∧ (∀ k, k ≠ n → part t k = part s k) ∧ t.reqs = s.reqs.filter (fun q => q.2.part != n) ∧ t.tasks = s.tasks.filter (fun q => q.2.part != n) ∧
          t.pmapReset = s.pmapReset.filter (· != n) ∧ mbxOf t n = {} ∧ (∀ g, g ≠ f → g ≠ n → mbxOf t g = mbxOf s g) ∧ t.due = s.due ++ [{ mbx := f, tag := u.tag, seq := u.seq, island := fwIsland s f, fvis := u.fvis, noirq := u.noirq }])) ∧
      (noMove → noQueue → (∀ n u, n < 16 → ¬ overAt n u) → Completes (exec i s) fun t => { t with parts := s.parts } = s ∧
        ∀ n, part t n = if n < 16 ∧ (part s n).atRelease ≠ [] ∧ missing s n = [] then { part s n with arrivals := true } else part s n)) ∧
    (∀ d, d < 96 →
      ((∀ m ∈ s.moves, m.clu = d → m.joined = true) → exec (.clusterDrainLimit d) s = .next s) ∧
      ((∃ m ∈ s.moves, m.clu = d ∧ m.joined = false) → mwf {} s.tasks = true → Completes (exec (.clusterDrainLimit d) s) fun t => t.mem = s.mem ∧ t.moves = s.moves ∧ t.mbx = s.mbx ∧
        (∀ o, dreg t o = if o = Reg.PMAP_MOVES then bump32 32 ((runningOn s d).length + (queuedOn s d).length) (dreg s o) else dreg s o) ∧
        (∃ l : List ErrInfo, t.dueErr = s.dueErr ++ l ∧ l.length = (runningOn s d).length + (queuedOn s d).length ∧ ∀ e ∈ l, e.sev = 2 ∧ e.cls = 5 ∧ e.detail = 0x0C_0007) ∧
        ∀ n, mget .unsent (taskOf s n).st d = .running ∨ mget .unsent (taskOf s n).st d = .queued → d ∈ (taskOf s n).clus →
          mget .unsent (taskOf t n).st d = .stopped ∧ (hasReq s (taskOf s n).req = true → (reqOf t (taskOf s n).req).st = .done ∧
            ((reqOf s (taskOf s n).req).st ≠ .done → ∃ x ∈ t.due, x.seq = (reqOf s (taskOf s n).req).seq ∧ x.mbx = (reqOf s (taskOf s n).req).mbx ∧ x.status = 1 ∧ x.detail = 0x0C_0007)))) ∧
    (f ≤ 20 → (nextCmd s f 0x0C = none → exec (.cmdScrub f) s = .next s) ∧ (nextCmd s f 0x0F = none → exec (.cmdFreezeRelease f) s = .next s)) ∧
    (Begins s f 0x0C c →
      let go := exec (.cmdScrub f) s
      let fin (n : Nat) (t : State) : Prop := Ends s t f c 0 0 (n / 2 ^ 20)
      let mem (t : State) : Prop := but { t with mem := s.mem, ecc := s.ecc }
      let low := c.a 2
      let size (e : Extent) : Nat := e.n * (e.hi - e.lo) * 2 ^ 26
      let sizeB (e : Extent) : Nat := (portsOf e.ports).length * (e.hi - e.lo) * 2 ^ 30
      let held (d : Nat) : Prop := runningOn s d ≠ [] ∨ queuedOn s d ≠ []
      let inside (d : Nat) : Prop := ∀ b e x, e ∈ (bankOf s d b).staged → x ∈ e.data → x.1 < 2 ^ 37 ∧ bits x.1 36 30 = d
      (kind < 4 → q.mapBad = true → Completes go mapFail) ∧
      (∀ dt, kind < 4 → q.mapBad = false → (q.st = .unbound ∧ dt = 0x0C_0001) ∨ (q.st ≠ .unbound ∧ (
          (kind = 0 ∧ dt = 0x0C_0002 ∧ (a % 256 ≠ 0 ∨ low % 256 ≠ 0 ∨ (q.hbm.map size).sum < a + low)) ∨ (kind = 1 ∧ dt = 0x0C_0002 ∧ (a % 4096 ≠ 0 ∨ low % 4096 ≠ 0 ∨ (q.bulk.map sizeB).sum < a + low)) ∨
          (kind = 2 ∧ (((clu s a).part ≠ some p ∧ dt = 0x0C_0002) ∨ ((clu s a).part = some p ∧ held a ∧ dt = 0x0C_0006))) ∨ (kind = 3 ∧ dt = 0x0C_0006 ∧ ∃ d ∈ clustersOf s p, held d))) →
        Completes go fun t => fails t 1 dt 2 5) ∧
      (∀ dt, 4 ≤ kind → (kind = 4 ∧ ((extentOk s false hbm = false ∧ dt = 0x0C_0002) ∨ (extentOk s false hbm = true ∧ extentHeld s false 16 hbm = true ∧ dt = 0x0C_0003))) ∨
          (kind = 5 ∧ ((extentOk s true blk = false ∧ dt = 0x0C_0002) ∨ (extentOk s true blk = true ∧ extentHeld s true 16 blk = true ∧ dt = 0x0C_0003))) ∨ (6 ≤ kind ∧ dt = 0x0C_0002) → Completes go fun t => fails t 1 dt 2 5) ∧
      (kind = 4 → extentOk s false hbm = true → extentHeld s false 16 hbm = false → Completes go fun t => fin (size hbm) t ∧ mem t ∧ zero t (inHbm hbm)) ∧
      (kind = 5 → extentOk s true blk = true → extentHeld s true 16 blk = false → Completes go fun t => fin (sizeB blk) t ∧ mem t ∧ zero t (inBulk blk)) ∧
      (q.mapBad = false → q.st ≠ .unbound →
        (kind = 0 → a % 256 = 0 → low % 256 = 0 → a + low ≤ (q.hbm.map size).sum →
          (∀ e ∈ q.hbm, 0 < e.n ∧ e.first + e.n ≤ 512 ∧ e.lo < e.hi ∧ e.hi ≤ 24) → q.hbm.Pairwise (fun x y => extentsMeet false x y = false) → Completes go fun t => fin low t ∧ mem t ∧
            (∀ x ch y, hbmLoc q.hbm x = some (ch, y) → mget 0 t.mem (hbmKey ch y) = if a ≤ x ∧ x < a + low then 0 else mget 0 s.mem (hbmKey ch y)) ∧ ∀ k, (∀ e ∈ q.hbm, inHbm e k = false) → mget 0 t.mem k = mget 0 s.mem k) ∧
        (kind = 1 → a % 4096 = 0 → low % 4096 = 0 → a + low ≤ (q.bulk.map sizeB).sum →
          (∀ e ∈ q.bulk, portsOf e.ports ≠ [] ∧ e.lo < e.hi ∧ e.hi ≤ 2048) → q.bulk.Pairwise (fun x y => extentsMeet true x y = false) → Completes go fun t => fin low t ∧ mem t ∧
            (∀ x i y, bulkLoc q.bulk x = some (i, y) → mget 0 t.mem (bulkKey i y) = if a ≤ x ∧ x < a + low then 0 else mget 0 s.mem (bulkKey i y)) ∧ ∀ k, (∀ e ∈ q.bulk, inBulk e k = false) → mget 0 t.mem k = mget 0 s.mem k) ∧
        (kind = 2 → (clu s a).part = some p → ¬ held a → Completes go fun t => fin (64 * 2 ^ 18 + (clu s a).ncell * 16 * 2 ^ 16) t ∧ (a < 96 → ∀ k, k < 2 ^ 37 → bits k 36 30 = a → peek t k = 0) ∧
          (inside a → ∀ k, ¬ (k < 2 ^ 37 ∧ bits k 36 30 = a) → mget 0 t.mem k = mget 0 s.mem k)) ∧
        (kind = 3 → (∀ d ∈ clustersOf s p, ¬ held d ∧ inside d) → Completes go fun t => fin ((q.hbm.map size).sum + (q.bulk.map sizeB).sum + ((clustersOf s p).map fun d => 64 * 2 ^ 18 + (clu s d).ncell * 16 * 2 ^ 16).sum) t ∧
          (∀ d k, d ∈ clustersOf s p → k < 2 ^ 37 → bits k 36 30 = d → peek t k = 0) ∧
          ∀ k, ((∃ e ∈ q.hbm, inHbm e k = true) ∨ (∃ e ∈ q.bulk, inBulk e k = true) → mget 0 t.mem k = 0) ∧
            ((∀ e ∈ q.hbm, inHbm e k = false) → (∀ e ∈ q.bulk, inBulk e k = false) → ¬ (k < 2 ^ 37 ∧ bits k 36 30 ∈ clustersOf s p) → mget 0 t.mem k = mget 0 s.mem k)))) ∧
    (Begins s f 0x0F c →
      let go := exec (.cmdFreezeRelease f) s
      let mid := bits (c.a 0) 31 16
      let all := (c.a 0).testBit 4
      let gone : List Nat := if all then q.frozen else [mid]
      let left := q.frozen.filter fun m => !gone.contains m
      (q.mapBad = true → Completes go mapFail) ∧
      (q.mapBad = false → all = false → mid ∉ q.frozen → Completes go fun t => fails t 1 0x0C_0008 2 5) ∧
      (q.mapBad = false → all = true ∨ mid ∈ q.frozen → (∀ m ∈ q.frozen, m < 65536) → (∀ d, mwf {} (clu s d).slots = true) → Completes go fun t => Ends s t f c 0 0 0 ∧ but { t with parts := s.parts, clus := s.clus, cells := s.cells } ∧
        only t (if left = [] then { q with frozen := [], violMaster := 0, violKind := 0, violValid := false, violOvf := 0, violAddr := 0 } else { q with frozen := left }) ∧
        (∀ d k x, d < 128 → k < 32 → x < 4 → 1 + 16 * d + 2048 * k ∈ gone → ctxOf t d k x = { halt := (ctxOf s d k x).halt } ∧ (cellOf t d k).frozen = false ∧ (cellOf t d k).quiet = true ∧
          (cellOf t d k).rq = [] ∧ (cellOf t d k).run = none ∧ (cellOf t d k).pend = none ∧ (cellOf t d k).builds = [] ∧ (cellOf t d k).engOwner = none) ∧
        (∀ d k, d < 128 → k < 32 → 1 + 16 * d + 2048 * k ∉ gone → cellOf t d k = cellOf s d k) ∧
        (∀ d e i, d < 128 → e < 2 → i < 8 → 2 + 16 * d + 2048 * e ∈ gone → mget {} (clu t d).slots (8 * e + i) = (mget {} (clu s d).slots (8 * e + i)).clear) ∧
        (∀ d, d < 128 → (3 + 16 * d ∈ gone → (clu t d).gq = [] ∧ (clu t d).gw = [] ∧ (clu t d).gRun = [] ∧ (clu t d).uj = [] ∧ (clu t d).uw = [] ∧ (clu t d).fills = [] ∧ (clu t d).uq = [] ∧ (clu t d).infl = [] ∧ (clu t d).redo = []) ∧
          (4 + 16 * d ∈ gone → (clu t d).dq = [] ∧ (clu t d).dw = [] ∧ (clu t d).vq = [] ∧ (clu t d).vw = [] ∧ (clu t d).qq = [] ∧ (clu t d).qrun = none)) ∧
        (∀ m ∈ gone, m % 16 ∈ [2, 3, 4] → m ∈ (clu t (bits m 10 4)).quietM) ∧ ∀ d, (∀ m ∈ gone, m % 16 ∈ [2, 3, 4] → bits m 10 4 ≠ d) → clu t d = clu s d))

/-- With the maps in canonical form. CELL_RESET frees the cell's contexts and empties its engine and sequencer; program memory stays, and STEAL = 1 blocks go back to their pools, whose sweeps search again; a block that no other cell can take fails its task. CLUSTER_RESET wakes the cluster, empties its engines, cells and staging registers; in an awake cluster with
nothing interrupted twice it clears the cache tags and the registers that Table 12.7a does not keep, starts molts in conversion again and dispatches each running task again, once; a second time fails it. A running quantizer job ends with PARTITION_RESET. PARTITION_RESET ends open items with PARTITION_RESET, frees the units, ends the moves that have not drained, and
clears what the reset clears; with its records written, or its mailbox disabled and they counted as lost, it ends: ACTIVE again, mailbox and request table empty. DEVICE_RESET begins a start at stage MGMT, warm or cold; SRAM reads 0, memory outside but the hosts' stays, partitions are RESETTING with their map; lost records are counted. A cell or cluster
reset within a partition's, and any within a start, sets PMAP_ERR. -/
def Obligations.ResetsClear : Prop :=
  ∀ (s : State), mwf {} s.cells = true → mwf {} s.tasks = true → mwf {} s.clus = true → mwf {} s.parts = true → mwf {} s.banks = true → mwf {} s.batches = true →
    let dropped : State := setDreg Reg.PMAP_ERR (orBit (dreg s Reg.PMAP_ERR) 2) s
    let fault (e : ErrInfo) (dt : Nat) : Prop := e.sev = 2 ∧ e.cls = 5 ∧ e.detail = dt
    (∀ c k, c < 96 → k < 32 →
      let v := cellOf s c k
      let bl := (cellBlocks v ++ incoming s c k).filter fun b => b.1.steal
      (inReset s c = true → exec (.cellReset c k) s = .next dropped) ∧
      (inReset s c = false → Completes (exec (.cellReset c k) s) fun t =>
        cellOf t c k = { pm := v.pm, pmw := v.pmw, pmEcc := v.pmEcc, pmFix := v.pmFix, imageId := v.imageId, frozen := v.frozen, quiet := v.quiet } ∧
        (∀ d j, (d, j) ≠ (c, k) → j < 32 → cellOf t d j = { cellOf s d j with run := (cellOf s d j).run.map fun w => if bl.any (fun b => w.task == b.1.task && w.idx == b.1.idx) then { w with searchDone := false } else w }) ∧
        t.pool = s.pool ++ (bl.map fun b => { task := b.1.task, idx := b.1.idx, blk := b.2 }) ∧ t.given = s.given.filter (fun g => g.thief != 32 * c + k) ∧
        (∀ d b, (bankOf t d b).giver = (bankOf s d b).giver.filter fun g => g / 4 != 32 * c + k) ∧
        (∀ j, j < 16 → (bankOf t c (64 + 16 * k + j)).staged = []) ∧
        ((∀ j, j < 16 → (bankOf s c (64 + 16 * k + j)).staged = []) → (∀ d b, { bankOf t d b with giver := none } = { bankOf s d b with giver := none }) ∧
          { t with cells := s.cells, banks := s.banks, pool := s.pool, given := s.given, reports := s.reports, dueErr := s.dueErr } = s) ∧
        (fixedBlock s c k = none → t.reports = s.reports ∧ t.dueErr = s.dueErr) ∧
        (∀ n, fixedBlock s c k = some n → t.reports = s.reports ++ [{ task := n, status := 1, detail := 0x0C_0009, clu := c }] ∧ ∃ e, t.dueErr = s.dueErr ++ [e] ∧ fault e 0x0C_0009))) ∧
    (∀ c, c < 96 →
      let q := clu s c
      let es := q.redo ++ q.infl.map fun m => m.ent
      let staged (d : Nat) : Prop := ∀ b, b < 576 → (bankOf s d b).staged = []
      (inReset s c = true → exec (.clusterReset c) s = .next dropped) ∧
      (inReset s c = false → Completes (exec (.clusterReset c) s) fun t =>
        let q' := clu t c
        (q'.pw = .on ∧ q'.dq = [] ∧ q'.vq = [] ∧ q'.dw = [] ∧ q'.vw = [] ∧ q'.qq = [] ∧ q'.qrun = none ∧ q'.gq = [] ∧ q'.gw = [] ∧ q'.gRun = [] ∧ q'.fills = [] ∧ q'.invs = [] ∧ q'.uj = [] ∧ q'.uw = [] ∧ q'.ujRun = none ∧
          q'.sig = [] ∧ q'.slots = [] ∧ q'.starting = none ∧ q'.stats = [] ∧ q'.snap = [] ∧ q'.flags = [] ∧ q'.infl = []) ∧
        (∀ k x, k < 32 → ctxOf t c k x = {}) ∧ (∀ b, b < 576 → (bankOf t c b).staged = []) ∧ (∀ o, keptClu o = false → creg t c o = cluReset o) ∧
        (q.pw = .on → (∀ e ∈ es, e.resets = 0) →
          q'.redo = (es.map fun e => { e with resets := 1 }) ∧ q'.uq = q.uq ∧ q'.bq = q.bq ∧ q'.part = q.part ∧ q'.cst = q.cst ∧ q'.cstSh = q.cstSh ∧
          (∀ o, keptClu o = true → o ≠ Reg.QNT_LAST_RESULT ∨ q.qrun = none → creg t c o = creg s c o) ∧
          (∀ i, i < 4 * cacheSets s c → leNat (peeks t (lineAddr s c i) 8) < 2 ^ 63) ∧
          (∀ r K, q.qrun = some r → r.noRes = false →
            let l := resultRecord { r with status := 6, detail := 0 };
            Clean s (.vec c) (cluPart s c) none (qsetOf fun i => r.w.getD i 0).res l.length K → creg t c Reg.QNT_LAST_RESULT = leNat (l.take 8) ∧ (K.Nodup → staged c → cacheSets s c = 0 → K.map (peek t) = l)) ∧
          (q.qrun = none → staged c → t.due = s.due ∧ t.mbx = s.mbx ∧ t.dregs = s.dregs ∧ (∀ d, d ≠ c → clu t d = clu s d) ∧ (cacheSets s c = 0 → t.mem = s.mem) ∧
            (∀ b, batchOf t b = if (batchOf s b).kind = 2 ∧ (batchOf s b).clu = c then { batchOf s b with kind := 3 } else batchOf s b) ∧
            (∃ l, t.dueErr = s.dueErr ++ l ∧ l.length = ((runningOn s c).filter fun x => x.2.redone).length ∧ ∀ e ∈ l, fault e 0x0A_0008) ∧
            ∀ p o, preg t p o = if o = Reg.DSP_ERR ∧ (∃ x ∈ runningOn s c, x.2.redone = true ∧ x.2.part = p) then orBit (preg s p o) 0 else preg s p o) ∧
          t.reports = s.reports ++ (((runningOn s c).filter fun x => x.2.redone).map fun x => { task := x.1, status := 1, detail := 0x0A_0008, clu := c }) ∧
          ∀ n, let v := taskOf s n
            (mget .unsent v.st c ≠ .running ∨ v.redone = true → taskOf t n = v) ∧
            (mget .unsent v.st c = .running → v.redone = false → { taskOf t n with st := [], tokens := [] } = { v with st := [], tokens := [], ovr := v.ovr.filter (· != c), redone := true } ∧
              ∀ d, mget .unsent (taskOf t n).st d = (if d = c then .queued else mget .unsent v.st d) ∧ mget 0 (taskOf t n).tokens d = if d = c then 0 else mget 0 v.tokens d)))) ∧
    (∀ p, p < 16 →
      let q := part s p
      (q.st = .unbound → exec (.partitionReset p false) s = .next s) ∧
      (q.st = .resetting ∨ (q.st ≠ .unbound ∧ s.stage ≠ 5) → exec (.partitionReset p false) s = .next dropped) ∧
      (q.st ≠ .unbound → q.st ≠ .resetting → s.stage = 5 → moveLate s p = true → exec (.partitionReset p false) s = .next s) ∧
      (q.st ≠ .unbound → q.st ≠ .resetting → s.stage = 5 → moveLate s p = false → Completes (exec (.partitionReset p false) s) fun t =>
        let q' := part t p
        { q' with regs := [] } = { q with st := .resetting, combine := [], frozen := [], violMaster := 0, violKind := 0, violValid := false, violOvf := 0, violAddr := 0, arrivals := false, hostBar := [], load := none, loading := false, regs := [] } ∧
        (∀ o, clearedPart o = true → preg t p o = partReset o) ∧ (mbxOf t p).target = none ∧ (mbxOf t p).held = [] ∧
        (∀ x ∈ (mbxOf s p).cmds, x.due = false → (∀ d ∈ s.due, d.mbx = p → d.seq ≠ x.seq) → ∃ d ∈ t.due, d.mbx = p ∧ d.seq = x.seq ∧ d.status = 6) ∧
        (∀ r, hasReq s r = true → (reqOf s r).part = p → (reqOf t r).st = .done ∧ ((reqOf s r).st ≠ .done → ∃ d ∈ t.due, d.mbx = (reqOf s r).mbx ∧ d.seq = (reqOf s r).seq ∧ d.status = 6)) ∧
        (∀ x ∈ t.batches, x.2.part ≠ p) ∧ (∀ r ∈ t.remotes, r.part ≠ p) ∧ (∀ n, n ≠ p → (part t n).st = (part s n).st) ∧
        t.moves = s.moves.filter (fun m => m.joined || (m.src != some p && m.dst != some p)) ∧
        (∀ m ∈ s.moves, m.src = some p ∨ m.dst = some p → (clu t m.clu).leaving = false ∧ (isOpen s m.mbx m.cmd.seq = true → ∃ d ∈ t.due, d.mbx = m.mbx ∧ d.seq = m.cmd.seq ∧ d.status = 6)) ∧
        ∀ c, c < 96 → (clu s c).part = some p →
          let v := clu t c
          (v.part = some p ∧ v.dq = [] ∧ v.vq = [] ∧ v.dw = [] ∧ v.vw = [] ∧ v.qq = [] ∧ v.qrun = none ∧ v.gq = [] ∧ v.gw = [] ∧ v.gRun = [] ∧ v.uj = [] ∧ v.uw = [] ∧ v.uq = [] ∧ v.infl = [] ∧ v.redo = [] ∧ v.sig = [] ∧ v.slots = [] ∧
            v.cstSh = [] ∧ v.clkSh = none ∧ v.quietM = [] ∧ v.starting = none) ∧
          (∀ o, strCleared o = true → creg t c o = cluReset o) ∧ (∀ b, b < 576 → (bankOf t c b).staged = []) ∧
          (∀ k x, k < 32 → x < 4 → (ctxOf t c k x).st = .free ∧ (ctxOf t c k x).task = none) ∧ (∀ k, k < 32 → (cellOf t c k).frozen = false ∧ (cellOf t c k).rq = [] ∧ (cellOf t c k).run = none ∧ (cellOf t c k).engOwner = none) ∧
          ∀ e ∈ [c, 96 + c, 192 + c], mget 0 t.srGen e = (mget 0 s.srGen e + 1) % 2 ^ 26) ∧
      (resetEnds s p = true →
        let n := (s.due.filter fun d => d.mbx == p).length
        Completes (exec (.partitionReset p true) s) fun t => { t with parts := s.parts, mbx := s.mbx, reqs := s.reqs, tasks := s.tasks, due := s.due, pmapReset := s.pmapReset, dregs := s.dregs, dueErr := s.dueErr } = s ∧
          part t p = { q with st := .active } ∧ (∀ n, n ≠ p → part t n = part s n) ∧ mbxOf t p = {} ∧ (∀ f, f ≠ p → mbxOf t f = mbxOf s f) ∧ t.pmapReset = s.pmapReset.filter (· != p) ∧
          t.reqs = s.reqs.filter (fun x => x.2.part != p) ∧ t.tasks = s.tasks.filter (fun x => x.2.part != p) ∧ t.due = s.due.filter (fun d => d.mbx != p) ∧
          (∀ o, dreg t o = if o = Reg.DEV_ORPHAN_LOST ∧ n ≠ 0 then bump32 0 n (dreg s o) else dreg s o) ∧ (n = 0 → t.dueErr = s.dueErr) ∧
          (n ≠ 0 → ∃ e : ErrInfo, t.dueErr = s.dueErr ++ [e] ∧ e.sev = 6 ∧ e.cls = 9 ∧ e.subject = min n (2 ^ 32 - 1))) ∧
      (resetEnds s p = false → exec (.partitionReset p true) s = .next s)) ∧
    (∀ held : Bool, (s.pwr ≠ 2 → exec (.deviceReset held) s = .next s) ∧
      (s.pwr = 2 → Completes (exec (.deviceReset held) s) fun t =>
        (t.stage = 0 ∧ t.staging = true ∧ t.halted = false ∧ t.outcome = 0 ∧ t.reported = false ∧ t.pwr = 2 ∧ t.warm = (held && !(dreg s Reg.BRG_CFG).testBit 1) ∧ t.stepped = (dreg s Reg.BRG_CFG).testBit 0 ∧ t.began = s.now) ∧
        (t.cells = [] ∧ t.banks = [] ∧ t.tasks = [] ∧ t.reqs = [] ∧ t.batches = [] ∧ t.mbx = [] ∧ t.due = [] ∧ t.latches = [] ∧ t.links = [] ∧ t.chorus = [] ∧ t.moves = [] ∧ t.atc = [] ∧ t.ioSlots = []) ∧
        (t.dfl = s.dfl ∧ t.srGen = s.srGen ∧ t.slotRel = s.slotRel ∧ t.now = s.now ∧ t.pending = s.pending ∧ t.logs = (s.rpt :: s.logs).take 7) ∧
        (∀ k, k < 2 ^ 52 → mget 0 t.mem k = if k < 2 ^ 37 then 0 else mget 0 s.mem k) ∧ (∀ c, (clu t c).part = (clu s c).part ∧ (clu t c).flags = [] ∧ (clu t c).pw = .on ∧ creg t c Reg.PWR_CLK = creg s c Reg.PWR_CLK) ∧
        (∀ p, (part s p).st = .unbound → part t p = {}) ∧
        (∀ p, (part s p).st ≠ .unbound → part t p = { st := .resetting, insts := clustersOf s p, hbm := (part s p).hbmNext, bulk := (part s p).bulkNext, hbmNext := (part s p).hbmNext, bulkNext := (part s p).bulkNext, port := (part s p).port, vf := (part s p).vf, quota := (part s p).quota, shares := (part s p).shares }) ∧
        ((∃ f, f < 20 ∧ (mbxOf s f).held ≠ []) → dreg t Reg.DEV_ORPHAN_LOST ≠ 0 ∧ ∃ e ∈ t.dueErr, e.sev = 6 ∧ e.cls = 9) ∧
        ((∀ f, f < 20 → (mbxOf s f).held = [] ∧ (mbxOf s f).cmds = [] ∧ ∀ d ∈ s.due, d.mbx ≠ f) → (∀ x ∈ s.reqs, x.2.st = .done) → dreg t Reg.DEV_ORPHAN_LOST = 0 ∧ t.dueErr = [] ∧ ∀ k, 2 ^ 52 ≤ k → mget 0 t.mem k = mget 0 s.mem k) ∧
        ((s.dregs.map fun x => x.1).Nodup → (∀ p, p < 16 → mbxEnabled s p = false) → ∀ o ∈ [Reg.LNK_DOMAIN, Reg.LNK_POLICY, Reg.BRG_BOOTS, Reg.DEV_PORT_CFG], dreg t o = dreg s o) ∧
        ((s.dregs.map fun x => x.1).Nodup → ∀ o ∈ [Reg.PWR_DEV_CAP, Reg.PWR_THERM, Reg.PMAP_ERR, Reg.ERR_RING_CTRL], dreg t o = devReset o)))

/-- RDMA_WRITE and RDMA_READ in a MEMORY queue's window move the bytes; outside it, or with another key, they are NAKed; a window out of reach freezes the queue; RDMA_WRITE_IMMEDIATE then stores the notice. ROCE_SEND and UDP_DATAGRAM of whole batches put them in the receive buffer, which wraps, and before the INGEST engine; a frozen engine's end at
once; without room the SEND is answered RNR and the datagram dropped; over half full a UDP queue sends a pause; a repeated datagram is acknowledged again. BATCH_ACKNOWLEDGEMENT sends status, tag and outcomes, split by size. CNP_RECEIVE halves the send rate, ECN_CE_RECEIVE sends a CNP at most every 50 µs, PFC_PAUSE_RECEIVE pauses a priority, ROCE_ACK_TIMEOUT
sends again or gives up. ETHERNET_LINK_DOWN, NET_PORT_ENABLE and QUEUE_ENABLE set the port and the queue's mode. A port that is down, or a queue that takes nothing, moves no byte. Frames are counted; nothing else changes. -/
def Obligations.NetworkQueues : Prop :=
  ∀ (s : State) (q : Nat), q < 1024 →
    let e := q / 256
    let v := netqOf s q
    let up := portUp s e = true
    let takes := netTakes s q = true
    let counted (t : State) (f : Nat → Nat → Nat) : Prop := ∀ o, dreg t o = f o (dreg s o)
    let fr (rx tx o w : Nat) : Nat := if o = netReg e Reg.NET_FRAMES then bump32 32 tx (bump32 0 rx w) else w
    let drop (lo o w : Nat) : Nat := if o = netReg e Reg.NET_DROPS then bump32 lo 1 w else if o = netReg e Reg.NET_FRAMES then bump32 0 1 w else w
    let calm (t : State) (rx tx : Nat) : Prop := { t with dregs := s.dregs, ans := s.ans } = s ∧ counted t (fr rx tx)
    let only (t : State) (x : NetQ) : Prop := netqOf t q = x ∧ ∀ r, r ≠ q → netqOf t r = netqOf s r
    let pk (n : Nat) : Nat := max 1 (cdiv n v.pmtu)
    let base := bits (v.w 5) 47 0
    let len := bits (v.w 6) 39 0
    let inWin (rkey perm va n : Nat) : Prop := rkey = bits (v.w 7) 31 0 ∧ (v.w 6).testBit perm = true ∧ base ≤ va ∧ va + n ≤ base + len
    let ingest := bits (v.w 9) 6 0
    let whole (body : List Byte) (bs : List (List Byte)) : Prop := body = bs.flatten ∧ ∀ b ∈ bs, 32 ≤ b.length ∧ leNat ((b.drop 12).take 4) = b.length
    (∀ rkey va n imm (data : List Byte),
      let rw := Instr.rdmaWrite q rkey va data
      let ri := Instr.rdmaWriteImmediate q rkey va imm data
      let rr := Instr.rdmaRead q rkey va n
      (¬ up → exec rw s = .next s ∧ exec ri s = .next s ∧ exec rr s = .next s ∧ exec (.roceSend q data) s = .next s) ∧
      (up → ∀ i l, (i, l) ∈ [(rw, data.length), (ri, data.length), (rr, 0), (.roceSend q data, data.length)] →
        (¬ takes → Completes (exec i s) fun t => calm t (pk l) 1 ∧ t.ans = (2, [])) ∧
        (takes → v.mode = 3 → Completes (exec i s) fun t => { t with dregs := s.dregs, ans := s.ans } = s ∧ t.ans = (4, []) ∧
          counted t fun o w => if o = netReg e Reg.NET_DROPS then bump32 0 1 w else fr (pk l) 0 o w) ∧
        (takes → v.mode = 2 → i ≠ .roceSend q data → Completes (exec i s) fun t => calm t (pk l) 1 ∧ t.ans = (1, []))) ∧
      (up → takes → v.mode = 1 → ∀ p, v.part = some p →
        (∀ K, inWin rkey 41 va data.length → Clean s (.netq q) p none va data.length K → K.Nodup →
          (Completes (exec rw s) fun t => t.ans = (0, []) ∧ K.map (peek t) = data ∧ (∀ x, x ∉ K → mget 0 t.mem x = mget 0 s.mem x) ∧ calm { t with mem := s.mem } (pk data.length) 1) ∧
          (∀ N, (v.w 6).testBit 42 = true → Clean s (.netq q) p none (bits (v.w 8) 47 0) 8 N → (K ++ N).Nodup → Completes (exec ri s) fun t => t.ans = (0, []) ∧
            K.map (peek t) = data ∧ N.map (peek t) = leBytes 8 (imm % 2 ^ 32 + (v.notices + 1) % 2 ^ 32 * 2 ^ 32) ∧ (∀ x, x ∉ K ++ N → mget 0 t.mem x = mget 0 s.mem x) ∧
            only t { v with notices := (v.notices + 1) % 2 ^ 32 } ∧ calm { t with mem := s.mem, netq := s.netq } (pk data.length) 1) ∧
          ((v.w 6).testBit 42 = false → Completes (exec ri s) fun t => t.ans = (0, []) ∧ K.map (peek t) = data ∧ (∀ x, x ∉ K → mget 0 t.mem x = mget 0 s.mem x) ∧ calm { t with mem := s.mem } (pk data.length) 1)) ∧
        (¬ inWin rkey 41 va data.length → ∀ i ∈ [rw, ri], Completes (exec i s) fun t => calm t (pk data.length) 1 ∧ t.ans = (1, [])) ∧
        (∀ K, inWin rkey 40 va n → Clean s (.netq q) p none va n K → Completes (exec rr s) fun t => calm t 1 (pk n) ∧ t.ans = (0, K.map (peek s))) ∧
        (¬ inWin rkey 40 va n → Completes (exec rr s) fun t => calm t 1 1 ∧ t.ans = (1, [])) ∧
        (bits va 47 44 = 0 ∨ bits va 47 44 = 3 → ∀ i, ((i = rw ∨ i = ri) ∧ inWin rkey 41 va data.length ∧ data ≠ []) ∨ (i = rr ∧ inWin rkey 40 va n ∧ 0 < n) → Completes (exec i s) fun t =>
          t.ans = (2, []) ∧ isFrozen t p (.netq q) = true ∧ t.mem = s.mem ∧ dreg t (netReg e Reg.NET_ERR) = orBit (dreg s (netReg e Reg.NET_ERR)) 1) ∧
        Completes (exec (.roceSend q data) s) fun t => calm t (pk data.length) 1 ∧ t.ans = (2, []))) ∧
    (∀ (i : Instr) (data : List Byte) (pre : Bool) peer p seq, up → takes → v.part = some p →
      let h := leNat (data.take 8)
      let body : List Byte := if pre then data.drop 8 else data
      (i = .roceSend q data ∧ pre = false ∧ peer = 0 ∧ v.mode = 2) ∨ (i = .udpDatagram q peer data ∧ pre = true ∧ v.mode = 3 ∧ 8 ≤ data.length ∧ bits h 15 0 = 0x4158 ∧ data.length ≤ udpRoom s q ∧ seq = bits h 63 32 ∧ seq ∉ v.seqs) →
      let rx := if pre then 1 else pk data.length
      let tx := if pre then 0 else 1
      (ingestOk s p v = false → Completes (exec i s) fun t => { t with dregs := s.dregs, ans := s.ans } = s ∧ t.ans = (if pre then 4 else 2, []) ∧ counted t (if pre then drop 0 else fr rx tx)) ∧
      (ingestOk s p v = true → len < v.used + body.length → Completes (exec i s) fun t => { t with dregs := s.dregs, ans := s.ans, netq := s.netq } = s ∧ t.ans = (if pre then 4 else 3, []) ∧
        only t (if pre then v else { v with rnr := true }) ∧ counted t (if pre then drop 32 else fr rx tx)) ∧
      (∀ A B bs, ingestOk s p v = true → v.used + body.length ≤ len → bs ≠ [] → whole body bs →
        let k := min body.length (len - v.wp)
        let v1 : NetQ := { v with wp := (v.wp + body.length) % max 1 len, used := v.used + body.length, rnr := false, seqs := if pre then (seq :: v.seqs).take 1024 else v.seqs }
        let pause : Prop := pre = true ∧ len < 2 * v1.used ∧ (dreg s (netReg e Reg.NET_CFG)).testBit (16 + bits (v.w 0) 5 3) = true
        Clean s (.netq q) p none (base + v.wp) k A → Clean s (.netq q) p none base (body.length - k) B → (A ++ B).Nodup → Completes (exec i s) fun t => t.ans = (if pre then 4 else 0, []) ∧
          (A ++ B).map (peek t) = body ∧ (∀ x, x ∉ A ++ B → mget 0 t.mem x = mget 0 s.mem x) ∧ t.nextBatch = s.nextBatch + bs.length ∧
          (isFrozen s p (.upd ingest) = false → only t v1 ∧ { t with mem := s.mem, dregs := s.dregs, ans := s.ans, netq := s.netq, clus := s.clus, batches := s.batches, nextBatch := s.nextBatch, sent := s.sent } = s ∧
            (¬ pause → t.sent = s.sent ∧ counted t (fr rx tx)) ∧ (pause → t.sent = s.sent ++ [(6, [e, bits (v.w 0) 5 3])] ∧ counted t fun o w => if o = netReg e Reg.NET_PFC then bump32 0 1 w else fr rx tx o w) ∧
            (∀ j, j < bs.length → batchOf t (s.nextBatch + j) = { part := p, clu := ingest, kind := 1, item := q, addr := (v.wp + ((bs.take j).map List.length).sum) % max 1 len, held := (bs.getD j []).length, peer := peer, ring := (base, len) }) ∧
            (∀ n, n < s.nextBatch ∨ s.nextBatch + bs.length ≤ n → batchOf t n = batchOf s n) ∧
            ∀ d, clu t d = if d = ingest then { clu s d with bq := (clu s d).bq ++ (List.range bs.length).map (s.nextBatch + ·) } else clu s d) ∧
          (isFrozen s p (.upd ingest) = true → ∃ l, t.acks = s.acks ++ l ∧ l.length = bs.length ∧ ∀ x ∈ l, x.1.item = q ∧ x.2 = (7, 3 + 16 * ingest)))) ∧
    (∀ peer (data : List Byte) p bs,
      let h := leNat (data.take 8)
      (¬ up → exec (.udpDatagram q peer data) s = .next s) ∧
      (up → ¬ takes ∨ v.mode ≠ 3 ∨ data.length < 8 ∨ bits h 15 0 ≠ 0x4158 ∨ udpRoom s q < data.length → Completes (exec (.udpDatagram q peer data) s) fun t => { t with dregs := s.dregs, ans := s.ans } = s ∧ t.ans = (4, []) ∧ counted t (drop 0)) ∧
      (up → takes → v.part = some p → v.mode = 3 → 8 ≤ data.length → bits h 15 0 = 0x4158 → data.length ≤ udpRoom s q → ingestOk s p v = true → bits h 63 32 ∈ v.seqs → whole (data.drop 8) bs →
        Completes (exec (.udpDatagram q peer data) s) fun t => calm { t with acks := s.acks } 1 0 ∧ t.ans = (4, []) ∧ t.acks = s.acks ++ bs.map fun x =>
          ({ part := p, kind := 1, item := q, peer := peer, dup := true, tag := leNat ((x.drop 16).take 8), n := leNat ((x.drop 8).take 4) }, 0, 0))) ∧
    ((∀ a ∈ s.acks, a.1.item ≠ q) → exec (.batchAcknowledgement q) s = .next s) ∧
    (∀ A b st dt B, s.acks = A ++ (b, st, dt) :: B → (∀ a ∈ A, a.1.item ≠ q) → b.item = q →
      let paused := (mget 0 s.paused e).testBit (bits (v.w 0) 5 3) = true
      let l : List Byte := if st = 0 ∧ b.dup = false then (List.range b.n).map fun i => BitVec.ofNat 8 (mget 0 b.outc i - 1) else []
      let k : Nat := ((if v.mode = 3 then udpRoom s q else v.pmtu) - 32) / 8 * 8
      let msg (i : Nat) : List Byte :=
        let o := (l.drop (i * k)).take k
        leBytes 8 (2 + st % 256 * 2 ^ 16 + b2n b.dup * 2 ^ 24 + o.length * 2 ^ 32) ++ leBytes 8 b.tag ++ leBytes 8 (dt % 2 ^ 24 + unapplied b * 2 ^ 32) ++
          leBytes 8 (i * k + b.n % 2 ^ 32 * 2 ^ 32) ++ o ++ List.replicate (cdiv o.length 8 * 8 - o.length) 0
      let ms : List (List Nat) := (List.range (max 1 (cdiv l.length k))).map fun i => (msg i).map fun x => x.toNat
      (¬ up ∨ paused → exec (.batchAcknowledgement q) s = .next s) ∧
      (up → ¬ paused → l = [] ∨ 0 < k → Completes (exec (.batchAcknowledgement q) s) fun t => t.acks = s.acks.erase (b, st, dt) ∧ t.sent = s.sent ++ ms.map (fun m => (5, q :: b.peer :: m)) ∧
        { t with acks := s.acks, sent := s.sent, netq := s.netq, dregs := s.dregs } = s ∧ counted t (fr 0 ms.length) ∧ only t (if v.mode = 2 then { v with unacked := v.unacked ++ ms } else v))) ∧
    (∀ n, let u := if n = 0 then v.unacked else v.unacked.drop n
      let tries := if n = 0 then v.tries else 0
      let same (t : State) (x : NetQ) : Prop := { t with netq := s.netq } = s ∧ only t x
      (u = [] → Completes (exec (.roceAckTimeout q n) s) fun t => same t { v with unacked := u, tries := tries }) ∧
      (∀ m r, u = m :: r → (tries < bits (v.w 1) 50 48 → Completes (exec (.roceAckTimeout q n) s) fun t => same { t with sent := s.sent, dregs := s.dregs } { v with unacked := u, tries := tries + 1 } ∧
          t.sent = s.sent ++ [(5, q :: 0 :: m)] ∧ counted t (fr 0 1)) ∧
        (bits (v.w 1) 50 48 ≤ tries → Completes (exec (.roceAckTimeout q n) s) fun t => same t { v with unacked := r, tries := 0 }))) ∧
    (¬ up → exec (.cnpReceive q) s = .next s ∧ exec (.ecnCeReceive q) s = .next s) ∧
    (up → (Completes (exec (.cnpReceive q) s) fun t => { t with dregs := s.dregs, netq := s.netq } = s ∧ only t { v with cut := some (max 1000 (sendRate s q / 2), s.now) } ∧
        counted t fun o w => if o = netReg e Reg.NET_CNP then bump32 32 1 w else fr 1 0 o w) ∧
      (∀ a, v.cnpAt = some a → s.now < a + 1250 → exec (.ecnCeReceive q) s = .next s) ∧
      ((∀ a, v.cnpAt = some a → a + 1250 ≤ s.now) → Completes (exec (.ecnCeReceive q) s) fun t => { t with sent := s.sent, dregs := s.dregs, netq := s.netq } = s ∧ t.sent = s.sent ++ [(9, [q])] ∧ only t { v with cnpAt := some s.now } ∧
        counted t fun o w => if o = netReg e Reg.NET_CNP then bump32 0 1 w else fr 0 1 o w)) ∧
    (let rec' := 25 * bits (dreg s (netReg e Reg.NET_CC)) 15 0;
      (v.cut = none → sendRate s q = 800000) ∧ ∀ r a, v.cut = some (r, a) → (rec' ≤ s.now - a → sendRate s q = 800000) ∧ (s.now - a < rec' → sendRate s q = r + (800000 - r) * (s.now - a) / rec')) ∧
    (∀ prio (pause : Bool), prio < 8 → (¬ up → exec (.pfcPauseReceive e prio pause) s = .next s) ∧
      (up → Completes (exec (.pfcPauseReceive e prio pause) s) fun t => { t with dregs := s.dregs, paused := s.paused } = s ∧ (counted t fun o w => if o = netReg e Reg.NET_PFC then bump32 32 1 w else w) ∧
        ∀ d j, (mget 0 t.paused d).testBit j = if (dreg s (netReg e Reg.NET_CFG)).testBit (16 + prio) = true ∧ d = e ∧ j = prio then pause else (mget 0 s.paused d).testBit j)) ∧
    (∀ res, Completes (exec (.ethernetLinkDown e res) s) fun t => { t with dregs := s.dregs, paused := s.paused, dueErr := s.dueErr } = s ∧ (∀ d, mget 0 t.paused d = if d = e then 0 else mget 0 s.paused d) ∧
      (counted t fun o w => if o = netReg e Reg.NET_STATUS then (if res = 1 then 3 else 0) else if o = Reg.ERR_EVENTS ∧ res = 2 then bump32 0 1 w else w) ∧
      (res ≠ 2 → t.dueErr = s.dueErr) ∧ (res = 2 → ∃ x : ErrInfo, t.dueErr = s.dueErr ++ [x] ∧ x.sev = 5 ∧ x.cls = 3 ∧ x.subject = e + 64)) ∧
    (∀ en, exec (.netPortEnable e en) s = .next (if served s then setDreg (netReg e Reg.NET_CTRL) (b2n en) s else s)) ∧
    (∀ w, bits (dreg s Reg.NET_QSEL) 9 0 = q →
      let v1 : NetQ := { v with ctx := mset 0 v.ctx 0 (w % 2 ^ 64) }
      (served s = false → exec (.queueEnable w) s = .next s) ∧
      (served s = true → v.mode ≠ 0 → Completes (exec (.queueEnable w) s) fun t => { t with dregs := s.dregs, dueErr := s.dueErr } = s ∧ (counted t fun o x => if o = Reg.PMAP_ERR then orBit x 1 else x) ∧
        ∃ x : ErrInfo, t.dueErr = s.dueErr ++ [x] ∧ x.sev = 4 ∧ x.cls = 2) ∧
      (served s = true → v.mode = 0 →
        (bits w 2 0 = 0 → Completes (exec (.queueEnable w) s) fun t => { t with netq := s.netq } = s ∧ only t v1) ∧
        (bits w 2 0 ≠ 0 → ctxOk s v1 = true → Completes (exec (.queueEnable w) s) fun t => { t with netq := s.netq } = s ∧
          only t { v1 with mode := bits w 2 0, notices := 0, wp := 0, used := 0, seqs := [], rnr := false, cut := none, cnpAt := none, unacked := [], tries := 0 }) ∧
        (bits w 2 0 ≠ 0 → ctxOk s v1 = false → Completes (exec (.queueEnable w) s) fun t => { t with netq := s.netq, dregs := s.dregs } = s ∧ only t v1 ∧ counted t fun o x => if o = netReg e Reg.NET_ERR then orBit x 0 else x)))

/-- A stage acts only while it runs, notes the units of the module that it finds failing, appends them to the defect list and writes its report. In native mode the next stage then starts (links begin to train beside MEMORY); in stepped mode the module halts. MGMT takes the image slot that passes and its release; with neither, the module is in recovery and
NOT_READY. CLOCKNET sets the clocks, MEMORY clears SRAM (and, on a cold start, external memory), gives every stack the channel slots that are good and a warm restart keeps the channels that stay where they were; LINKS gives the ports their state; COMPUTE restores the map: vacant clusters and extents of disabled stacks leave, the owners of a
bound cluster's banks start anew; the outcome follows the results, and partitions become ACTIVE unless it is NOT_READY. CMD_CONTINUE goes on, repeats or ends a halted start; CMD_REPAIR_RESET takes entries off the defect list; a bad one ends with an error record, and with no command they do nothing. -/
def Obligations.BringUp : Prop :=
  ∀ (s : State), s.rpt.length = 48 →
    let runs (i : Nat) : Prop := s.pwr = 2 ∧ s.stage = i ∧ s.staging = true
    let res (t : State) (i : Nat) : Nat := bits (t.rpt.getD (8 * i) 0) 4 3
    let after (i : Nat) (t : State) : Prop := if s.stepped = true then t.stage = i ∧ t.staging = false ∧ t.halted = true else t.stage = i + 1 ∧ t.staging = true ∧ t.halted = false
    let train (t : State) : Prop := t.training = true ∧ ∀ l, l < 16 → lnkState t l = if dirCounted s (l / 4) = true ∧ lnkState s l ≠ 6 then 1 else lnkState s l
    let b := dreg s Reg.BRG_BOOTS
    let fresh (kinds : List Nat) (fs : List Finding) : List Finding := fs.filter fun x => kinds.contains x.kind && namesUnit s x && !unitBad s x.kind x.island x.index
    let kept (x : Finding) : Prop := s.warm = true ∧ x.kind ∈ [5, 6, 8]
    let noted (t : State) (i : Nat) (fb : Bool) (kinds : List Nat) (fs : List Finding) : Prop :=
      (∀ x ∈ fs, x.kind ∈ kinds → namesUnit s x = true → unitBad t x.kind x.island x.index = true) ∧ s.bad <+: t.bad ∧ (∀ x ∈ t.bad, x ∈ s.bad ∨ x ∈ fresh kinds fs) ∧
      (∃ l, t.dfl = s.dfl ++ l ∧ (fb = true → l = []) ∧ ∀ y ∈ l, ∃ x ∈ fresh kinds fs, ¬ kept x ∧ y = dflWords i x (bits b 31 0)) ∧
      (fb = false → s.dfl.length + fs.length ≤ 4096 → ∀ x ∈ t.bad, x ∉ s.bad → ¬ kept x → dflWords i x (bits b 31 0) ∈ t.dfl)
    let told (t : State) (i result detail failed efts first listed w3 w4 : Nat) : Prop := (∀ j, j < 40 → j / 8 ≠ i → t.rpt.getD j 0 = s.rpt.getD j 0) ∧ ∃ tested, (t.rpt.drop (8 * i)).take 8 =
      [i + result * 8 + detail % 2 ^ 24 * 2 ^ 8 + (s.now - s.stageAt) / 25000 % 2 ^ 32 * 2 ^ 32, tested % 2 ^ 16 + min failed 65535 * 2 ^ 16 + min efts 65535 * 2 ^ 32 + min (t.dfl.length - s.dfl.length) 65535 * 2 ^ 48,
        first % 2 ^ 16 + min listed 65535 * 2 ^ 16, w3, w4, 0, 0, 0]
    let head (l : List Finding) : Nat := (l.head?.map fun x => x.island).getD 0
    let posted (t : State) (o : Nat) : Prop := t.outcome = o ∧ t.reported = true ∧ t.staging = false ∧ t.halted = false ∧ t.stage = (if s.recovery then 0 else 5) ∧
      t.rpt.getD 40 0 = o + 4 * b2n s.warm + 8 * b2n s.stepped + bits b 31 0 * 2 ^ 32 ∧ t.rpt.getD 41 0 = (s.now - s.began) / 25000 % 2 ^ 32 + t.dropped % 2 ^ 16 * 2 ^ 32 ∧
      (s.stbyOk = true → t.dueErr = s.dueErr ∧ (dreg t Reg.ERR_MGMT).testBit 1 = true) ∧
      (s.stbyOk = false → (dreg t Reg.ERR_MGMT).testBit 1 = false ∧ (dreg t Reg.ERR_DFLAGS).testBit 1 = true ∧ ∃ e : ErrInfo, t.dueErr = s.dueErr ++ [e] ∧ e.sev = 6 ∧ e.cls = 6 ∧ e.detail = 0x0F_0011)
    (∀ slots (stby fb : Bool),
      let go := exec (.stageMgmt slots stby fb) s
      let first := slots.testBit s.slotAct
      let other := slots.testBit (1 - s.slotAct)
      let act : Nat := if first then s.slotAct else 1 - s.slotAct
      let rel := mget 0 s.slotRel act
      let boots : Nat := if res s 0 = 3 then bump32 0 1 (if s.warm then b else bump32 32 1 b) else b
      let flag (w : Nat) : Nat := let w := if fb then orBit w 0 else w; if !first && other then orBit w 2 else w
      (¬ runs 0 → go = .next s) ∧
      (runs 0 → first = false → other = false → Completes go fun t => t.recovery = true ∧ t.stage = 0 ∧ t.staging = false ∧ t.halted = false ∧ t.outcome = 3 ∧ t.reported = true ∧ told t 0 2 0x0E_0005 2 0 0x8001 0 0 0 ∧
        dreg t Reg.BRG_BOOTS = boots ∧ dreg t Reg.BRG_ERR = flag (dreg s Reg.BRG_ERR) ∧ t.mem = s.mem ∧ t.parts = s.parts ∧ t.clus = s.clus) ∧
      (runs 0 → first = true ∨ other = true → Completes go fun t => after 0 t ∧ t.slotAct = act ∧ t.stbyOk = stby ∧
        told t 0 (if first && stby then 0 else 1) (if first then 0 else 0x0E_0005) (b2n (!first) + b2n (!stby)) 0 (if first && stby then 0 else coreIsland (b2n first) + 1) 0 0 0 ∧
        (∀ o, dreg t o = if o = Reg.BRG_BOOTS then boots else if o = Reg.BRG_ERR then flag (dreg s o) else if o = Reg.ERR_FW then rel + (if stby then rel * 2 ^ 16 else 0) + act * 2 ^ 32 else dreg s o) ∧
        { t with dregs := s.dregs, rpt := s.rpt, fresh := s.fresh, slotAct := s.slotAct, stbyOk := s.stbyOk, stage := 0, staging := true, halted := s.halted, stageAt := s.stageAt } = s)) ∧
    (∀ (fs : List Finding) (net : Option Nat) (fb : Bool),
      let go := exec (.stageClocknet fs net fb) s
      let kinds := [1, 2, 6, 9]
      (¬ runs 1 → go = .next s) ∧
      (runs 1 → Completes go fun t => after 1 t ∧ t.netBad = net.isSome ∧ noted t 1 fb kinds fs ∧ (s.stepped = false → train t) ∧
        told t 1 (if net.isSome then 2 else if fullClus t && (badUnits t).all (fun x => x.1 != 6 && x.1 != 9) then 0 else 1) (if net.isSome then 0x0E_0006 else 0) ((fresh kinds fs).length + b2n net.isSome) 0
          (net.getD (head (fresh kinds fs))) (listedOf s kinds) 0 0 ∧
        (∀ c, c < 96 → (clu t c).cellMHz = stepMHz s (clu s c).hot (clu t c).limCell (bits (creg s c Reg.PWR_CLK) 5 0) ∧ (clu t c).cmpMHz = stepMHz s (clu s c).hot (clu t c).limCmp (bits (creg s c Reg.PWR_CLK) 13 8)) ∧
        t.mem = s.mem ∧ t.parts = s.parts)) ∧
    (∀ (fs : List Finding) (caps : List Nat) trained (fb : Bool),
      let go := exec (.stageMemory fs caps trained fb) s
      let kinds := [1, 2, 3, 4, 5, 6, 8]
      (¬ runs 2 → go = .next s) ∧
      (runs 2 → Completes go fun t => after 2 t ∧ noted t 2 fb kinds fs ∧ t.parts = s.parts ∧ t.clus = s.clus ∧ (s.stepped = false → s.training = false → train t) ∧
        (let nstk := ((List.range 16).filter fun k => !t.stackOff.testBit k).length;
          told t 2 (if nstk = 0 then 2 else if nstk == nStacks s && t.bulkWd.isEmpty && fullClus t && (List.range 4).all (fun q => caps.getD q 0 == 0 || trained.testBit q) then 0 else 1) 0 (fresh kinds fs).length
            (t.chanSlot.filter fun x => x.2 != 0).length (head (fresh kinds fs)) (listedOf s kinds)
            ((32 * nstk - if s.warm then (movedChans s.chanSlot t.chanSlot).length else 0) + nstk * 2 ^ 10 + min t.bulkWd.length 65535 * 2 ^ 16 + bulkGib t * 2 ^ 32) 0) ∧
        (∀ k, mget 0 t.mem k = if k < 2 ^ 37 ∨ (2 ^ 50 ≤ k ∧ k < 2 ^ 52 ∧ (s.warm = false ∨ (k < 2 ^ 51 ∧ mget 0 t.chanSlot ((k - 2 ^ 50) / 2 ^ 31) ≠ mget 0 s.chanSlot ((k - 2 ^ 50) / 2 ^ 31)))) then 0
          else mget 0 s.mem k) ∧
        (∀ q, q < 4 → mget 0 t.bulkCap q = min 2048 (caps.getD q 0) ∧ (t.bulkOut.testBit q = true ↔ ¬ (trained.testBit q = true ∧ caps.getD q 0 ≠ 0)) ∧
          ∀ x, (8, portIsland s 0x30 q, x) ∈ badUnits t → ∃ r, r ≤ q ∧ portIsland s 0x30 r = portIsland s 0x30 q ∧ 2048 * r + x ∈ t.bulkWd) ∧
        ∀ k, k < 16 → (t.stackOff.testBit k = true ↔ stackSlots t k = none) ∧ ∀ l, stackSlots t k = some l → ∀ j, j < 32 → chanSlotOf t (32 * k + j) = l.getD j 0)) ∧
    (∀ host hostOk eth ethOk absent bulk bulkOk (fb : Bool),
      let go := exec (.stageLinks host hostOk eth ethOk absent bulk bulkOk fb) s
      let fs := laneFindings s
      let good (ok base q : Nat) : Prop := ok.testBit q = true ∧ unitBad s 9 (portIsland s base q) 0 = false
      let hostUp (q : Nat) : Prop := host.testBit q = true ∧ good hostOk 0x10 q
      let ethUp (q : Nat) : Prop := eth.testBit q = true ∧ good ethOk 0x20 q
      let bulkUp (q : Nat) : Prop := bulk.testBit q = true ∧ good bulkOk 0x30 q ∧ mget 0 s.bulkCap q ≠ 0
      let less : Prop := (∃ l, l < 16 ∧ dirCounted s (l / 4) = true ∧ (lnkState s l ≠ 3 ∨ lnkWidth s l ≠ 0)) ∨ ∃ q, q < 4 ∧ ((host.testBit q = true ∧ ¬ hostUp q) ∨ (absent.testBit q = false ∧ ¬ ethUp q) ∨ (mget 0 s.bulkCap q ≠ 0 ∧ ¬ bulkUp q))
      (¬ runs 3 ∨ linksSettled s = false → go = .next s) ∧
      (runs 3 → linksSettled s = true → Completes go fun t => after 3 t ∧ noted t 3 fb [7] fs ∧
        (∀ q, q < 4 → (ethUp q → dreg t (netReg q Reg.NET_STATUS) = 3) ∧ (¬ ethUp q → dreg t (netReg q Reg.NET_STATUS) = 0) ∧ (t.bulkOut.testBit q = true ↔ ¬ bulkUp q)) ∧
        (dirShort s = true → res t 3 = 2) ∧ (dirShort s = false → (less → res t 3 = 1) ∧ (¬ less → res t 3 = 0)) ∧
        (∀ l, l < 16 → ((t.rpt.getD 27 0).testBit l = true ↔ lnkState s l = 3) ∧ ((t.rpt.getD 27 0).testBit (16 + l) = true ↔ lnkState s l = 4) ∧
          ((t.rpt.getD 27 0).testBit (32 + l) = true ↔ lnkState s l = 3 ∧ lnkWidth s l ≠ 0)) ∧
        (∀ q, q < 4 → ((t.rpt.getD 28 0).testBit (16 + q) = true ↔ hostUp q) ∧ ((t.rpt.getD 28 0).testBit (20 + q) = true ↔ ethUp q) ∧ ((t.rpt.getD 28 0).testBit (24 + q) = true ↔ bulkUp q) ∧
          bits (t.rpt.getD 28 0) (4 * q + 3) (4 * q) = ((List.range 4).filter fun i => lnkState s (4 * q + i) == 3).length) ∧
        (∀ j, j < 40 → j / 8 ≠ 3 → t.rpt.getD j 0 = s.rpt.getD j 0) ∧ (∀ o, o ≠ Reg.BRG_ERR → o ≠ Reg.DFL_LOST → (∀ q, q < 4 → o ≠ netReg q Reg.NET_STATUS) → dreg t o = dreg s o) ∧
        { t with dregs := s.dregs, bulkOut := s.bulkOut, rpt := s.rpt, fresh := s.fresh, bad := s.bad, dfl := s.dfl, stage := 3, staging := true, halted := s.halted, stageAt := s.stageAt } = s)) ∧
    (∀ (fs : List Finding) (fb : Bool),
      let go := exec (.stageCompute fs fb) s
      (¬ runs 4 → go = .next s) ∧
      (runs 4 → mwf {} s.parts = true → Completes go fun t =>
        let places := cluPlaces (badUnits t)
        let cells := (places.map fun x => (x.map fun y => y.2.length).getD 0).sum
        let none3 : Prop := s.recovery = true ∨ s.netBad = true ∨ enabledClus t = 0 ∨ s.stackOff = 65535 ∨ dirShort s = true
        noted t 4 fb [1, 2] fs ∧ t.mem = s.mem ∧
        told t 4 (if enabledClus t = 0 then 2 else if fullClus t then 0 else 1) 0 (fresh [1, 2] fs).length (eftsUsed places) (head (fresh [1, 2] fs)) (listedOf s [1, 2]) (enabledClus t + cells * 2 ^ 7) 0 ∧
        (∀ c, c < 96 → ((clu t c).vacant = true ↔ places.getD c none = none) ∧ (∀ cs l, places.getD c none = some (cs, l) → sluSlot t c = cs ∧ (clu t c).ncell = l.length ∧ ∀ k, k < l.length → cellSlotOf t c k = l.getD k 0) ∧
          (clu t c).part = (if (clu t c).vacant then none else (clu s c).part) ∧ ((clu t c).part ≠ none → ∀ j, j < 576 → (bankOf t c j).code = if j < 64 then 0 else ownCell ((j - 64) / 16)) ∧
          ∀ e ∈ [c, 96 + c, 192 + c], mget 0 t.srGen e = (mget 0 s.srGen e + 1) % 2 ^ 26) ∧
        (∀ p, p < 16 → (part s p).st ≠ .unbound → (part t p).hbm = (part s p).hbm.takeWhile (fun e => !extentLost s e) ∧ (part t p).hbmNext = (part t p).hbm ∧ (part t p).bulk = (part s p).bulk ∧ (part t p).insts = clustersOf t p) ∧
        t.dropped = ((List.range 96).filter fun c => (clu s c).part.isSome && (clu t c).part.isNone).length +
          ((List.range 16).map fun p => if (part s p).st = .unbound then 0 else (part s p).hbm.length - (part t p).hbm.length).sum ∧ (t.dropped ≠ 0 → (dreg t Reg.BRG_ERR).testBit 3 = true) ∧
        (s.stepped = true → t.stage = 4 ∧ t.staging = false ∧ t.halted = true ∧ t.outcome = s.outcome ∧ ∀ p, (part t p).st = (part s p).st) ∧
        (s.stepped = false → posted t t.outcome ∧ (none3 → t.outcome = 3) ∧
          (¬ none3 → (∀ i, i < 5 → res t i = 0) → t.outcome = 1) ∧ (¬ none3 → (∃ i, i < 5 ∧ res t i ≠ 0) → t.outcome = 2) ∧ (t.outcome ≠ 3 → dreg t Reg.LNK_DIRS = dirsOf t) ∧
          ∀ p, (part t p).st = if t.outcome ≠ 3 ∧ (part s p).st = .resetting then .active else (part s p).st))) ∧
    (∀ f (c : Cmd), f ≤ 20 →
      let go := exec (.cmdContinue f) s
      let fails (o : Out) (detail : Nat) : Prop := Completes o fun t => Ends s t f c 1 detail 0 ∧ { t with mbx := s.mbx, due := s.due, dueErr := s.dueErr } = s ∧
        ∃ e : ErrInfo, t.dueErr = s.dueErr ++ [e] ∧ e.sev = 2 ∧ e.cls = 5 ∧ e.detail = detail
      let act := bits (c.a 0) 5 4
      let stage := bits (c.a 0) 2 0
      let finish (t : State) (o : Nat) : Prop := posted t o ∧ t.mem = s.mem ∧ t.clus = s.clus ∧ ∀ p, (part t p).st = if o ≠ 3 ∧ (part s p).st = .resetting then .active else (part s p).st
      let starts (t : State) (i : Nat) : Prop := t.stage = i ∧ t.staging = true ∧ t.halted = false ∧ t.stageAt = (if i = 3 ∧ s.training = true ∧ i ≠ s.stage then s.stageAt else s.now) ∧
        { t with mbx := s.mbx, due := s.due, dregs := s.dregs, stage := s.stage, staging := s.staging, halted := s.halted, stageAt := s.stageAt, training := s.training } = s ∧
        ((i = 3 ∧ (s.training = false ∨ s.stage = 3)) ∨ (i = 2 ∧ s.stepped = false) → train t) ∧ (∀ o, (∀ l, l < 16 → o ≠ lnkReg l Reg.LNK_STATUS) → dreg t o = dreg s o)
      let left := if (c.a 0).testBit 0 then [] else s.dfl.filter fun e => !(bits e.1 3 0 == bits (c.a 1) 3 0 && bits e.1 31 16 == bits (c.a 1) 31 16 && bits e.1 47 32 == bits (c.a 1) 47 32)
      (nextCmd s f 0x0D = none → go = .next s) ∧ (nextCmd s f 0x0E = none → exec (.cmdRepairReset f) s = .next s) ∧
      (Begins s f 0x0D c → mwf {} s.parts = true →
        (s.halted = false → fails go 0x0E_0001) ∧ (s.halted = true → stage ≠ s.stage → fails go 0x0E_0002) ∧ (s.halted = true → stage = s.stage →
          (act = 3 → fails go 0x0B_0004) ∧
          (act = 2 → Completes go fun t => Ends s t f c 0 0 0 ∧ finish t 3) ∧
          (act = 1 → Completes go fun t => Ends s t f c 0 0 0 ∧ starts t stage) ∧
          (act = 0 → Completes go fun t => Ends s t f c 0 0 0 ∧ (stage = 4 → finish t (outcomeOf s)) ∧ (stage ≠ 4 → starts t (stage + 1))))) ∧
      (Begins s f 0x0E c →
        (bits (c.a 0) 63 48 ≠ 0x5A5A → fails (exec (.cmdRepairReset f) s) 0x0E_0003) ∧
        (bits (c.a 0) 63 48 = 0x5A5A → Completes (exec (.cmdRepairReset f) s) fun t => t.dfl = left ∧ t.bad = s.bad ++ (s.dfl.filter fun e => !left.contains e).map entryUnit ∧ Ends s t f c 0 0 (s.dfl.length - left.length) ∧
          { t with mbx := s.mbx, due := s.due, dfl := s.dfl, bad := s.bad } = s)))

/-- A write of ERR_RETIRE or ERR_READMIT with GO starts the operation unless one runs, and is refused for a unit that is absent, listed, or not (for READMIT still) in use. A trigger, or the request, retires a unit: it is listed with STAGE 0xF and IN_SERVICE, counted as a retirement and a failure event, recorded with its substitute, and flagged; the request ends with OK. With AUTO_RETIRE = 0 a trigger is only recorded (UNIT, TRIGGER).
A cell is reset as CELL_RESET does (absorbCell), takes a good eft slot that nobody uses, starts empty, joins quietly, gets its partition's image, and its 16 banks are to follow: each once its owner is CELL or NONE and no descriptor acts for it, its commits drained, bytes kept, corrected words good and uncorrectable ones still so. A cluster is reset as CLUSTER_RESET does (resetClu),
takes a good slot with 32 good cells with its banks, starts with new seeds and joins quietly. Without an eft a requested cell changes nothing (NO_EFT), and a trigger retires its cluster; a cluster leaves its partition, its moves end with BAD_RESOURCE, its tasks' requests end, its number is vacant, recorded and flagged; a channel stays in service. A channel is copied and then its number moves, with
its words. A unit under readmission that fails its self-test is listed again; one that passes is recorded and is an eft, or takes back its number under RESTORE, or a vacant number as a free cleared cluster. Counts of errors start again. Where nothing is due, nothing changes. -/
def Obligations.UnitsRetire : Prop :=
  ∀ (s : State),
    let auto := (dreg s Reg.ERR_POLICY).testBit 0
    let full : Prop := 4096 ≤ s.dfl.length
    let record (cls detail kind isl aux : Nat) (p : Option Nat) : ErrInfo := { sev := 5, cls := cls, detail := detail, part := p, island := mgmtIsland s, cycles := recCycles s (mgmtIsland s), subject := isl + kind * 2 ^ 16, aux := aux }
    let listed (t : State) (cause kind isl idx : Nat) : Prop := t.dfl = if full then s.dfl else s.dfl ++ [(kind + 0xF0 + cause * 2 ^ 8 + isl * 2 ^ 16 + idx * 2 ^ 32, bits (dreg s Reg.BRG_BOOTS) 31 0)]
    let lostDfl (o v : Nat) : Nat := if o = Reg.DFL_LOST ∧ full then bump32 0 1 v else if o = Reg.BRG_ERR ∧ full then orBit v 1 else v
    let counted (o v : Nat) : Nat := if o = Reg.ERR_EVENTS then bump32 0 1 (bump32 32 1 v) else lostDfl o v
    let status (o v : Nat) (req : Bool) (isl result : Nat) : Nat := if o = Reg.ERR_REPAIR_STATUS ∧ req = true then 2 + result * 8 + isl * 2 ^ 16 else v
    let repaired (t : State) (req : Bool) : Prop := t.repair = if req then none else s.repair
    let forgot (u t : State) (mine : Nat → Bool) : Prop := t.ueLog = u.ueLog.filter (fun x => !mine x.1) ∧ t.ceLog = u.ceLog.filter (fun x => !mine x.1) ∧ t.complLog = u.complLog.filter fun x => !mine x.1
    let flags (u t : State) (p : Option Nat) (b : Nat → Nat) : Prop := ∀ n, { part t n with regs := [] } = { part u n with regs := [] } ∧ ∀ o, preg t n o = if p = some n ∧ o = Reg.ERR_PFLAGS then b (preg u n o) else preg u n o
    let only (t : State) : Prop := { t with trig := s.trig, cluTrig := s.cluTrig, ueLog := s.ueLog, ceLog := s.ceLog, complLog := s.complLog, dueErr := s.dueErr } = s
    let noEft (o : Out) (isl : Nat) : Prop := Completes o fun t => { t with dregs := s.dregs, repair := s.repair } = s ∧ t.repair = none ∧ ∀ o, dreg t o = status o (dreg s o) true isl 1
    let eccOk (u : State) : Prop := mwf 0 u.ecc = true ∧ ∀ x ∈ u.ecc, wordKey x.1 = x.1
    (∀ f v op, 16 ≤ f → f < 20 → mgmtOk s (f - 16) = true → mgmtEnded s = true → op = 1 ∨ op = 2 →
      let off := if op = 1 then Reg.ERR_RETIRE else Reg.ERR_READMIT
      let isl := bits v 15 0
      let kind := bits v 19 16
      let idx := if kind = 5 then bits v 27 20 else 0
      let refused : Nat := if unitExists s kind isl idx = false then 4 else if op = 2 ∧ inDfl s kind isl idx = true then 3 else if unitInUse s kind isl idx = (op == 1) then 0 else 4
      mgmtPage s off = true →
      (v.testBit 63 = false ∨ s.repair.isSome = true → Completes (exec (.registerWrite f off 8 v) s) fun t => { t with dregs := s.dregs } = s ∧ ∀ o, dreg t o = if o = off then bits v 27 0 else dreg s o) ∧
      (v.testBit 63 = true → s.repair = none → Completes (exec (.registerWrite f off 8 v) s) fun t => { t with dregs := s.dregs, repair := s.repair } = s ∧ t.repair = (if refused = 0 then some (op, kind, isl, idx) else none) ∧
        ∀ o, dreg t o = if o = off then bits v 27 0 else if o = Reg.ERR_REPAIR_STATUS then (if refused = 0 then 1 else 0) + op * 2 + refused * 8 + isl * 2 ^ 16 else dreg s o)) ∧
    (∀ c k (seen : Bool), c < 96 → k < 32 →
      let isl := cellIsland s c k
      let req : Bool := s.repair == some (1, 1, isl, 0)
      let due := seen = true ∨ .cell c k ∈ s.trig ∨ overLimit s (inCell c k) bankNo = true
      let idle := served s = false ∨ (clu s c).vacant = true ∨ (clu s c).ncell ≤ k ∨ ¬ (req = true ∨ due)
      let p := (clu s c).part
      let a := absorbCell c k s
      (∀ e, freeCellSlot s c = some e → e < 34 ∧ (∀ j, j < (clu s c).ncell → cellSlotOf s c j ≠ e) ∧ cellBad (badUnits s) (4096 * (c / 12) + 64 * sluSlot s c + e) = false ∧
        ∀ j, j < e → (∃ i, i < (clu s c).ncell ∧ cellSlotOf s c i = j) ∨ cellBad (badUnits s) (4096 * (c / 12) + 64 * sluSlot s c + j) = true) ∧
      (idle → exec (.cellRetirement c k seen) s = .next s) ∧
      (¬ idle → req = false → auto = false → Completes (exec (.cellRetirement c k seen) s) fun t => only t ∧ t.dueErr = s.dueErr ++ [record 4 0x0F_0015 1 isl 8 p] ∧
        t.trig = s.trig.filter (· != .cell c k) ∧ t.cluTrig = s.cluTrig ∧ forgot s t (inCell c k)) ∧
      (¬ idle → freeCellSlot s c = none → req = true → noEft (exec (.cellRetirement c k seen) s) isl) ∧
      (¬ idle → freeCellSlot s c = none → req = false → auto = true → Completes (exec (.cellRetirement c k seen) s) fun t => only t ∧ t.dueErr = s.dueErr ∧
        t.cluTrig = c :: s.cluTrig.filter (· != c) ∧ t.trig = s.trig.filter (· != .cell c k) ∧ forgot s t (inCell c k)) ∧
      (∀ e, ¬ idle → req = true ∨ auto = true → freeCellSlot s c = some e → isl < 2 ^ 16 → Completes (exec (.cellRetirement c k seen) s) fun t =>
        { t with clus := a.clus, cells := a.cells, chorus := a.chorus, bankMoves := a.bankMoves, heldBy := a.heldBy, dfl := a.dfl, dregs := a.dregs, parts := a.parts, dueErr := a.dueErr, repair := a.repair, trig := a.trig, ueLog := a.ueLog, ceLog := a.ceLog, complLog := a.complLog } = a ∧
        cellSlotOf t c k = e ∧ (∀ j, j ≠ k → cellSlotOf t c j = cellSlotOf s c j) ∧ (∀ d, d ≠ c → clu t d = clu a d) ∧ { clu t c with cellSlot := [] } = { clu a c with cellSlot := [] } ∧
        cellOf t c k = { frozen := (cellOf s c k).frozen, quiet := p.isSome } ∧ (∀ d j, (d, j) ≠ (c, k) → j < 32 → cellOf t d j = cellOf a d j) ∧
        t.chorus = (s.chorus.map fun j => if j.clu = c ∧ j.cell = k then { j with sent := false } else j) ++
          (match p with | some n => (part s n).image.map fun g => { clu := c, cell := k, seg := g, cmd := none } | none => []) ∧
        (∀ m, m ∈ t.bankMoves ↔ m ∈ s.bankMoves ∨ ∃ j, j < 16 ∧ m = 576 * c + 64 + 16 * k + j) ∧ (∀ i, mget 0 t.heldBy i = if i = isl then k + 1 else mget 0 s.heldBy i) ∧
        listed t 8 1 isl 0 ∧ t.dueErr = a.dueErr ++ [record 8 0x0F_0012 1 isl (4096 * (c / 12) + 64 * sluSlot s c + e) p] ∧ flags a t p (orBit · 0) ∧
        (∀ o, dreg t o = status o (counted o (dreg s o)) req isl 0) ∧ repaired t req ∧ t.trig = s.trig.filter (· != .cell c k) ∧ forgot a t (inCell c k))) ∧
    (∀ c b, c < 96 → b < 576 →
      let v := bankOf s c b
      let own := ownCell ((b - 64) / 16)
      let here (k : Nat) : Bool := decide (k < 2 ^ 37) && bankOfKey k == (c, b)
      let a := drainBank c b s
      let ok := 576 * c + b ∈ s.bankMoves ∧ (v.code = 0 ∨ v.code = own) ∧ actsFor s c own = false
      (¬ ok → exec (.bankMove c b) s = .next s) ∧
      (ok → Completes (exec (.bankMove c b) s) fun t => { t with bankMoves := a.bankMoves, ecc := a.ecc, clus := a.clus, ueLog := a.ueLog, ceLog := a.ceLog, complLog := a.complLog } = a ∧
        t.bankMoves = s.bankMoves.filter (· != 576 * c + b) ∧ bankOf t c b = { v with staged := [] } ∧ (∀ d, { clu t d with regs := [] } = { clu s d with regs := [] } ∧ ∀ o, d ≠ c ∨ o ≠ Reg.BNK_SRAM_ECC → creg t d o = creg a d o) ∧
        (v.staged = [] → t.mem = s.mem) ∧ (eccOk a → (∀ k, mget 0 t.ecc k = if here k = true ∧ mget 0 a.ecc k = 1 then 0 else mget 0 a.ecc k) ∧ forgot a t here))) ∧
    (∀ c (seen : Bool), c < 96 →
      let isl := cmpIsland s c
      let req : Bool := s.repair == some (1, 2, isl, 0)
      let due := seen = true ∨ c ∈ s.cluTrig ∨ (∃ u ∈ s.trig, unitClu u = some c) ∨ overLimit s (inStore c) bankNo = true
      let idle := served s = false ∨ (clu s c).vacant = true ∨ ¬ (req = true ∨ due)
      let p := (clu s c).part
      let untrig (t : State) : Prop := t.trig = s.trig.filter (fun u => unitClu u != some c) ∧ t.cluTrig = s.cluTrig.filter (· != c)
      let a := resetClu c s
      let base (q : Cluster) : Cluster := { q with vacant := false, slot := 0, ncell := 0, cellSlot := [], joining := false, reseedDue := false, regs := [] }
      (∀ e, freeCluSlot s (c / 12) = some e → e < 13 ∧ (∀ i, i < 12 → (clu s (12 * (c / 12) + i)).vacant = false → sluSlot s (12 * (c / 12) + i) ≠ e) ∧
        (cellSlots (badUnits s) (c / 12) e).length = 32 ∧ cluBad (badUnits s) (c / 12) e = false) ∧
      (idle → exec (.clusterRetirement c seen) s = .next s) ∧
      (¬ idle → req = false → auto = false → Completes (exec (.clusterRetirement c seen) s) fun t => only t ∧ t.dueErr = s.dueErr ++ [record 4 0x0F_0015 2 isl 8 p] ∧ untrig t ∧ forgot s t (inStore c)) ∧
      (∀ e, ¬ idle → req = true ∨ auto = true → freeCluSlot s (c / 12) = some e → isl < 2 ^ 16 → Completes (exec (.clusterRetirement c seen) s) fun t =>
        { t with clus := a.clus, cells := a.cells, chorus := a.chorus, bankMoves := a.bankMoves, srGen := a.srGen, srLane := a.srLane, ecc := a.ecc, heldBy := a.heldBy, dfl := a.dfl, dregs := a.dregs, parts := a.parts, dueErr := a.dueErr, repair := a.repair, trig := a.trig, cluTrig := a.cluTrig, ueLog := a.ueLog, ceLog := a.ceLog, complLog := a.complLog } = a ∧
        (sluSlot t c = e ∧ (clu t c).ncell = 32 ∧ (∀ k, k < 32 → cellSlotOf t c k = (cellSlots (badUnits s) (c / 12) e).getD k 0) ∧ (clu t c).vacant = false ∧ (clu t c).joining = p.isSome ∧ (clu t c).reseedDue = false ∧ base (clu t c) = base (clu a c) ∧
          (clu t c).part = p ∧ (clu t c).dq = [] ∧ (clu t c).vq = [] ∧ (clu t c).slots = [] ∧ (clu t c).flags = []) ∧ (∀ o, o ≠ Reg.BNK_SRAM_ECC → creg t c o = creg a c o) ∧ (∀ d, d ≠ c → clu t d = clu a d) ∧
        (∀ k, k < 32 → cellOf t c k = { frozen := (cellOf a c k).frozen, quiet := p.isSome }) ∧ (∀ d k, d ≠ c → k < 32 → cellOf t d k = cellOf a d k) ∧
        (∀ b, b < 576 → (bankOf t c b).staged = [] ∧ 576 * c + b ∉ t.bankMoves) ∧ (eccOk a → (∀ k, mget 0 t.ecc k = if inClu c k = true ∧ mget 0 a.ecc k = 1 then 0 else mget 0 a.ecc k) ∧ forgot a t (inClu c)) ∧
        (∀ i, mget 0 t.srGen i = if i = c ∨ i = 96 + c ∨ i = 192 + c then (mget 0 a.srGen i + 1) % 2 ^ 26 else mget 0 a.srGen i) ∧ (∀ k n, k < 32 → p = some n → ∀ g ∈ (part s n).image, { clu := c, cell := k, seg := g, cmd := none } ∈ t.chorus) ∧
        (∀ i, mget 0 t.heldBy i = if i = isl then c + 1 else mget 0 a.heldBy i) ∧ listed t 8 2 isl 0 ∧ t.dueErr = a.dueErr ++ [record 8 0x0F_0012 2 isl (4096 * (c / 12) + 64 * e + 0x30) p] ∧ flags a t p (orBit · 0) ∧
        (∀ o, dreg t o = status o (counted o (dreg a o)) req isl 0) ∧ repaired t req ∧ untrig t) ∧
      (¬ idle → req = true ∨ auto = true → freeCluSlot s (c / 12) = none → isl < 2 ^ 16 → Completes (exec (.clusterRetirement c seen) s) fun t =>
        (clu t c).vacant = true ∧ (clu t c).part = none ∧ (clu t c).leaving = false ∧ t.moves = s.moves.filter (fun m => m.clu != c) ∧ (∀ m ∈ s.moves, m.clu = c → isOpen s m.mbx m.cmd.seq = true → ∃ d ∈ t.due, d.mbx = m.mbx ∧ d.seq = m.cmd.seq ∧ d.status = 1 ∧ d.detail = 0x0C_0002) ∧
        (p.isSome = true → (clu s c).pw = .on → (mwf {} s.tasks = true → ∀ x ∈ runningOn s c ++ queuedOn s c, hasReq s x.2.req = true → (reqOf t x.2.req).st = .done) ∧ dreg t Reg.PMAP_MOVES = bump32 32 ((runningOn s c).length + (queuedOn s c).length) (dreg s Reg.PMAP_MOVES)) ∧
        (∀ o ∈ [Reg.ERR_EVENTS, Reg.DFL_LOST, Reg.BRG_ERR, Reg.ERR_REPAIR_STATUS], dreg t o = status o (counted o (dreg s o)) req isl 0) ∧ dreg t Reg.ERR_DFLAGS = orBit (dreg s Reg.ERR_DFLAGS) 3 ∧
        (∀ n, p = some n → preg t n Reg.ERR_PFLAGS = orBit (orBit (preg s n Reg.ERR_PFLAGS) 3) 0) ∧ (∃ l, t.dueErr = s.dueErr ++ l ++ [record 4 0x0F_0014 2 isl 8 p, record 8 0x0F_0012 2 isl 0 p]) ∧
        (∀ i, mget 0 t.heldBy i = if i = isl then c + 1 else mget 0 s.heldBy i) ∧ listed t 8 2 isl 0 ∧ repaired t req ∧ untrig t ∧ (∀ x, x ∈ t.ueLog ∨ x ∈ t.ceLog ∨ x ∈ t.complLog → inStore c x.1 = false) ∧
        (p = none → (∀ m ∈ s.moves, m.clu ≠ c) → { t with clus := s.clus, heldBy := s.heldBy, dfl := s.dfl, dregs := s.dregs, dueErr := s.dueErr, repair := s.repair, trig := s.trig, cluTrig := s.cluTrig, ueLog := s.ueLog, ceLog := s.ceLog, complLog := s.complLog } = s ∧
          ∀ d, clu t d = if d = c then { clu s c with vacant := true, leaving := false } else clu s d))) ∧
    (∀ ch, ch < 512 →
      let old := chanSlotOf s ch
      let isl := hbmIsland s ch
      let req : Bool := s.repair == some (1, 5, isl, old)
      let many := overLimit s (inChan ch) (fun _ => 0) = true
      let idle := served s = false ∨ s.stackOff.testBit (ch / 32) = true ∨ (∃ x ∈ s.hbmCopy, x.1 = ch) ∨ ¬ (req = true ∨ many)
      (∀ e, freeChan s (ch / 32) = some e → e < 34 ∧ (∀ j, j < 32 → chanSlotOf s (32 * (ch / 32) + j) ≠ e) ∧ unitBad s 5 (stackIsland s (ch / 32)) e = false) ∧
      (idle → exec (.hbmChannelRetirement ch) s = .next s) ∧
      (∀ e, ¬ idle → freeChan s (ch / 32) = some e → req = true ∨ auto = true → exec (.hbmChannelRetirement ch) s = .next { s with hbmCopy := s.hbmCopy ++ [(ch, e)] }) ∧
      (¬ idle → req = false → freeChan s (ch / 32) = none ∨ auto = false → Completes (exec (.hbmChannelRetirement ch) s) fun t => only t ∧ t.trig = s.trig ∧ t.cluTrig = s.cluTrig ∧ t.dueErr = s.dueErr ++ [record 4 0x0F_0015 5 isl 8 none] ∧ forgot s t (inChan ch)) ∧
      (¬ idle → req = true → freeChan s (ch / 32) = none → noEft (exec (.hbmChannelRetirement ch) s) isl) ∧
      ((∀ x ∈ s.hbmCopy, x.1 ≠ ch) → exec (.hbmMoveStep ch) s = .next s) ∧
      (∀ A B e, s.hbmCopy = A ++ (ch, e) :: B → (∀ x ∈ A, x.1 ≠ ch) → isl < 2 ^ 16 → old < 2 ^ 16 → Completes (exec (.hbmMoveStep ch) s) fun t =>
        { t with hbmCopy := s.hbmCopy, chanSlot := s.chanSlot, ecc := s.ecc, ueLog := s.ueLog, ceLog := s.ceLog, complLog := s.complLog, parts := s.parts, dfl := s.dfl, dregs := s.dregs, dueErr := s.dueErr, repair := s.repair } = s ∧
        chanSlotOf t ch = e ∧ (∀ n, n ≠ ch → chanSlotOf t n = chanSlotOf s n) ∧ t.hbmCopy = s.hbmCopy.filter (fun x => x.1 != ch) ∧
        listed t 8 5 isl old ∧ t.dueErr = s.dueErr ++ [record 8 0x0F_0012 5 isl isl none] ∧ (∀ o, dreg t o = status o (counted o (dreg s o)) req isl 0) ∧ repaired t req ∧
        (∀ n, { part t n with regs := [] } = { part s n with regs := [] } ∧ ∀ o, o ≠ Reg.BNK_HBM_ECC → preg t n o = if n ∈ usersOf s ch ∧ o = Reg.ERR_PFLAGS then orBit (preg s n o) 0 else preg s n o) ∧
        (eccOk s → (∀ k, mget 0 t.ecc k = if inChan ch k = true ∧ mget 0 s.ecc k = 1 then 0 else mget 0 s.ecc k) ∧ forgot s t (inChan ch)))) ∧
    (∀ (pass : Bool) kind isl idx,
      let n := mget 0 s.heldBy isl
      let die := isl / 4096
      let here (d : Nat) : Prop := (clu s d).vacant = false ∧ cmpIsland s d / 64 = isl / 64
      let k := if n = 0 then isl % 64 else n - 1
      let done (t : State) : Prop := t.repair = none ∧ ∀ o, dreg t o = if o = Reg.ERR_REPAIR_STATUS then 4 + isl * 2 ^ 16 else dreg s o
      let cleared (t : State) : Prop := t.bad = s.bad.filter fun x => !(x.kind == kind && x.island == isl && x.index == idx)
      let spare (t : State) (p : Option Nat) : Prop := { t with dregs := s.dregs, repair := s.repair, bad := s.bad, dueErr := s.dueErr } = s ∧ done t ∧ cleared t ∧ t.dueErr = s.dueErr ++ [record 8 0x0F_0013 kind isl 0 p]
      let o := exec (.unitReadmit pass) s
      ((∀ k i x, s.repair ≠ some (2, k, i, x)) ∨ served s = false → o = .next s) ∧
      (s.repair = some (2, kind, isl, idx) → served s = true →
        (pass = false → kind < 16 → isl < 2 ^ 16 → idx < 2 ^ 16 → Completes o fun t => { t with dregs := s.dregs, repair := s.repair, dfl := s.dfl } = s ∧ t.repair = none ∧ listed t 2 kind isl idx ∧
          ∀ o, dreg t o = if o = Reg.ERR_REPAIR_STATUS then 20 + isl * 2 ^ 16 else lostDfl o (dreg s o)) ∧
        (pass = true → kind = 5 → Completes o fun t => spare t none) ∧
        (pass = true → kind = 1 → (∀ d, d < 96 → ¬ here d) → Completes o fun t => spare t none) ∧
        (∀ c, pass = true → kind = 1 → c < 96 → (∀ d, d < 96 → (here d ↔ d = c)) → (dreg s Reg.ERR_POLICY).testBit 1 = false ∨ (clu s c).ncell ≤ k → Completes o fun t => spare t (clu s c).part) ∧
        (∀ c, pass = true → kind = 1 → c < 96 → (∀ d, d < 96 → (here d ↔ d = c)) → (dreg s Reg.ERR_POLICY).testBit 1 = true → k < (clu s c).ncell → k < 32 →
          let a := absorbCell c k { s with bad := s.bad.filter fun x => !(x.kind == kind && x.island == isl && x.index == idx) }
          Completes o fun t => { t with clus := a.clus, cells := a.cells, chorus := a.chorus, bankMoves := a.bankMoves, dregs := a.dregs, dueErr := a.dueErr, repair := a.repair } = a ∧ done t ∧
            cellSlotOf t c k = isl % 64 ∧ (∀ j, j ≠ k → cellSlotOf t c j = cellSlotOf s c j) ∧ cellOf t c k = { frozen := (cellOf s c k).frozen, quiet := (clu s c).part.isSome } ∧
            (∀ d j, (d, j) ≠ (c, k) → j < 32 → cellOf t d j = cellOf a d j) ∧ (∀ d, d ≠ c → clu t d = clu a d) ∧ { clu t c with cellSlot := [] } = { clu a c with cellSlot := [] } ∧
            t.dueErr = a.dueErr ++ [record 8 0x0F_0013 1 isl (cellIsland s c k) (clu s c).part] ∧
            (∀ m, m ∈ t.bankMoves ↔ m ∈ s.bankMoves ∨ ∃ j, j < 16 ∧ m = 576 * c + 64 + 16 * k + j) ∧ (∀ n, (clu s c).part = some n → ∀ g ∈ (part s n).image, { clu := c, cell := k, seg := g, cmd := none } ∈ t.chorus)) ∧
        (pass = true → kind = 2 → (∀ i, i < 12 → (clu s (12 * die + i)).vacant = false) → Completes o fun t => spare t none) ∧
        (∀ i, pass = true → kind = 2 → i < 12 → 12 * die + i < 96 → (clu s (12 * die + i)).vacant = true →
          (if n ≠ 0 ∧ (clu s (12 * die + (n - 1) % 12)).vacant = true then i = (n - 1) % 12 else ∀ j, j < i → (clu s (12 * die + j)).vacant = false) → Completes o fun t =>
          let c := 12 * die + i
          (clu t c).vacant = false ∧ sluSlot t c = bits isl 11 6 ∧ (clu t c).part = (clu s c).part ∧ (clu t c).flags = [] ∧ (clu t c).slots = [] ∧ (clu t c).cst = [] ∧ (∀ d, d ≠ c → clu t d = clu s d) ∧
          (∀ b, b < 576 → bankOf t c b = {}) ∧ (∀ q, mget 0 t.mem q = if inClu c q then 0 else mget 0 s.mem q) ∧ (∀ k x, k < 32 → x < 4 → ctxOf t c k x = {}) ∧ (∀ d k, d ≠ c → k < 32 → cellOf t d k = cellOf s d k) ∧
          (∀ e ∈ [c, 96 + c, 192 + c], mget 0 t.srGen e = (mget 0 s.srGen e + 1) % 2 ^ 26) ∧ done t ∧ cleared t ∧ t.dueErr = s.dueErr ++ [record 8 0x0F_0013 2 isl 0 none] ∧ t.parts = s.parts ∧ t.tasks = s.tasks ∧ t.reqs = s.reqs)))

/-- HEARTBEAT moves the tick unless an injection stopped it. A takeover begins after 250 ms without one (a planned one at once) if a standby is ready, and sets TAKING_OVER: no command is read. When it ends, the roles and releases have changed places, TAKEOVERS counts, no standby is ready, the takeover is a failure event recorded with severity DEVICE, the lack of a standby too, flags are set in the device's and each bound
partition's register, the seeds of every cluster with no running task are reapplied (the others' when their tasks end), and an open update fails with FW_INTERRUPTED. STANDBY_BOOT makes the standby ready with the active slot's release, or never. CORE_RESTART is a failure event of severity UNIT; it fails the commands that the die's core had started, and their work. CMD_FW_UPDATE fails with FW_BUSY when busy,
and for an image that is too long, fails its check or has another major release; else the image goes to the inactive slot and, with ACTIVATE, a second event changes over: a standby that does not boot leaves all as it was (FW_STANDBY); a later failure leaves no standby (FW_PARTIAL). Each failed command is recorded. Injections arm what their register names: one or two bytes of a word of a bank or of HBM, one CRC failure, the heartbeat. Nothing else changes. -/
def Obligations.FirmwareServes : Prop :=
  ∀ (s : State),
    let w := dreg s Reg.ERR_MGMT
    let fw := dreg s Reg.ERR_FW
    let taking := w.testBit 2
    let ready := w.testBit 1
    let w' := newRoles s
    let rel1 := bits fw 15 0
    let same (t : State) : Prop := { t with mbx := s.mbx, due := s.due, dueErr := s.dueErr } = s
    let failErr (f : Nat) (c : Cmd) (detail : Nat) (e : ErrInfo) : Prop := e.sev = 2 ∧ e.cls = 5 ∧ e.detail = detail ∧ e.subject = c.op ∧ e.aux = 0 ∧ e.tag = c.tag ∧ e.iseq = c.seq ∧ e.part = if f < 16 then some f else none
    let noted (u t : State) (f : Nat) (c : Cmd) (detail : Nat) : Prop := ∃ e : ErrInfo, t.dueErr = u.dueErr ++ [e] ∧ failErr f c detail e
    let fails (o : Out) (f : Nat) (c : Cmd) (detail : Nat) : Prop := Completes o fun t => Ends s t f c 1 detail 0 ∧ noted s t f c detail ∧ same t
    let ended (t : State) (f : Nat) (c : Cmd) (status detail : Nat) : Prop := (∀ g, g ≠ f → mbxOf t g = mbxOf s g) ∧ { mbxOf t f with cmds := [] } = { mbxOf s f with cmds := [] } ∧
      (isOpen s f c.seq = true → (∃ d : Due, t.due = s.due ++ [d] ∧ d.mbx = f ∧ d.seq = c.seq ∧ d.tag = c.tag ∧ d.status = status ∧ d.detail = detail ∧ d.rlen = 0) ∧
        (mbxOf t f).cmds = (mbxOf s f).cmds.map fun x => if x.seq = c.seq then { x with due := true } else x) ∧ (isOpen s f c.seq = false → t.due = s.due ∧ (mbxOf t f).cmds = (mbxOf s f).cmds)
    let bound (p : Nat) : Prop := p < 16 ∧ (part s p).st ≠ .unbound
    let record (detail : Nat) : ErrInfo := rolesRecord s detail
    let df2 := orBit (dreg s Reg.ERR_DFLAGS) 2
    (exec .heartbeat s = .next (if s.pwr = 2 ∧ s.beatStop = false then { s with beatAt := s.now } else s)) ∧
    (∀ i, (i = .takeover false ∧ s.beatAt + 6250000 ≤ s.now) ∨ i = .plannedTakeover false →
      (served s = true → ready = true → taking = false → Completes (exec i s) fun t => { t with dregs := s.dregs } = s ∧ (∀ o, dreg t o = if o = Reg.ERR_MGMT then orBit w 2 else dreg s o) ∧ takingOver t = true ∧ ∀ f op, nextCmd t f op = none) ∧
      (served s = false ∨ ready = false ∨ taking = true → exec i s = .next s)) ∧
    (s.now < s.beatAt + 6250000 → exec (.takeover false) s = .next s) ∧
    (∀ i ∈ [Instr.takeover true, .plannedTakeover true],
      (served s = false ∨ taking = false → exec i s = .next s) ∧
      (served s = true → taking = true → Completes (exec i s) fun t =>
        TakenOver s t w' (bits fw 31 16 + rel1 * 2 ^ 16 + bits fw 32 32 * 2 ^ 32) (orBit df2 1) (orBit · 1) ∧ t.fwUpd = none ∧ t.slotAct = s.slotAct ∧ t.pldm = s.pldm ∧ t.sent = s.sent ∧ takingOver t = false ∧ standbyReady t = false ∧
        (s.fwUpd = none → t.dueErr = s.dueErr ++ [record 0x0F_0010, record 0x0F_0011] ∧ t.due = s.due ∧ t.mbx = s.mbx) ∧
        ∀ f c r, s.fwUpd = some (f, c, r) → ended t f c 1 0x0F_0007 ∧ ∃ e, t.dueErr = s.dueErr ++ [record 0x0F_0010, e, record 0x0F_0011] ∧ failErr f c 0x0F_0007 e)) ∧
    (∀ ok : Bool, (served s = false ∨ ready = true ∨ taking = true ∨ s.stbyOk = false → exec (.standbyBoot ok) s = .next s) ∧
      (served s = true → ready = false → taking = false → s.stbyOk = true →
        (ok = false → exec (.standbyBoot ok) s = .next { s with stbyOk := false }) ∧
        (ok = true → Completes (exec (.standbyBoot ok) s) fun t => { t with dregs := s.dregs } = s ∧ standbyReady t = true ∧
          ∀ o, dreg t o = if o = Reg.ERR_MGMT then orBit w 1 else if o = Reg.ERR_FW then rel1 + mget 0 s.slotRel s.slotAct * 2 ^ 16 + bits fw 32 32 * 2 ^ 32 else dreg s o))) ∧
    (∀ d, d < 4 →
      let lost (p : Nat) (x : Cmd) : Prop := bound p ∧ (part s p).port < 4 ∧ dieOf s (part s p).port = d ∧ x ∈ (mbxOf s p).cmds ∧ x.started = true ∧ x.due = false ∧ x.op ≠ 1
      let hit (p : Nat) : Prop := ∃ x, lost p x
      (served s = false ∨ nIoDies s ≤ d → exec (.coreRestart d) s = .next s) ∧
      (served s = true → d < nIoDies s → Completes (exec (.coreRestart d) s) fun t =>
        { t with dregs := s.dregs, dueErr := s.dueErr, due := s.due, mbx := s.mbx, batches := s.batches, parts := s.parts, ioSlots := s.ioSlots } = s ∧ (∀ o, dreg t o = if o = Reg.ERR_EVENTS then bump32 0 1 (dreg s o) else dreg s o) ∧
        (∃ l, t.dueErr = s.dueErr ++ { sev := 5, cls := 4, detail := 0x0F_0001, island := mgmtIsland s, cycles := recCycles s (mgmtIsland s), subject := coreIsland d, aux := 8 } :: l ∧
          (∀ e ∈ l, ∃ p x, lost p x ∧ failErr p x 0x0F_0001 e) ∧ ∀ p x, lost p x → ∃ e ∈ l, failErr p x 0x0F_0001 e) ∧
        (∃ l, t.due = s.due ++ l ∧ (∀ r ∈ l, r.status = 1 ∧ r.detail = 0x0F_0001 ∧ ∃ x, lost r.mbx x ∧ r.seq = x.seq) ∧ ∀ p x, lost p x → ∃ r ∈ l, r.mbx = p ∧ r.seq = x.seq ∧ r.tag = x.tag) ∧
        (∀ p, ¬ hit p → mbxOf t p = mbxOf s p ∧ part t p = part s p) ∧ (∀ p, hit p → part t p = { part s p with hostBar := [], loading := false, load := none } ∧ { mbxOf t p with cmds := [] } = { mbxOf s p with cmds := [] }) ∧
        (∀ x, x ∈ t.ioSlots ↔ x ∈ s.ioSlots ∧ ¬ hit x.2.mbx) ∧
        (mwf {} s.batches = true → ∀ b, ((batchOf s b).kind = 0 ∧ hit (batchOf s b).part ∧ batchOf s b ≠ {} → batchOf t b = { batchOf s b with kind := 3 }) ∧ (¬ ((batchOf s b).kind = 0 ∧ hit (batchOf s b).part) ∨ batchOf s b = {} → batchOf t b = batchOf s b)))) ∧
    (∀ f c (boots rest : Bool),
      let i := Instr.cmdFwUpdate f boots rest
      let n := bits (c.a 1) 31 0
      let img := peeks s (hostKey f (bits (c.a 0) 46 0)) n
      let rel := Config.imageRelease img
      let stored (t : State) : Prop := ∀ q, mget 0 t.slotRel q = if q = 1 - s.slotAct then rel else mget 0 s.slotRel q
      (f ≤ 20 → nextCmd s f 0x10 = none → (∀ c' r, s.fwUpd = some (f, c', r) → taking = true) → exec i s = .next s) ∧
      (∀ f' c' r, Begins s f 0x10 c → s.fwUpd = some (f', c', r) → f' ≠ f → fails (exec i s) f c 0x0F_0004) ∧
      (Begins s f 0x10 c → s.fwUpd = none →
        (s.pldm ≠ 0 ∨ ready = false → fails (exec i s) f c 0x0F_0004) ∧
        (s.pldm = 0 → ready = true →
          (2 ^ 26 < n → fails (exec i s) f c 0x0B_0004) ∧
          (n ≤ 2 ^ 26 → Config.imageGood img = false → fails (exec i s) f c 0x0F_0002) ∧
          (n ≤ 2 ^ 26 → Config.imageGood img = true →
            (rel / 256 ≠ bits fw 15 8 → fails (exec i s) f c 0x0F_0003) ∧
            (rel / 256 = bits fw 15 8 → (c.a 2).testBit 0 = false → Completes (exec i s) fun t => Ends s t f c 0 0 0 ∧ stored t ∧ { t with slotRel := s.slotRel, mbx := s.mbx, due := s.due } = s) ∧
            (rel / 256 = bits fw 15 8 → (c.a 2).testBit 0 = true → Completes (exec i s) fun t => t.fwUpd = some (f, c, rel) ∧ stored t ∧ { t with slotRel := s.slotRel, fwUpd := none, mbx := s.mbx } = s ∧
              (∀ g, g ≠ f → mbxOf t g = mbxOf s g) ∧ mbxOf t f = { mbxOf s f with cmds := (mbxOf s f).cmds.map fun x => if x.seq = c.seq then { x with started := true } else x })))) ∧
      (∀ r, f ≤ 20 → s.fwUpd = some (f, c, r) → taking = false →
        (boots = false → Completes (exec i s) fun t => ended t f c 1 0x0F_0005 ∧ noted s t f c 0x0F_0005 ∧ t.fwUpd = none ∧ same { t with fwUpd := s.fwUpd }) ∧
        (boots = true → Completes (exec i s) fun t => t.fwUpd = none ∧ t.slotAct = 1 - s.slotAct ∧ t.pldm = s.pldm ∧ t.sent = s.sent ∧
          (rest = true → ended t f c 0 0 ∧ TakenOver s t (orBit w' 1) (r % 65536 + r % 65536 * 2 ^ 16 + (1 - s.slotAct) * 2 ^ 32) df2 (fun v => orBit (orBit v 1) 2) ∧ standbyReady t = true ∧ t.dueErr = s.dueErr ++ [record 0x0F_0010]) ∧
          (rest = false → ended t f c 1 0x0F_0006 ∧ TakenOver s t w' (r % 65536 + rel1 * 2 ^ 16 + (1 - s.slotAct) * 2 ^ 32) (orBit (orBit df2 4) 1) (orBit · 1) ∧ standbyReady t = false ∧
            ∃ e, t.dueErr = s.dueErr ++ [record 0x0F_0010, record 0x0F_0006, record 0x0F_0011, e] ∧ failErr f c 0x0F_0006 e)))) ∧
    (let at8 := dreg s Reg.ERR_INJECT_ADDR
     let a := bits at8 47 0
     let shows (t : State) (ty : Nat) : Prop := ∀ o, dreg t o = if o = Reg.ERR_INJECT then ty else dreg s o
     let armed (o : Out) (two : Bool) (r ty : Nat) : Prop := (∀ k, regionOf a = some r → chk s .fw (bits at8 51 48) none a = .ok k → Completes o fun t => { t with dregs := s.dregs, inj := s.inj } = s ∧ shows t ty ∧
         ∀ q, mget 0 t.inj q = if q = wordKey k then 1 + b2n two else mget 0 s.inj q) ∧
       (regionOf a ≠ some r ∨ (∀ k, chk s .fw (bits at8 51 48) none a ≠ .ok k) → Completes o fun t => { t with dregs := s.dregs } = s ∧ shows t ty)
     (served s = false → (∀ two l, l < 16 → ∀ i ∈ [Instr.injectBankError two, .injectHbmError two, .injectCrcFailure l, .injectHeartbeatStop], exec i s = .next s)) ∧
     (served s = true → (∀ two, armed (exec (.injectBankError two) s) two 0 (1 + b2n two) ∧ armed (exec (.injectHbmError two) s) two 1 (3 + b2n two)) ∧
       (∀ l, l < 16 → Completes (exec (.injectCrcFailure l) s) fun t => { t with dregs := s.dregs, links := s.links } = s ∧ shows t (5 + 16 * l) ∧
         ∀ n, linkOf t n = if n = l then { linkOf s n with inj := true } else linkOf s n) ∧
       Completes (exec .injectHeartbeatStop s) fun t => { t with dregs := s.dregs, beatStop := s.beatStop } = s ∧ t.beatStop = true ∧ shows t 6))

/-- Rails come up from STANDBY when PWR_EN is asserted, no trip stands and the input is good: a cold start begins and every cycle counter is 0. PWR_EN, an input fault, a rail fault or a trip removes them: the module is as newStart leaves it, all memory but the hosts' lost, only flash and the cause kept. A dip is ridden through. DEVRST# and the sideband's device reset act as DEVICE_RESET.
A sensor's value is kept and shown; on entry into a warning condition its flag is set, a record written and an event sent; one that gives no reading is a warning too, and a cluster's sensor sets its thermal limit; a trip asserts THERMTRIP#. MCTP and PLDM are answered (busy before stage MGMT has ended), a PLDM sensor reading gives the value kept, an image is checked and stored in the inactive slot,
and ActivateFirmware changes over to it as CMD_FW_UPDATE does, in recovery by a cold start. A vendor-defined message opens the session; it carries a command entry, one at a time, which is taken, or refused and recorded; or reads or writes a register of management BAR0 as its host does. The session closes after 60 s. Nothing else changes. -/
def Obligations.PinsAndSideband : Prop :=
  ∀ (s : State),
    let sends (t : State) (kind : Nat) (l : List Nat) : Prop := t.sent = s.sent ++ [(kind, l)]
    let replied (kind : Nat) (l : List Nat) : State := { s with sent := s.sent ++ [(kind, l)] }
    let off (t u : State) (cause left : Nat) : Prop :=
      let b := newStart false 0 u
      { t with pwr := b.pwr, session := b.session, mem := b.mem, ecc := b.ecc, dregs := b.dregs } = b ∧ t.pwr = left ∧ t.session = (u.session && left != 0) ∧ (∀ o, dreg t o = if o = Reg.PWR_MERR then cause * 2 ^ 16 else dreg b o) ∧
      (∀ k, mget 0 t.mem k = (if k < 2 ^ 52 then 0 else mget 0 s.mem k) ∧ mget 0 t.ecc k = if k < 2 ^ 52 then 0 else mget 0 s.ecc k) ∧
      t.stage = 0 ∧ t.outcome = 0 ∧ t.cells = [] ∧ t.banks = [] ∧ t.tasks = [] ∧ t.reqs = [] ∧ t.mbx = [] ∧ t.due = [] ∧ t.dueErr = [] ∧ t.latches = [] ∧ t.links = [] ∧ t.batches = [] ∧ t.hostCfg = [] ∧ t.atc = [] ∧
      t.dfl = s.dfl ∧ t.srGen = s.srGen ∧ t.slotRel = s.slotRel ∧ t.slotAct = s.slotAct ∧ t.sent = u.sent ∧ t.now = s.now ∧ t.variant = s.variant ∧ t.pending = s.pending ∧ t.pwrEn = u.pwrEn ∧ t.trip = u.trip ∧ t.vinBad = u.vinBad
    let starts (t : State) (warm : Bool) : Prop := t.pwr = 2 ∧ t.stage = 0 ∧ t.staging = true ∧ t.halted = false ∧ t.outcome = 0 ∧ t.recovery = false ∧ t.warm = warm ∧ t.cells = [] ∧ t.tasks = [] ∧ t.reqs = [] ∧ t.mbx = [] ∧ t.dfl = s.dfl ∧ t.variant = s.variant
    let up (t u : State) : Prop := { t with clus := u.clus } = { u with pwr := 2, stage := 0, staging := true, began := s.now, stageAt := s.now, beatAt := s.now, upAt := s.now } ∧ (∀ isl, isl < 4096 * 8 → isl / 64 % 64 ≠ 0x3F → islandCycles t isl = 0) ∧ coreCycles t = 0 ∧
      (mwf {} u.clus = true → ∀ c, { clu t c with cycCell := 0, cycCmp := 0, cycAt := 0 } = { clu u c with cycCell := 0, cycCmp := 0, cycAt := 0 })
    let ready := (dreg s Reg.ERR_MGMT).testBit 1
    let fwOk := mgmtEnded s = true
    let cold (held : Bool) : Bool := held && !(dreg s Reg.BRG_CFG).testBit 1
    let open' : State := { s with session := true, sessAt := s.now }
    (∀ h, ((s.pwr = 2 → exec .standbyRailUp s = .next s) ∧ (s.pwr ≠ 2 → s.pwrEn = true → s.trip = false → Completes (exec .standbyRailUp s) (up · { s with vinBad := false })) ∧
      (s.pwr ≠ 2 → s.pwrEn = false ∨ s.trip = true → exec .standbyRailUp s = .next { s with pwr := 1, vinBad := false })) ∧
      ((s.pwr = 1 → s.trip = false → s.vinBad = false → Completes (exec .pwrEnAssert s) (up · { s with pwrEn := true })) ∧
      (s.pwr ≠ 1 ∨ s.trip = true ∨ s.vinBad = true → exec .pwrEnAssert s = .next { s with pwrEn := true })) ∧
      (s.pwr = 2 → Completes (exec .pwrEnDeassert s) (off · { s with pwrEn := false, trip := false } 0 1) ∧ Completes (exec .overvoltage s) (off · { s with vinBad := true } 2 1) ∧
        (∀ gone, Completes (exec (.undervoltage gone) s) (off · { s with vinBad := true } 1 (if gone then 0 else 1))) ∧ Completes (exec .railFault s) (off · s 3 1) ∧
        (∀ c, 4 ≤ c → c < 8 → Completes (exec (.thermtrip c) s) (off · { s with trip := true, sent := s.sent ++ [(12, [2, 11, c])] } c 1)) ∧
        (Completes (exec .inputDip s) fun t => { t with dregs := s.dregs } = s ∧ ∀ o, dreg t o = if o = Reg.PWR_MERR then orBit (dreg s o) 0 else dreg s o) ∧
        exec (.devrst h) s = exec (.deviceReset h) s ∧ Completes (exec (.devrst h) s) (starts · (cold h)) ∧ Completes (exec (.sidebandDeviceReset h) s) fun t => starts t (cold h) ∧ t.session = true) ∧
      (s.pwr ≠ 0 → exec (.sidebandDeviceReset h) s = exec (.deviceReset h) open') ∧
      (s.pwr ≠ 2 → exec .pwrEnDeassert s = .next { s with pwrEn := false, trip := false } ∧ exec .overvoltage s = .next { s with vinBad := true } ∧ exec .railFault s = .next s ∧ exec .inputDip s = .next s ∧
        exec (.undervoltage true) s = .next { s with vinBad := true, pwr := 0, session := false } ∧ exec (.undervoltage false) s = .next { s with vinBad := true } ∧
        (∀ c, 4 ≤ c → c < 8 → exec (.thermtrip c) s = .next s) ∧ exec (.devrst h) s = .next s ∧ (s.pwr = 0 → exec (.sidebandDeviceReset h) s = .next s) ∧ (s.pwr ≠ 0 → exec (.sidebandDeviceReset h) s = .next open'))) ∧
    (∀ n (v : Option Nat), n < 5 ∨ (16 ≤ n ∧ n < 116) ∨ (128 ≤ n ∧ n < 144) →
      let absent := (112 + nIoDies s ≤ n ∧ n < 116) ∨ 128 + nStacks s ≤ n
      let idle := absent ∨ s.pwr = 0 ∨ (s.pwr = 1 ∧ (n = 1 ∨ 5 ≤ n))
      let cl : Prop := 16 ≤ n ∧ n < 112
      let c := n - 16
      let o := exec (.sensorRead n v) s
      let kept : State := { s with sensors := mset none s.sensors n v }
      let base : State := { kept with warned := clearBit s.warned (8 + n) }
      let warn (u t : State) (i bit : Nat) (on : Prop) (reading : Nat) : Prop :=
        (¬ on → t = { u with warned := clearBit u.warned i }) ∧ (on → u.pwr ≠ 2 ∨ u.warned.testBit i = true → t = u) ∧
        (on → u.pwr = 2 → u.warned.testBit i = false → { t with warned := u.warned, dregs := u.dregs, dueErr := u.dueErr, sent := u.sent } = u ∧ t.warned = orBit u.warned i ∧ (∀ o, dreg t o = if o = Reg.PWR_MERR then orBit (dreg u o) bit else dreg u o) ∧
          t.sent = u.sent ++ [(12, [2, 10, bit])] ∧ t.dueErr = u.dueErr ++ [{ sev := 6, cls := 7, detail := 0, island := mgmtIsland u, cycles := recCycles u (mgmtIsland u), subject := 0x7F, aux := reading % 256 }])
      let shows (u t : State) (o w : Nat) : Prop := { t with dregs := u.dregs } = u ∧ ∀ q, dreg t q = if q = o then w else dreg u q
      let w := dreg s Reg.PWR_COOLANT
      (idle → o = .next s) ∧
      (¬ idle → v = none → (¬ cl → Completes o (warn kept · (8 + n) 4 True 0)) ∧ (cl → Completes o fun t => ∃ u, shows kept u (Reg.PWR_TEMP + 8 * c) 256 ∧ warn u t (8 + n) 4 True 0)) ∧
      (∀ x, ¬ idle → v = some x →
        (n = 0 → Completes o (shows base · Reg.PWR_VIN (bits x 31 0))) ∧ (n = 1 → Completes o (shows base · Reg.PWR_INPUT (bits x 31 0))) ∧
        (n = 2 → Completes o fun t => ∃ u, shows base u Reg.PWR_COOLANT (w - bits w 7 0 + x % 256) ∧ warn u t 1 1 (45 < sext 8 (x % 256)) x) ∧
        (n = 3 → Completes o fun t => ∃ u, shows base u Reg.PWR_COOLANT (w - bits w 15 8 * 2 ^ 8 + x % 256 * 2 ^ 8) ∧ warn u t 2 2 (60 < sext 8 (x % 256)) x) ∧
        (n = 4 → Completes o fun t => ∃ u, shows base u Reg.PWR_COOLANT (w - bits w 31 16 * 2 ^ 16 + x % 65536 * 2 ^ 16) ∧
          (450 ≤ x % 65536 → warn { u with flowLow := none } t 3 3 False 0) ∧
          (x % 65536 < 450 → let z := s.flowLow.getD s.now; let y : State := { u with flowLow := some z }; (z + 25000000 ≤ s.now → warn y t 3 3 True 0) ∧ (s.now < z + 25000000 → t = y))) ∧
        (112 ≤ n → o = .next base) ∧
        (cl → Completes o fun t => { t with dregs := s.dregs, clus := s.clus } = { base with dregs := s.dregs, clus := s.clus } ∧ (∀ d, d ≠ c → clu t d = clu s d) ∧
          (∀ q, dreg t q = if q = Reg.PWR_TEMP + 8 * c then x % 256 else if q = Reg.PWR_ERR ∧ tHard s ≤ sext 8 (x % 256) then orBit (dreg s q) 1 else dreg s q) ∧
          let clocked (h : Bool) : Cluster :=
            let a := min (clu s c).limCell (maxStep s (bits (creg s c Reg.PWR_CLK) 5 0))
            let b := min (clu s c).limCmp (maxStep s (bits (creg s c Reg.PWR_CLK) 13 8))
            { clu s c with hot := h, limCell := a, limCmp := b, cellMHz := if h then 400 else 400 + 25 * (maxStep s (bits (creg s c Reg.PWR_CLK) 5 0) - a), cmpMHz := if h then 400 else 400 + 25 * (maxStep s (bits (creg s c Reg.PWR_CLK) 13 8) - b),
                           cycCell := cellCycles s c, cycCmp := cmpCycles s c, cycAt := s.now }
          (tHard s ≤ sext 8 (x % 256) → clu t c = clocked true) ∧ ((clu s c).hot = true → sext 8 (x % 256) < tHard s - 5 → clu t c = clocked false) ∧
          (sext 8 (x % 256) < tHard s → ¬ ((clu s c).hot = true ∧ sext 8 (x % 256) < tHard s - 5) → clu t c = clu s c)))) ∧
    (∀ a b, (s.pwr = 0 → exec (.mctpControlMessage a b) s = .next s) ∧ (s.pwr ≠ 0 → exec (.mctpControlMessage a b) s = .next (replied 11 [a, Config.protocolReply a b]))) ∧
    (∀ ty op (img : List Byte),
      let i := Instr.pldmMessage ty op img
      let n := (img.headD 0).toNat
      (s.pwr = 0 ∨ (ty ≠ 0 ∧ ty ≠ 2 ∧ ty ≠ 5) → exec i s = .next s) ∧
      (s.pwr ≠ 0 → (ty = 2 → op = 0 → exec i s = .next (replied 12 [2, 0, n, (mget none s.sensors n).getD (2 ^ 32)])) ∧ (ty = 2 → op = 1 → exec i s = .next (replied 12 [2, 1, n, if n = 0 then s.outcome else s.pwr])) ∧
        (ty = 0 ∨ (ty = 2 ∧ 2 ≤ op) → (fwOk → exec i s = .next (replied 12 [ty, 0, Config.protocolReply ty op])) ∧ (¬ fwOk → exec i s = .next (replied 13 [ty]))) ∧
        (ty = 5 → ¬ fwOk → s.recovery = false → exec i s = .next (replied 13 [5])) ∧
        (ty = 5 → fwOk ∨ s.recovery = true →
          (op = 0 → s.fwUpd = none → s.pldm = 0 → exec i s = .next { replied 12 [5, 0] with pldm := 1 }) ∧ (op = 0 → s.fwUpd ≠ none ∨ s.pldm ≠ 0 → exec i s = .next (replied 12 [5, 1])) ∧
          (op = 1 → s.pldm ≠ 1 → exec i s = .next (replied 12 [5, 1])) ∧ (op = 1 → s.pldm = 1 → Config.imageGood img = false → exec i s = .next { replied 12 [5, 1] with pldm := 0 }) ∧
          (op = 1 → s.pldm = 1 → Config.imageGood img = true → Completes (exec i s) fun t => { t with slotRel := s.slotRel } = { replied 12 [5, 0] with pldm := 2 } ∧ ∀ q, mget 0 t.slotRel q = if q = 1 - s.slotAct then Config.imageRelease img else mget 0 s.slotRel q) ∧
          (2 ≤ op → exec i s = .next { replied 12 [5, 0] with pldm := 0 })))) ∧
    (∀ (boots rest : Bool),
      let i := Instr.activateFirmware boots rest
      let rel := mget 0 s.slotRel (1 - s.slotAct)
      let busy := served s = false ∨ takingOver s = true ∨ ready = false
      let df := orBit (dreg s Reg.ERR_DFLAGS) 2
      let rel1 := bits (dreg s Reg.ERR_FW) 15 0
      (s.pldm ≠ 2 ∨ s.pwr ≠ 2 → exec i s = .next s) ∧
      (s.pldm = 2 → s.pwr = 2 →
        (s.recovery = true → exec i s = .next (newStart false (retainPorts s) { s with slotAct := 1 - s.slotAct, pldm := 0 }) ∧ Completes (exec i s) fun t => starts t false ∧ t.slotAct = 1 - s.slotAct ∧ t.pldm = 0) ∧
        (s.recovery = false → busy → exec i s = .next (replied 12 [5, 1])) ∧ (s.recovery = false → ¬ busy → boots = false → exec i s = .next { replied 12 [5, 1] with pldm := 0 }) ∧
        (s.recovery = false → ¬ busy → boots = true → Completes (exec i s) fun t => sends t 12 [5, if rest then 0 else 2] ∧ t.pldm = 0 ∧ t.slotAct = 1 - s.slotAct ∧ t.fwUpd = s.fwUpd ∧ t.mbx = s.mbx ∧ t.due = s.due ∧ standbyReady t = rest ∧
          (rest = true → TakenOver s t (orBit (newRoles s) 1) (rel % 65536 + rel % 65536 * 2 ^ 16 + (1 - s.slotAct) * 2 ^ 32) df (fun v => orBit (orBit v 1) 2) ∧ t.dueErr = s.dueErr ++ [rolesRecord s 0x0F_0010]) ∧
          (rest = false → TakenOver s t (newRoles s) (rel % 65536 + rel1 * 2 ^ 16 + (1 - s.slotAct) * 2 ^ 32) (orBit (orBit df 4) 1) (orBit · 1) ∧ t.dueErr = s.dueErr ++ [rolesRecord s 0x0F_0010, rolesRecord s 0x0F_0006, rolesRecord s 0x0F_0011])))) ∧
    (∀ (ws : List Nat),
      let w (i : Nat) : Nat := ws.getD i 0
      let c : Cmd := { op := bits (w 0) 15 0, seq := bits (w 0) 63 32, tag := w 1, fvis := (w 0).testBit 16, noirq := (w 0).testBit 17, fence := (w 0).testBit 18, args := [w 2, w 3, w 4, w 5, w 6], at0 := s.now }
      let m := mbxOf s 20
      let o := exec (.sidebandCommand ws) s
      let accepted := c.op ∈ [0, 7, 0x0D, 0x0E, 0x0F] ∨ (c.op = 0x0A ∧ (w 4).testBit 4 = true)
      let calm (t : State) : Prop := { t with mbx := s.mbx, due := s.due, dueErr := s.dueErr } = open' ∧ ∀ f, f ≠ 20 → mbxOf t f = mbxOf s f
      let fails (x : Cmd) (status detail sev cls : Nat) : Prop := Completes o fun t => calm t ∧ { mbxOf t 20 with reqSeqs := m.reqSeqs } = { m with cmds := [{ x with started := true, due := true }] } ∧
        t.due = s.due ++ [{ mbx := 20, tag := x.tag, seq := x.seq, status := status, detail := detail, island := mgmtIsland s, rlen := 0, fvis := x.fvis, noirq := x.noirq }] ∧
        ∃ e : ErrInfo, t.dueErr = s.dueErr ++ [e] ∧ e.sev = sev ∧ e.cls = cls ∧ e.detail = detail ∧ e.tag = x.tag ∧ e.iseq = x.seq ∧ e.part = none
      (s.pwr = 0 → o = .next s) ∧
      (s.pwr ≠ 0 → (¬ fwOk → o = .next { open' with sent := s.sent ++ [(13, [1])] }) ∧ (fwOk → m.cmds ≠ [] → o = .next open') ∧
        (fwOk → m.cmds = [] → complOk 64 (w 0) (w 7) = true → accepted →
          (served s = true ∨ bringupOk c.op (w 2) = true → argsOk c.op true c.args = true → Completes o fun t => calm t ∧ mbxOf t 20 = { m with cmds := [c] } ∧ t.due = s.due ∧ t.dueErr = s.dueErr) ∧
          (served s = true ∨ bringupOk c.op (w 2) = true → argsOk c.op true c.args = false → fails c 1 0x0B_0004 2 5) ∧
          (served s = false → bringupOk c.op (w 2) = false → fails c 1 0x0E_0004 2 5)) ∧
        (fwOk → m.cmds = [] → complOk 64 (w 0) (w 7) = true → ¬ accepted → fails c 1 0x0B_0003 2 5) ∧
        (fwOk → m.cmds = [] → complOk 64 (w 0) (w 7) = false → fails { seq := c.seq, tag := w 1 } 0x0D 0x0B_0001 3 0))) ∧
    (∀ o (wr : Bool) v,
      let i := Instr.managementAccess o wr v
      let f := ringFn s
      (s.pwr = 0 → exec i s = .next s) ∧
      (s.pwr ≠ 0 → (¬ fwOk → exec i s = .next { open' with sent := s.sent ++ [(13, [2])] }) ∧ (fwOk → o % 8 ≠ 0 → exec i s = .next { open' with sent := s.sent ++ [(14, [0])] }) ∧
        (fwOk → o % 8 = 0 → mgmtOk s (f - 16) = true →
          (wr = true → ∀ u, exec (.registerWrite f o 8 v) open' = .next u → exec i s = .next { u with sent := u.sent ++ [(14, [0])] }) ∧
          (wr = false → ∃ x, exec i s = .next { open' with sent := s.sent ++ [(14, [x])] } ∧ exec (.expertRangeAccess f o 8 false 0) open' = .next { open' with ans := (0, leBytes 8 (x % 2 ^ 64)) })) ∧
        (fwOk → o ∈ [Reg.DEV_EXPERT, Reg.BRG_CFG] →
          (wr = true → Completes (exec i s) fun t => sends t 14 [0] ∧ { t with dregs := s.dregs, sent := s.sent } = open' ∧ ∀ q, dreg t q = if q = o then (if o = Reg.BRG_CFG then bits v 1 0 else bits v 15 0) else dreg s q) ∧
          (o = Reg.DEV_EXPERT → wr = false → exec i s = .next { open' with sent := s.sent ++ [(14, [dreg s o])] })) ∧
        (fwOk → served s = true → o ∈ [Reg.ERR_POLICY, Reg.ERR_MGMT, Reg.PWR_DEV_CAP, Reg.LNK_DOMAIN, Reg.PWR_COOLANT] → wr = false → exec i s = .next { open' with sent := s.sent ++ [(14, [dreg s o])] }))) ∧
    (∀ close, (s.session = true → close = true ∨ s.sessAt + 1500000000 ≤ s.now → exec (.sidebandSessionTimeout close) s = .next { s with session := false }) ∧
      (s.session = false ∨ (close = false ∧ s.now < s.sessAt + 1500000000) → exec (.sidebandSessionTimeout close) s = .next s))

/-- B1 code 0 is +1 and code 1 is −1; it has no zero and no escape. L4 bit [3] is the sign s and bits [2:0] the exponent e: for e from 0 to 6 the value is (−1)^s 2^e; code 0x7 is zero, and code 0xF, and no other, is the escape. -/
def Obligations.WeightCodeValues : Prop :=
  (codeInt .b1 0 = 1 ∧ codeInt .b1 1 = -1 ∧ (∀ c, c < 2 → codeInt .b1 c ≠ 0) ∧ ∀ c, isEsc .b1 c = false) ∧
    (∀ s e, s < 2 → e < 7 → codeInt .l4 (8 * s + e) = (-1) ^ s * 2 ^ e) ∧ codeInt .l4 7 = 0 ∧ ∀ c, c < 16 → (isEsc .l4 c = true ↔ c = 15)
end

