-- ==== Sys2Proof/Laws/SMap.lean ====
section
/-!
SUPPORT. Sparse maps: what a read gives after a write, and that every operation keeps the canonical form.
-/
namespace Sys2Proof.Machine

variable {α : Type}

theorem mget_mins_eq (d : α) (k : Nat) (v : α) (m : SMap α) : mget d (mins k v m) k = v := by
  induction m with
  | nil => simp [mins, mget]
  | cons h r ih =>
    obtain ⟨i, w⟩ := h
    simp only [mins]
    split
    · simp [mget]
    · split
      · simp [mget]
      · next h1 h2 => simp [mget, h2, ih]

theorem mget_mins_ne (d : α) {k j : Nat} (v : α) (m : SMap α) (h : j ≠ k) : mget d (mins k v m) j = mget d m j := by
  induction m with
  | nil => simp [mins, mget, h]
  | cons a r ih =>
    obtain ⟨i, w⟩ := a
    simp only [mins]
    split
    · simp [mget, h]
    · split
      · next h1 h2 => subst h2; simp [mget, h]
      · simp only [mget]; split
        · rfl
        · exact ih

theorem mget_merase_eq (d : α) (k : Nat) (m : SMap α) : mget d (merase m k) k = d := by
  induction m with
  | nil => simp [merase, mget]
  | cons a r ih =>
    obtain ⟨i, w⟩ := a
    simp only [merase, List.filter_cons] at ih ⊢
    by_cases h : i = k
    · simpa [h] using ih
    · have : (i != k) = true := by simp [h]
      simp only [this, if_true, mget]
      rw [if_neg (fun e => h e.symm)]
      exact ih

theorem mget_merase_ne (d : α) {k j : Nat} (m : SMap α) (h : j ≠ k) : mget d (merase m k) j = mget d m j := by
  induction m with
  | nil => simp [merase, mget]
  | cons a r ih =>
    obtain ⟨i, w⟩ := a
    simp only [merase, List.filter_cons] at ih ⊢
    by_cases e : i = k
    · subst e
      simp only [bne_self_eq_false, Bool.false_eq_true, if_false, mget]
      rw [if_neg h]
      exact ih
    · have : (i != k) = true := by simp [e]
      simp only [this, if_true, mget, ih]

/-- A read at the written key gives the value written. -/
@[simp] theorem mget_mset_eq [DecidableEq α] (d : α) (m : SMap α) (k : Nat) (v : α) : mget d (mset d m k v) k = v := by
  unfold mset
  split
  · next h => rw [h, mget_merase_eq]
  · exact mget_mins_eq d k v m

/-- A write leaves every other key alone. -/
theorem mget_mset_ne [DecidableEq α] (d : α) (m : SMap α) {k j : Nat} (v : α) (h : j ≠ k) :
    mget d (mset d m k v) j = mget d m j := by
  unfold mset
  split
  · exact mget_merase_ne d m h
  · exact mget_mins_ne d v m h

/-- A write leaves every other key alone, whatever default it is read with. -/
theorem mget_mset_other [DecidableEq α] (d e : α) (m : SMap α) {k j : Nat} (v : α) (h : j ≠ k) :
    mget d (mset e m k v) j = mget d m j := by
  unfold mset
  split
  · exact mget_merase_ne d m h
  · exact mget_mins_ne d v m h

theorem mget_mset [DecidableEq α] (d : α) (m : SMap α) (k j : Nat) (v : α) :
    mget d (mset d m k v) j = if j = k then v else mget d m j := by
  split
  · next h => subst h; simp
  · next h => exact mget_mset_ne d m v h

/-! ### The canonical form -/

/-- The canonical form as a list property: keys strictly rise and no default is listed. -/
theorem mwf_iff [DecidableEq α] (d : α) (m : SMap α) :
    mwf d m = true ↔ m.Pairwise (fun a b => a.1 < b.1) ∧ ∀ x ∈ m, x.2 ≠ d := by
  induction m with
  | nil => simp [mwf]
  | cons a r ih =>
    obtain ⟨k, v⟩ := a
    cases r with
    | nil => simp [mwf]
    | cons b r =>
      obtain ⟨k', v'⟩ := b
      simp only [mwf, Bool.and_eq_true, decide_eq_true_eq, ih, bne_iff_ne, ne_eq]
      constructor
      · rintro ⟨⟨h1, h2⟩, h3, h4⟩
        refine ⟨List.pairwise_cons.2 ⟨?_, h3⟩, ?_⟩
        · intro x hx
          rcases List.mem_cons.1 hx with rfl | hx
          · exact h2
          · exact Nat.lt_trans h2 ((List.pairwise_cons.1 h3).1 x hx)
        · intro x hx
          rcases List.mem_cons.1 hx with rfl | hx
          · exact h1
          · exact h4 x hx
      · rintro ⟨h1, h2⟩
        have h3 := List.pairwise_cons.1 h1
        exact ⟨⟨h2 (k, v) (by simp), h3.1 (k', v') (by simp)⟩, h3.2, fun x hx => h2 x (List.mem_cons_of_mem _ hx)⟩

theorem mwf_filter [DecidableEq α] (d : α) (f : Nat × α → Bool) {m : SMap α} (h : mwf d m = true) : mwf d (m.filter f) = true := by
  rw [mwf_iff] at h ⊢
  exact ⟨h.1.filter f, fun x hx => h.2 x (List.mem_filter.1 hx).1⟩

theorem mwf_merase [DecidableEq α] (d : α) (k : Nat) {m : SMap α} (h : mwf d m = true) : mwf d (merase m k) = true :=
  mwf_filter d _ h

theorem mem_mins (k : Nat) (v : α) (m : SMap α) {x : Nat × α} (h : x ∈ mins k v m) : x = (k, v) ∨ x ∈ m := by
  induction m with
  | nil => simpa [mins] using h
  | cons a r ih =>
    obtain ⟨i, w⟩ := a
    simp only [mins] at h
    split at h
    · rcases List.mem_cons.1 h with h | h
      · exact .inl h
      · exact .inr h
    · split at h
      · rcases List.mem_cons.1 h with h | h
        · exact .inl h
        · exact .inr (List.mem_cons_of_mem _ h)
      · rcases List.mem_cons.1 h with h | h
        · exact .inr (by simp [h])
        · rcases ih h with h | h
          · exact .inl h
          · exact .inr (List.mem_cons_of_mem _ h)

theorem pairwise_mins (k : Nat) (v : α) {m : SMap α} (h : m.Pairwise (fun a b => a.1 < b.1)) :
    (mins k v m).Pairwise (fun a b => a.1 < b.1) := by
  induction m with
  | nil => simp [mins]
  | cons a r ih =>
    obtain ⟨i, w⟩ := a
    have hc := List.pairwise_cons.1 h
    simp only [mins]
    split
    · next hk =>
      refine List.pairwise_cons.2 ⟨fun x hx => ?_, h⟩
      rcases List.mem_cons.1 hx with rfl | hx
      · exact hk
      · exact Nat.lt_trans hk (hc.1 x hx)
    · split
      · next h1 h2 => subst h2; exact List.pairwise_cons.2 ⟨fun x hx => hc.1 x hx, hc.2⟩
      · next h1 h2 =>
        refine List.pairwise_cons.2 ⟨fun x hx => ?_, ih hc.2⟩
        rcases mem_mins k v r hx with rfl | hx
        · show i < k; omega
        · exact hc.1 x hx

theorem mwf_mins [DecidableEq α] (d : α) (k : Nat) {v : α} (hv : v ≠ d) {m : SMap α} (h : mwf d m = true) :
    mwf d (mins k v m) = true := by
  rw [mwf_iff] at h ⊢
  refine ⟨pairwise_mins k v h.1, fun x hx => ?_⟩
  rcases mem_mins k v m hx with rfl | hx
  · exact hv
  · exact h.2 x hx

/-- A write keeps the canonical form. -/
theorem mwf_mset [DecidableEq α] (d : α) {m : SMap α} (k : Nat) (v : α) (h : mwf d m = true) : mwf d (mset d m k v) = true := by
  unfold mset
  split
  · exact mwf_merase d k h
  · next hv => exact mwf_mins d k hv h

/-- A change of every value keeps the canonical form. -/
theorem mwf_mmap [DecidableEq α] (d : α) (f : Nat → α → α) {m : SMap α} (h : mwf d m = true) : mwf d (mmap d f m) = true := by
  rw [mwf_iff] at h ⊢
  unfold mmap
  refine ⟨?_, fun x hx => ?_⟩
  · refine List.Pairwise.filter _ ?_
    rw [List.pairwise_map]
    exact h.1
  · simpa using (List.mem_filter.1 hx).2

end Sys2Proof.Machine
end

