-- ==== Sys2Proof/Laws/Memory.lean ====
section
/-!
SUPPORT. Memory: what a byte reads as after a write, and that every operation on memory keeps its canonical form.
-/
namespace Sys2Proof.Machine

/-! ### Bytes -/

theorem poke_mem (k : Nat) (b : Byte) (s : State) : (poke k b s).mem = mset 0 s.mem k b := rfl

/-- A byte of the arrays after one byte has been written. -/
theorem mget_poke (k j : Nat) (b : Byte) (s : State) :
    mget 0 (poke k b s).mem j = if j = k then b else mget 0 s.mem j := by
  rw [poke_mem, mget_mset]

/-- Memory of the reset state is in canonical form. -/
theorem wf_reset : Memory.wf State.reset.mem := rfl

/-- Memory outside host ports reads 0 at reset. -/
theorem peek_reset (k : Nat) : peek State.reset k = 0 := by
  simp [peek, State.reset, mget, bankOf, stagedByte]

/-! ### The operations keep the canonical form -/

theorem wf_poke {s : State} (k : Nat) (b : Byte) (h : Memory.wf s.mem) : Memory.wf (poke k b s).mem :=
  mwf_mset 0 k b h

theorem wf_pokes {s : State} (k : Nat) (l : List Byte) (h : Memory.wf s.mem) : Memory.wf (pokes k l s).mem := by
  induction l generalizing k s with
  | nil => exact h
  | cons b r ih => exact ih (k + 1) (wf_poke k b h)

/-- A fold whose steps keep the form keeps it. -/
theorem wf_foldl {β : Type} (f : State → β → State) (hf : ∀ s x, Memory.wf s.mem → Memory.wf (f s x).mem) (l : List β)
    {s : State} (h : Memory.wf s.mem) : Memory.wf (l.foldl f s).mem := by
  induction l generalizing s with
  | nil => exact h
  | cons x r ih => exact ih (hf s x h)

/-- A fold whose steps leave memory alone leaves it alone. -/
theorem foldl_mem {β : Type} (f : State → β → State) (hf : ∀ s x, (f s x).mem = s.mem) (l : List β) (s : State) :
    (l.foldl f s).mem = s.mem := by
  induction l generalizing s with
  | nil => rfl
  | cons x r ih => rw [List.foldl_cons, ih, hf]

theorem injectWords_mem (ws : List Nat) (s : State) : (injectWords ws s).mem = s.mem :=
  foldl_mem _ (fun s w => by dsimp only; split <;> rfl) ws s

/-- Error correction of a write leaves the bytes alone. -/
theorem fixWord_mem (p : Nat) (ks : List Nat) (s : State) (w : Nat) : (fixWord p ks s w).mem = s.mem := by
  unfold fixWord countCorr
  split
  · rfl
  · split
    · rfl
    · split
      · rfl
      · dsimp only
        split <;> rfl

theorem wf_drainEntry {s : State} (e : Staged) (h : Memory.wf s.mem) : Memory.wf (drainEntry e s).mem := by
  unfold drainEntry
  dsimp only
  split
  · exact h
  · rw [injectWords_mem]
    refine wf_foldl (fun s (x : Nat × Byte) => poke x.1 x.2 s) (fun _ x => wf_poke x.1 x.2) _ ?_
    rw [fixWord_mem]
    exact h

theorem wf_drainBank {s : State} (c b : Nat) (h : Memory.wf s.mem) : Memory.wf (drainBank c b s).mem := by
  unfold drainBank
  dsimp only
  split
  · exact h
  · exact wf_foldl (fun s e => drainEntry e s) (fun _ e => wf_drainEntry e) _ h

theorem wf_drainWord {s : State} (k : Nat) (h : Memory.wf s.mem) : Memory.wf (drainWord k s).mem := by
  unfold drainWord
  dsimp only
  split
  · exact h
  · exact wf_foldl (fun s e => drainEntry e s) (fun _ e => wf_drainEntry e) _ h

theorem wf_clearKeys {s : State} (f : Nat → Bool) (h : Memory.wf s.mem) : Memory.wf (clearKeys f s).mem :=
  mwf_filter 0 _ h

theorem wf_clearBanks {s : State} (c : Nat) (h : Memory.wf s.mem) : Memory.wf (clearBanks c s).mem :=
  mwf_filter 0 _ h

theorem wf_newStart {s : State} (warm : Bool) (keep : Nat) (h : Memory.wf s.mem) : Memory.wf (newStart warm keep s).mem :=
  mwf_filter 0 _ h

/-! ### Accesses -/

/-- An operation that a Stop may end keeps the canonical form, however it ends. -/
def KeepsWf {β : Type} (m : EM β) : Prop :=
  ∀ s, Memory.wf s.mem → match m s with
    | .ok _ t => Memory.wf t.mem
    | .error _ t => Memory.wf t.mem

theorem keepsWf_pure {β : Type} (x : β) : KeepsWf (pure x : EM β) := fun _ h => h

theorem keepsWf_throw {β : Type} (e : Stop) : KeepsWf (throw e : EM β) := fun _ h => h

theorem keepsWf_get : KeepsWf (get : EM State) := fun _ h => h

theorem keepsWf_modify (f : State → State) (hf : ∀ s, Memory.wf s.mem → Memory.wf (f s).mem) : KeepsWf (modify f : EM PUnit) :=
  fun s h => hf s h

theorem keepsWf_bind {β γ : Type} {m : EM β} {f : β → EM γ} (hm : KeepsWf m) (hf : ∀ x, KeepsWf (f x)) : KeepsWf (m >>= f) := by
  intro s h
  have h1 := hm s h
  show match EStateM.bind m f s with
    | .ok _ t => Memory.wf t.mem
    | .error _ t => Memory.wf t.mem
  unfold EStateM.bind
  cases e : m s with
  | ok x t => rw [e] at h1; exact hf x t h1
  | error x t => rw [e] at h1; exact h1

theorem wf_countCorr {s : State} (p k : Nat) (h : Memory.wf s.mem) : Memory.wf (countCorr p k s).mem := by
  unfold countCorr
  dsimp only
  split <;> exact h

theorem wf_countUnc {s : State} (p a k : Nat) (h : Memory.wf s.mem) : Memory.wf (countUnc p a k s).mem := by
  unfold countUnc
  dsimp only
  split <;> exact h

theorem keepsWf_keysOf (m : Master) (p : Nat) (dom : Option Nat) (a n : Nat) : KeepsWf (keysOf m p dom a n) := by
  induction n generalizing a with
  | zero => exact keepsWf_pure _
  | succ n ih =>
    refine keepsWf_bind keepsWf_get fun s => ?_
    split
    · exact keepsWf_bind (ih (a + 1)) fun _ => keepsWf_pure _
    · exact keepsWf_throw _
    · exact keepsWf_throw _
    · exact keepsWf_bind (keepsWf_modify _ fun _ h => h) fun _ => keepsWf_throw _

theorem keepsWf_eccRead (p a : Nat) (ks : List Nat) : KeepsWf (eccRead p a ks) := by
  induction ks generalizing a with
  | nil => exact keepsWf_pure _
  | cons k r ih =>
    refine keepsWf_bind keepsWf_get fun s => ?_
    dsimp only
    split
    · exact keepsWf_bind (keepsWf_modify _ fun _ h => wf_countUnc p a k h) fun _ => keepsWf_throw _
    · split
      · exact keepsWf_bind (keepsWf_modify _ fun _ h => wf_countCorr p k h) fun _ => ih (a + 1)
      · exact ih (a + 1)

theorem loadXlat_mem (x : Xlat) (s : State) : (loadXlat x s).mem = s.mem := by
  unfold loadXlat takeFree
  dsimp only
  split <;> rfl

/-- A translation leaves the bytes alone. -/
theorem translate_mem (p a n : Nat) (s : State) : (translate p a n s).mem = s.mem := by
  unfold translate
  split
  · rfl
  · refine foldl_mem _ (fun s x => ?_) _ s
    dsimp only
    split
    · rfl
    · exact loadXlat_mem _ s

theorem keepsWf_translate (p a n : Nat) : KeepsWf (modify (translate p a n) : EM PUnit) :=
  keepsWf_modify _ fun s h => by rw [translate_mem]; exact h

theorem keepsWf_ioMapped (m : Master) (p a : Nat) : KeepsWf (ioMapped m p a) := by
  refine keepsWf_bind keepsWf_get fun s => ?_
  split
  · split
    · exact keepsWf_throw _
    · exact keepsWf_pure _
  · exact keepsWf_pure _

/-- Parts that keep the canonical form keep it together, whether one fails or not. -/
theorem keepsWf_eachPart (l : List (EM (List Byte))) (h : ∀ m ∈ l, KeepsWf m) : KeepsWf (eachPart l) := by
  induction l with
  | nil => exact keepsWf_pure _
  | cons m r ih =>
    intro s hs
    have h1 := h m (by simp) s hs
    have h2 := ih fun x hx => h x (by simp [hx])
    unfold eachPart
    cases e : m s with
    | ok l t =>
      rw [e] at h1
      have h3 := h2 t h1
      cases e2 : eachPart r t with
      | ok l' u => simp only [e2] at h3 ⊢; exact h3
      | error x u => simp only [e2] at h3 ⊢; exact h3
    | error x t =>
      rw [e] at h1
      have h3 := h2 t h1
      cases e2 : eachPart r t with
      | ok l' u => simp only [e2] at h3 ⊢; exact h3
      | error x u => simp only [e2] at h3 ⊢; exact h3

theorem keepsWf_rdPart (m : Master) (p : Nat) (dom : Option Nat) (a n : Nat) : KeepsWf (rdPart m p dom a n) :=
  keepsWf_bind (keepsWf_keysOf m p dom a n) fun ks => keepsWf_bind (keepsWf_ioMapped m p a) fun _ =>
    keepsWf_bind (keepsWf_translate p a n) fun _ => keepsWf_bind (keepsWf_eccRead p a ks) fun _ =>
      keepsWf_bind keepsWf_get fun _ => keepsWf_pure _

/-- A read keeps the canonical form. -/
theorem keepsWf_rd (m : Master) (p : Nat) (dom : Option Nat) (a n : Nat) : KeepsWf (rd m p dom a n) := by
  refine keepsWf_eachPart _ fun x hx => ?_
  obtain ⟨q, _, rfl⟩ := List.mem_map.1 hx
  exact keepsWf_rdPart m p dom q.1 q.2

theorem keepsWf_rdN (m : Master) (p : Nat) (dom : Option Nat) (a n : Nat) : KeepsWf (rdN m p dom a n) :=
  keepsWf_bind (keepsWf_rd m p dom a n) fun _ => keepsWf_pure _

theorem keepsWf_eccWrite (p a : Nat) (ks ws : List Nat) : KeepsWf (eccWrite p a ks ws) := by
  refine keepsWf_bind keepsWf_get fun s => ?_
  split
  · exact keepsWf_bind (keepsWf_modify _ fun _ h => wf_countUnc p _ _ h) fun _ => keepsWf_throw _
  · refine keepsWf_modify _ fun s h => wf_foldl (fixWord p ks) (fun s w h => ?_) _ h
    rw [fixWord_mem]; exact h

theorem keepsWf_wrPart (m : Master) (p : Nat) (dom : Option Nat) (a : Nat) (l : List Byte) : KeepsWf (wrPart m p dom a l) := by
  refine keepsWf_bind (keepsWf_keysOf m p dom a l.length) fun ks => keepsWf_bind (keepsWf_ioMapped m p a) fun _ =>
    keepsWf_bind (keepsWf_translate p a l.length) fun _ => keepsWf_bind (keepsWf_eccWrite p a ks (wordsOf ks)) fun _ =>
      keepsWf_bind (keepsWf_modify _ fun s h => ?_) fun _ => keepsWf_pure _
  rw [injectWords_mem]
  refine wf_foldl (fun s (q : Nat × Byte) => poke q.1 q.2 s) (fun _ q => wf_poke q.1 q.2) _ ?_
  refine wf_foldl (fun s w => if w < 2 ^ 37 then drainWord w s else s) (fun s w h => ?_) _ h
  split
  · exact wf_drainWord w h
  · exact h

/-- A write keeps the canonical form. -/
theorem keepsWf_wr (m : Master) (p : Nat) (dom : Option Nat) (a : Nat) (l : List Byte) : KeepsWf (wr m p dom a l) := by
  refine keepsWf_bind (keepsWf_eachPart _ fun x hx => ?_) fun _ => keepsWf_pure _
  obtain ⟨q, _, rfl⟩ := List.mem_map.1 hx
  exact keepsWf_wrPart m p dom q.1 _

theorem keepsWf_wrN (m : Master) (p : Nat) (dom : Option Nat) (a n v : Nat) : KeepsWf (wrN m p dom a n v) :=
  keepsWf_wr m p dom a (leBytes n v)

/-- A read of an atomic's operand keeps the canonical form. -/
theorem keepsWf_rdAtomic (m : Master) (p : Nat) (dom : Option Nat) (a n : Nat) : KeepsWf (rdAtomic m p dom a n) := by
  refine keepsWf_bind (keepsWf_keysOf m p dom a n) fun ks => keepsWf_bind keepsWf_get fun s => ?_
  split
  · exact keepsWf_bind (keepsWf_modify _ fun _ h => wf_countUnc p a _ h) fun _ => keepsWf_throw _
  · exact keepsWf_rdN m p dom a n

/-- What a finished or stopped operation leaves is in canonical form. -/
theorem wf_runEM {β : Type} {m : EM β} (hm : KeepsWf m) {s : State} (h : Memory.wf s.mem) :
    match runEM m s with
    | .good _ t => Memory.wf t.mem
    | .stop _ t => Memory.wf t.mem := by
  have h1 := hm s h
  unfold runEM
  cases e : m s with
  | ok x t => rw [e] at h1; exact h1
  | error x t => rw [e] at h1; exact h1

/-- A cleared byte reads 0, every other is left alone. -/
theorem mget_filter_mem (f : Nat → Bool) (m : Mem) (k : Nat) :
    mget 0 (m.filter fun q => !f q.1) k = if f k then 0 else mget 0 m k := by
  induction m with
  | nil => simp [mget]
  | cons a r ih =>
    obtain ⟨i, v⟩ := a
    rw [List.filter_cons]
    by_cases e : i = k
    · subst e
      cases hf : f i <;> simp [hf] at ih ⊢ <;> simp [mget, ih]
    · have e' : ¬ k = i := fun h => e h.symm
      cases hf : f i <;>
        simp only [Bool.not_true, Bool.not_false, Bool.false_eq_true, if_false, if_true, mget, if_neg e'] <;> exact ih

end Sys2Proof.Machine
end

