-- ==== Sys2Proof/Laws/Access.lean ====
section
/-!
SUPPORT. What a permitted access that meets no error does, and how a command of a mailbox begins and ends.
-/
namespace Sys2Proof.Machine

/-! ### Accesses that meet no error -/

theorem keysOf_ok {s : State} {m : Master} {p : Nat} {dom : Option Nat} {a n : Nat} {ks : List Nat} (h : Clean s m p dom a n ks) :
    keysOf m p dom a n s = .ok ks s := by
  have h1 := h.2.1
  unfold runEM at h1
  split at h1
  · next e => injection h1 with h2 h3; rw [h2, h3] at e; exact e
  · cases h1

theorem eccRead_ok {s : State} (p : Nat) (ks : List Nat) (a : Nat) (h : ∀ q ∈ ks, mget 0 s.ecc (wordKey q) = 0) :
    eccRead p a ks s = .ok () s := by
  induction ks generalizing a with
  | nil => rfl
  | cons k r ih =>
    have hk : mget 0 s.ecc (wordKey k) = 0 := h k (by simp)
    have hr := ih (a + 1) fun q hq => h q (by simp [hq])
    unfold eccRead
    show EStateM.bind get _ s = _
    simp only [EStateM.bind, get, getThe, MonadStateOf.get, EStateM.get, hk]
    exact hr

/-- One byte more of a checked access. -/
theorem keysOf_succ {s t : State} {m : Master} {p : Nat} {dom : Option Nat} {a n : Nat} {ks : List Nat}
    (h : keysOf m p dom a (n + 1) s = .ok ks t) :
    ∃ k r, chk s m p dom a = .ok k ∧ keysOf m p dom (a + 1) n s = .ok r t ∧ ks = k :: r := by
  unfold keysOf at h
  simp only [bind, EStateM.bind, get, getThe, MonadStateOf.get, EStateM.get] at h
  cases e : chk s m p dom a with
  | ok k =>
    simp only [e] at h
    cases e2 : keysOf m p dom (a + 1) n s with
    | ok r u =>
      simp only [EStateM.bind, e2, pure, EStateM.pure] at h
      cases h
      exact ⟨k, r, rfl, rfl, rfl⟩
    | error x u =>
      simp only [EStateM.bind, e2] at h
      cases h
  | window => simp only [e] at h; cases h
  | owner => simp only [e] at h; cases h
  | ownerN => simp only [e] at h; cases h

/-- A checked access is two checked accesses, one behind the other. -/
theorem keysOf_split {s : State} {m : Master} {p : Nat} {dom : Option Nat} (i : Nat) {a j : Nat} {ks : List Nat}
    (h : keysOf m p dom a (i + j) s = .ok ks s) :
    ∃ k1 k2, ks = k1 ++ k2 ∧ k1.length = i ∧ keysOf m p dom a i s = .ok k1 s ∧ keysOf m p dom (a + i) j s = .ok k2 s := by
  induction i generalizing a ks with
  | zero => exact ⟨[], ks, rfl, rfl, rfl, by simpa using h⟩
  | succ i ih =>
    rw [show i + 1 + j = i + j + 1 by omega] at h
    obtain ⟨k, r, hk, hr, rfl⟩ := keysOf_succ h
    obtain ⟨k1, k2, rfl, hl, h1, h2⟩ := ih hr
    refine ⟨k :: k1, k2, rfl, by simp [hl], ?_, by rw [show a + (i + 1) = a + 1 + i by omega]; exact h2⟩
    unfold keysOf
    simp only [bind, EStateM.bind, get, getThe, MonadStateOf.get, EStateM.get, hk, h1, pure, EStateM.pure]

/-- A checked access of one byte or more is one of its first byte. -/
theorem chk_of_keysOf {s t : State} {m : Master} {p : Nat} {dom : Option Nat} {a n : Nat} {ks : List Nat}
    (h : keysOf m p dom a n s = .ok ks t) (hn : n ≠ 0) : ∃ k ∈ ks, chk s m p dom a = .ok k := by
  obtain ⟨n, rfl⟩ := Nat.exists_eq_succ_of_ne_zero hn
  obtain ⟨k, r, hk, _, rfl⟩ := keysOf_succ h
  exact ⟨k, by simp, hk⟩

/-- An address of host memory has a key there. -/
theorem chk_host {s : State} {m : Master} {p : Nat} {dom : Option Nat} {a k : Nat} (h : chk s m p dom a = .ok k)
    (hr : regionOf a = some 3) : 2 ^ 52 ≤ k := by
  unfold chk at h
  rw [hr] at h
  dsimp only at h
  split at h
  · unfold noWindow at h; split at h <;> cases h
  · cases h
    unfold hostKey
    omega

/-- Outside host memory there is nothing to translate. -/
theorem translate_clean {s : State} {m : Master} {p : Nat} {dom : Option Nat} {a n : Nat} {ks : List Nat}
    (h : keysOf m p dom a n s = .ok ks s) (hk : ∀ q ∈ ks, q < 2 ^ 52) : translate p a n s = s := by
  unfold translate
  by_cases hn : n = 0
  · rw [if_pos (by simp [hn])]
  · obtain ⟨k, hm, hc⟩ := chk_of_keysOf h hn
    rw [if_pos]
    refine .inl fun e => ?_
    have := chk_host hc e
    have := hk k hm
    omega

theorem ioMapped_clean {s : State} {m : Master} (h : ∀ d, m ≠ .io d) (p a : Nat) : ioMapped m p a s = .ok () s := by
  unfold ioMapped
  simp only [bind, EStateM.bind, get, getThe, MonadStateOf.get, EStateM.get]
  cases m with
  | io d => exact absurd rfl (h d)
  | _ => rfl

theorem Clean.left {s : State} {m : Master} {p : Nat} {dom : Option Nat} {a i j : Nat} {ks : List Nat}
    (h : Clean s m p dom a (i + j) ks) :
    ∃ k1 k2, ks = k1 ++ k2 ∧ k1.length = i ∧ Clean s m p dom a i k1 ∧ Clean s m p dom (a + i) j k2 := by
  obtain ⟨k1, k2, rfl, hl, h1, h2⟩ := keysOf_split i (keysOf_ok h)
  refine ⟨k1, k2, rfl, hl, ⟨h.1, ?_, fun q hq => h.2.2 q (by simp [hq])⟩, ⟨h.1, ?_, fun q hq => h.2.2 q (by simp [hq])⟩⟩
  · unfold runEM; rw [h1]
  · unfold runEM; rw [h2]

theorem rdPart_clean {s : State} {m : Master} {p : Nat} {dom : Option Nat} {a n : Nat} {ks : List Nat} (h : Clean s m p dom a n ks) :
    rdPart m p dom a n s = .ok (ks.map (peek s)) s := by
  have h1 := keysOf_ok h
  have h2 := eccRead_ok p ks a fun q hq => (h.2.2 q hq).2.1
  have h3 := translate_clean h1 fun q hq => (h.2.2 q hq).1
  have h4 := ioMapped_clean (s := s) h.1 p a
  unfold rdPart
  simp only [bind, EStateM.bind, h1, h4, modify, modifyGet, MonadStateOf.modifyGet, EStateM.modifyGet, h3, h2, get, getThe,
    MonadStateOf.get, EStateM.get, pure, EStateM.pure]

theorem eachPart_one {m : EM (List Byte)} {s t : State} {l : List Byte} (h : m s = .ok l t) : eachPart [m] s = .ok l t := by
  simp only [eachPart, h]
  rw [show (pure [] : EM (List Byte)) t = .ok [] t from rfl]
  simp

theorem eachPart_cons {m : EM (List Byte)} {r : List (EM (List Byte))} {s t u : State} {l l' : List Byte} (h : m s = .ok l t)
    (hr : eachPart r t = .ok l' u) : eachPart (m :: r) s = .ok (l ++ l') u := by
  simp only [eachPart, h, hr]

theorem rdParts_clean {s : State} {m : Master} {p : Nat} {dom : Option Nat} (f : Nat) {a n : Nat} {ks : List Nat}
    (h : Clean s m p dom a n ks) :
    eachPart ((partsOf f a n).map fun q => rdPart m p dom q.1 q.2) s = .ok (ks.map (peek s)) s := by
  induction f generalizing a n ks with
  | zero => exact eachPart_one (rdPart_clean h)
  | succ f ih =>
    unfold partsOf
    dsimp only
    split
    · exact eachPart_one (rdPart_clean h)
    · next hn =>
      rw [show n = (granule a - a % granule a) + (n - (granule a - a % granule a)) by omega] at h
      obtain ⟨k1, k2, rfl, _, h1, h2⟩ := h.left
      rw [List.map_append]
      exact eachPart_cons (rdPart_clean h1) (ih h2)

/-- A read without errors gives the bytes of its keys and changes nothing. -/
theorem rd_clean {s : State} {m : Master} {p : Nat} {dom : Option Nat} {a n : Nat} {ks : List Nat} (h : Clean s m p dom a n ks) :
    runEM (rd m p dom a n) s = .good (ks.map (peek s)) s := by
  unfold runEM rd
  rw [rdParts_clean n h]

/-- Likewise as a number. -/
theorem rdN_clean {s : State} {m : Master} {p : Nat} {dom : Option Nat} {a n : Nat} {ks : List Nat} (h : Clean s m p dom a n ks) :
    runEM (rdN m p dom a n) s = .good (valAt s ks) s := by
  unfold runEM rdN rd
  simp only [bind, EStateM.bind, rdParts_clean n h]
  rfl

theorem fold_id {β : Type} (f : State → β → State) (s : State) (l : List β) (h : ∀ x ∈ l, f s x = s) : l.foldl f s = s := by
  induction l with
  | nil => rfl
  | cons x r ih => rw [List.foldl_cons, h x (by simp)]; exact ih fun y hy => h y (by simp [hy])

theorem mem_wordsOf {ks : List Nat} {w : Nat} (h : w ∈ wordsOf ks) : ∃ q ∈ ks, w = wordKey q := by
  unfold wordsOf at h
  rw [List.mem_eraseDups] at h
  obtain ⟨q, hq, e⟩ := List.mem_map.1 h
  exact ⟨q, hq, e.symm⟩

/-- Clearing low bits leaves what stands above them. -/
theorem shift_low {k r n : Nat} (h : r ≤ n) : (k - k % 2 ^ r) >>> n = k >>> n := by
  rw [Nat.shiftRight_eq_div_pow, Nat.shiftRight_eq_div_pow]
  obtain ⟨d, rfl⟩ := Nat.exists_eq_add_of_le h
  rw [Nat.pow_add, ← Nat.div_div_eq_div_mul, ← Nat.div_div_eq_div_mul]
  congr 1
  have := Nat.div_add_mod k (2 ^ r)
  have h2 : k - k % 2 ^ r = 2 ^ r * (k / 2 ^ r) := by omega
  rw [h2, Nat.mul_div_cancel_left _ (Nat.two_pow_pos r)]

/-- The first key of a word lies in the bank of its other keys. -/
theorem bankOfKey_wordKey (k : Nat) : bankOfKey (wordKey k) = bankOfKey k := by
  have h (r : Nat) (hr : r ≤ 16) : bankOfKey (k - k % 2 ^ r) = bankOfKey k := by
    unfold bankOfKey bits bitAt
    rw [shift_low (show r ≤ 30 by omega), shift_low (show r ≤ 29 by omega), shift_low (show r ≤ 24 by omega),
      shift_low hr, shift_low (show r ≤ 18 by omega)]
  unfold wordKey
  split
  · split
    · exact h 5 (by omega)
    · exact h 6 (by omega)
  · exact h 6 (by omega)

theorem foldl_poke_inj (l : List (Nat × Byte)) (s : State) : (l.foldl (fun s q => poke q.1 q.2 s) s).inj = s.inj := by
  induction l generalizing s with
  | nil => rfl
  | cons q r ih => rw [List.foldl_cons, ih]; rfl

theorem wrPart_clean {s : State} {m : Master} {p : Nat} {dom : Option Nat} {a : Nat} {l : List Byte} {ks : List Nat}
    (h : Clean s m p dom a l.length ks) :
    wrPart m p dom a l s = .ok [] ((ks.zip l).foldl (fun s q => poke q.1 q.2 s) s) := by
  have h1 := keysOf_ok h
  have h3 := translate_clean h1 fun q hq => (h.2.2 q hq).1
  have h4 := ioMapped_clean (s := s) h.1 p a
  have hw : ∀ w ∈ wordsOf ks, mget 0 s.ecc w = 0 ∧ mget 0 s.inj w = 0 ∧ (bankOf s (bankOfKey w).1 (bankOfKey w).2).staged = [] := by
    intro w hw
    obtain ⟨q, hq, rfl⟩ := mem_wordsOf hw
    have := (h.2.2 q hq).2
    rw [bankOfKey_wordKey]
    exact this
  have hf : (wordsOf ks).find? (fun w => mget 0 s.ecc w == 2 && !covers ks w && memKind w != 2) = none := by
    rw [List.find?_eq_none]
    intro w hx
    rw [(hw w hx).1]
    simp
  have hx : (wordsOf ks).foldl (fixWord p ks) s = s :=
    fold_id _ _ _ fun w hx => by unfold fixWord; rw [if_pos (hw w hx).1]
  have hd : (wordsOf ks).foldl (fun s w => if w < 2 ^ 37 then drainWord w s else s) s = s :=
    fold_id _ _ _ fun w hx => by
      split
      · unfold drainWord; simp [(hw w hx).2.2]
      · rfl
  have hi : ∀ t : State, t.inj = s.inj → injectWords (wordsOf ks) t = t := fun t ht =>
    fold_id _ _ _ fun w hx => by simp [ht, (hw w hx).2.1]
  have he : eccWrite p a ks (wordsOf ks) s = .ok () s := by
    unfold eccWrite
    simp only [bind, EStateM.bind, get, getThe, MonadStateOf.get, EStateM.get, hf]
    exact congrArg (EStateM.Result.ok ()) hx
  unfold wrPart
  simp only [bind, EStateM.bind, h1, h4, modify, modifyGet, MonadStateOf.modifyGet, EStateM.modifyGet, h3, he, pure, EStateM.pure]
  rw [hd, hi _ (foldl_poke_inj _ _)]

/-- What an access checks does not depend on the bytes of memory. -/
theorem keysOf_mem (m : Master) (p : Nat) (dom : Option Nat) (mem : Mem) {s : State} (n : Nat) {a : Nat} {ks : List Nat}
    (h : keysOf m p dom a n s = .ok ks s) : keysOf m p dom a n { s with mem := mem } = .ok ks { s with mem := mem } := by
  induction n generalizing a ks with
  | zero =>
    unfold keysOf at h ⊢
    cases h
    rfl
  | succ n ih =>
    obtain ⟨k, r, hk, hr, rfl⟩ := keysOf_succ h
    have hk' : chk { s with mem := mem } m p dom a = .ok k := hk
    unfold keysOf
    simp only [bind, EStateM.bind, get, getThe, MonadStateOf.get, EStateM.get, hk', ih hr, pure, EStateM.pure]

theorem Clean.withMem {s : State} {m : Master} {p : Nat} {dom : Option Nat} {a n : Nat} {ks : List Nat} (mem : Mem)
    (h : Clean s m p dom a n ks) : Clean { s with mem := mem } m p dom a n ks := by
  refine ⟨h.1, ?_, h.2.2⟩
  unfold runEM
  rw [keysOf_mem m p dom mem n (keysOf_ok h)]

theorem foldl_poke_eq (l : List (Nat × Byte)) (s : State) :
    l.foldl (fun s q => poke q.1 q.2 s) s = { s with mem := (l.foldl (fun s q => poke q.1 q.2 s) s).mem } := by
  induction l generalizing s with
  | nil => rfl
  | cons q r ih => rw [List.foldl_cons, ih]; rfl

theorem partsOf_ge (f a n : Nat) : ∀ q ∈ partsOf f a n, a ≤ q.1 := by
  induction f generalizing a n with
  | zero => intro q hq; simp only [partsOf, List.mem_singleton] at hq; subst hq; exact Nat.le_refl a
  | succ f ih =>
    intro q hq
    unfold partsOf at hq
    dsimp only at hq
    split at hq
    · rw [List.mem_singleton] at hq; subst hq; exact Nat.le_refl a
    · rcases List.mem_cons.1 hq with rfl | hq
      · exact Nat.le_refl _
      · have := ih _ _ q hq; omega

theorem wrParts_clean {m : Master} {p : Nat} {dom : Option Nat} (f : Nat) {s : State} {a : Nat} {l : List Byte} {ks : List Nat}
    (h : Clean s m p dom a l.length ks) :
    ∃ r, eachPart ((partsOf f a l.length).map fun q => wrPart m p dom q.1 ((l.drop (q.1 - a)).take q.2)) s =
      .ok r ((ks.zip l).foldl (fun s q => poke q.1 q.2 s) s) := by
  induction f generalizing s a l ks with
  | zero =>
    refine ⟨[], eachPart_one ?_⟩
    simp only [Nat.sub_self, List.drop_zero, List.take_length]
    exact wrPart_clean h
  | succ f ih =>
    unfold partsOf
    dsimp only
    split
    · refine ⟨[], eachPart_one ?_⟩
      simp only [Nat.sub_self, List.drop_zero, List.take_length]
      exact wrPart_clean h
    · next hn =>
      generalize granule a - a % granule a = g at *
      have hg : l.length = g + (l.length - g) := by omega
      rw [hg] at h
      obtain ⟨k1, k2, rfl, hl, h1, h2⟩ := h.left
      have ht : (l.take g).length = g := by simp; omega
      have hd : (l.drop g).length = l.length - g := by simp
      have e1 := wrPart_clean (l := l.take g) (ks := k1) (by rw [ht]; exact h1)
      have h3 : Clean ((k1.zip (l.take g)).foldl (fun s q => poke q.1 q.2 s) s) m p dom (a + g) (l.drop g).length k2 := by
        rw [foldl_poke_eq, hd]
        exact h2.withMem _
      obtain ⟨r, e2⟩ := ih h3
      refine ⟨[] ++ r, ?_⟩
      have hz : (k1 ++ k2).zip l = k1.zip (l.take g) ++ k2.zip (l.drop g) := by
        conv => lhs; rw [← List.take_append_drop g l]
        exact List.zip_append (by rw [hl, ht])
      rw [hz, List.foldl_append, List.map_cons]
      refine eachPart_cons (by simpa using e1) ?_
      rw [hd] at e2
      rw [← e2]
      congr 1
      refine List.map_congr_left fun q hq => ?_
      have := partsOf_ge f (a + g) _ q hq
      rw [List.drop_drop]
      congr 3
      omega

/-- A write without errors stores its bytes at its keys and changes nothing else. -/
theorem wr_clean {s : State} {m : Master} {p : Nat} {dom : Option Nat} {a : Nat} {l : List Byte} {ks : List Nat}
    (h : Clean s m p dom a l.length ks) :
    runEM (wr m p dom a l) s = .good () ((ks.zip l).foldl (fun s q => poke q.1 q.2 s) s) := by
  obtain ⟨r, e⟩ := wrParts_clean l.length h
  unfold runEM wr
  simp only [bind, EStateM.bind, e]
  rfl

/-- Bytes that no key of a list names stay. -/
theorem mget_foldl_poke_ne (l : List (Nat × Byte)) (k : Nat) (s : State) (h : ∀ q ∈ l, q.1 ≠ k) :
    mget 0 (l.foldl (fun s q => poke q.1 q.2 s) s).mem k = mget 0 s.mem k := by
  induction l generalizing s with
  | nil => rfl
  | cons q r ih =>
    rw [List.foldl_cons, ih _ fun x hx => h x (by simp [hx]), mget_poke, if_neg fun e => h q (by simp) e.symm]

/-- What a write without errors leaves is the store of its bytes. -/
theorem stored_foldl_poke (s : State) (ks : List Nat) (l : List Byte) :
    Stored s ((ks.zip l).foldl (fun s q => poke q.1 q.2 s) s) ks l :=
  ⟨rfl, fun k hk => mget_foldl_poke_ne _ k s fun _ hq e => hk (e ▸ (List.of_mem_zip hq).1)⟩

theorem wf_foldl_poke {s : State} (l : List (Nat × Byte)) (h : Memory.wf s.mem) :
    Memory.wf (l.foldl (fun s q => poke q.1 q.2 s) s).mem :=
  wf_foldl (fun s (q : Nat × Byte) => poke q.1 q.2 s) (fun _ q => wf_poke q.1 q.2) _ h

/-! ### Commands of a mailbox -/

/-- The command that firmware may begin runs, with its mark set. -/
theorem cmdEvent_begins {s : State} {f op : Nat} {c : Cmd} (h : Begins s f op c) (run : Cmd → State → State) :
    cmdEvent f op run s = .next (run c (startCmd f c s)) := by
  unfold cmdEvent
  rw [if_neg (by have := h.1; omega), h.2]

/-- The command stands in its queue. -/
theorem nextCmd_mem {s : State} {f op : Nat} {c : Cmd} (h : nextCmd s f op = some c) : c ∈ (mbxOf s f).cmds := by
  unfold nextCmd at h
  dsimp only at h
  split at h
  · cases h
  · split at h
    · cases h
    · next c' e =>
      have := List.mem_of_find?_eq_some e
      split at h
      · cases h
      · split at h
        · cases h
        · cases h; exact this

theorem mbxOf_startCmd (s : State) (f : Nat) (c : Cmd) :
    mbxOf (startCmd f c s) f =
      { mbxOf s f with cmds := (mbxOf s f).cmds.map fun x => if x.seq = c.seq then { x with started := true } else x } := by
  unfold startCmd modMbx mbxOf
  exact mget_mset_eq _ _ _ _

theorem mbxOf_startCmd_ne (s : State) {f g : Nat} (c : Cmd) (h : g ≠ f) : mbxOf (startCmd f c s) g = mbxOf s g := by
  unfold startCmd modMbx mbxOf
  exact mget_mset_ne _ _ _ h

theorem mbxOf_addDue (d : Due) (f g : Nat) (F : Mbx → Mbx) (s : State) :
    mbxOf (addDue d (modMbx f F s)) g = if g = f then F (mbxOf s f) else mbxOf s g := by
  unfold addDue modMbx mbxOf
  exact mget_mset _ _ _ _ _

theorem addDue_due (d : Due) (f : Nat) (F : Mbx → Mbx) (s : State) : (addDue d (modMbx f F s)).due = s.due ++ [d] := rfl

/-- What begins and ends at once has its record due, and no other mailbox changes. -/
theorem ends_endCmd {s : State} {f op : Nat} {c : Cmd} (h : Begins s f op c) (status detail rlen : Nat) :
    Ends s (endCmd f c status detail rlen (startCmd f c s)) f c status detail rlen := by
  have hm := nextCmd_mem h.2
  have ho : isOpen (startCmd f c s) f c.seq = true := by
    unfold isOpen
    rw [mbxOf_startCmd]
    simp only [List.any_eq_true, List.mem_map]
    exact ⟨_, ⟨c, hm, rfl⟩, by simp⟩
  have hw : ∀ t : State, t.mbx = (startCmd f c s).mbx → t.due = s.due → t.parts = s.parts → t.dregs = s.dregs →
      t.variant = s.variant → Ends s (dueCmd f c status detail rlen t) f c status detail rlen := by
    intro t h1 h2 h3 h4 h5
    have hmb : ∀ g, mbxOf t g = mbxOf (startCmd f c s) g := fun g => by unfold mbxOf; rw [h1]
    have ht : isOpen t f c.seq = true := by unfold isOpen; rw [hmb]; exact ho
    have hisl : fwIsland t f = fwIsland s f := by
      unfold fwIsland mbxPort mgmtIsland dieOf perDie nIoDies part dreg; rw [h3, h4, h5]
    unfold dueCmd
    simp only [ht, Bool.not_true, Bool.false_eq_true, if_false]
    refine ⟨?_, ?_, ?_, ?_⟩
    · rw [addDue_due, h2, hisl]
    · intro g hg
      rw [mbxOf_addDue, if_neg hg, hmb, mbxOf_startCmd_ne s c hg]
    · rw [mbxOf_addDue, if_pos rfl, hmb, mbxOf_startCmd]
    · rw [mbxOf_addDue, if_pos rfl, hmb, mbxOf_startCmd, List.map_map]
      apply List.map_congr_left
      intro x _
      by_cases e : x.seq = c.seq <;> simp [Function.comp, e]
  unfold endCmd endCmdAt
  dsimp only
  split
  · exact hw _ rfl rfl rfl rfl rfl
  · exact hw _ rfl rfl rfl rfl rfl

end Sys2Proof.Machine
end

