-- ==== Sys2Proof/Laws/Cell.lean ====
section
/-!
SUPPORT. What an instruction of a compute cell does once its word is fetched.
-/
namespace Sys2Proof.Machine

/-- A fetched word of the command's operation runs its body. -/
theorem cellOp_runs {s : State} {c k x op : Nat} {w : CellWord} (h : Fetches s c k x op w) (body : CellWord → State → State) :
    cellOp op c k x body s = .next (body w s) := by
  obtain ⟨h1, h2, h3, h4, h5, h6, h7, h8, h9⟩ := h
  have h5' : mget false (cellOf s c k).pmw ((cellOf s c k).ctxOf x).pc = true := h5
  have h6' : mget 0 (cellOf s c k).pmEcc ((cellOf s c k).ctxOf x).pc = 0 := h6
  have h7' : cellWord (mget 0 (cellOf s c k).pm ((cellOf s c k).ctxOf x).pc) = w := h7
  unfold cellOp
  rw [if_neg (by omega), if_neg (by simp [h4])]
  simp only [h5', h6', h7', h8, h9]
  simp

theorem cellOf_modCell (c k : Nat) (f : Cell → Cell) (s : State) : cellOf (modCell c k f s) c k = f (cellOf s c k) := by
  simp [cellOf, modCell]

theorem onlyCell_modCell (c k : Nat) (f : Cell → Cell) (s : State) : OnlyCell s (modCell c k f s) c k :=
  ⟨rfl, fun n h => by simp only [modCell]; exact mget_mset_ne _ _ _ h⟩

theorem modCell_modCell (c k : Nat) (f g : Cell → Cell) (s : State) :
    mget {} (modCell c k g (modCell c k f s)).cells (32 * c + k) = g (f (cellOf s c k)) := by
  simp [modCell, cellOf]

theorem OnlyCell.trans {s t u : State} {c k : Nat} (h : OnlyCell s t c k) (g : OnlyCell t u c k) : OnlyCell s u c k := by
  obtain ⟨h1, h2⟩ := h
  obtain ⟨g1, g2⟩ := g
  refine ⟨?_, fun n hn => (g2 n hn).trans (h2 n hn)⟩
  rw [← h1, ← g1]

theorem ctxOf_modCtx_eq (v : Cell) (x : Nat) (f : Ctx → Ctx) : (v.modCtx x f).ctxOf x = f (v.ctxOf x) := by
  simp [Cell.modCtx, Cell.ctxOf]

theorem ctxOf_modCtx_ne (v : Cell) {x y : Nat} (f : Ctx → Ctx) (h : y ≠ x) : (v.modCtx x f).ctxOf y = v.ctxOf y := by
  simp only [Cell.modCtx, Cell.ctxOf]; exact mget_mset_ne _ _ _ h

/-- A context after it has issued: within an instruction that issued before, it keeps a granted STEP. -/
def Ctx.afterIssue (v : Ctx) : Ctx := { v with st := .ready, step := v.step && v.within, pushed := 0 }

theorem afterIssue_within {v : Ctx} (h : v.within = true) : { v with st := .ready, pushed := 0 } = v.afterIssue := by
  simp [Ctx.afterIssue, h]

theorem afterIssue_not_within {v : Ctx} (h : v.within = false) : { v with st := .ready, step := false } = v.afterIssue := by
  have hp : v.pushed = 0 := by
    unfold Ctx.within at h
    simpa using (Bool.or_eq_false_iff.1 h).2
  simp [Ctx.afterIssue, h, hp]

/-- The cell of a context that has issued: the context is ready, and the cell differs in no more than its counters and its last
context. -/
theorem cellOf_issued (c k x : Nat) (s : State) :
    ∃ l n, cellOf (issued c k x s) c k =
      { (cellOf s c k).modCtx x Ctx.afterIssue with last := l, cnt := n } ∧ ∀ i, i ≠ 11 → mget 0 n i = mget 0 (cellOf s c k).cnt i := by
  by_cases h : (ctxOf s c k x).within = true
  · refine ⟨(cellOf s c k).last, (cellOf s c k).cnt, ?_, fun _ _ => rfl⟩
    unfold issued
    rw [if_pos h]
    unfold modCtx
    rw [cellOf_modCell]
    unfold Cell.modCtx
    rw [← afterIssue_within (v := (cellOf s c k).ctxOf x) h]
  · have hf : (ctxOf s c k x).within = false := by simpa using h
    refine ⟨x, mset 0 (cellOf s c k).cnt 11 (satAdd 32 (mget 0 (cellOf s c k).cnt 11) 1), ?_, fun i hi => mget_mset_ne 0 _ _ hi⟩
    unfold issued bumpCell
    rw [if_neg h, cellOf_modCell, cellOf_modCell]
    unfold Cell.modCtx
    rw [← afterIssue_not_within (v := (cellOf s c k).ctxOf x) hf]

theorem onlyCell_issued (c k x : Nat) (s : State) : OnlyCell s (issued c k x s) c k := by
  unfold issued
  split
  · exact onlyCell_modCell c k _ s
  · exact (onlyCell_modCell c k _ s).trans (onlyCell_modCell c k _ _)

/-- Issuing and then changing the context touches nothing but the context. -/
theorem onlyCtx_issued (c k x : Nat) (f : Ctx → Ctx) (s : State) : OnlyCtx s (modCtx c k x f (issued c k x s)) c k x := by
  have e : cellOf (modCtx c k x f (issued c k x s)) c k = Cell.modCtx x f (cellOf (issued c k x s) c k) := cellOf_modCell ..
  obtain ⟨l, n, h1, h2⟩ := cellOf_issued c k x s
  refine ⟨(onlyCell_issued c k x s).trans (onlyCell_modCell c k _ _), ?_, ?_, ?_⟩
  · rw [e, h1]; rfl
  · intro i hi
    rw [e, h1]
    exact h2 i hi
  · intro y hy
    unfold ctxOf
    rw [e, h1, ctxOf_modCtx_ne _ _ hy]
    show (Cell.modCtx x Ctx.afterIssue (cellOf s c k)).ctxOf y = _
    exact ctxOf_modCtx_ne (cellOf s c k) _ hy

theorem ctxOf_issued (c k x : Nat) (f : Ctx → Ctx) (s : State) :
    ctxOf (modCtx c k x f (issued c k x s)) c k x = f (ctxOf s c k x).afterIssue := by
  have e : cellOf (modCtx c k x f (issued c k x s)) c k = Cell.modCtx x f (cellOf (issued c k x s) c k) := cellOf_modCell ..
  obtain ⟨l, n, h1, _⟩ := cellOf_issued c k x s
  unfold ctxOf
  rw [e, ctxOf_modCtx_eq, h1]
  exact congrArg f (ctxOf_modCtx_eq (cellOf s c k) x Ctx.afterIssue)

theorem onlyCtx_modCtx {s t : State} {c k x : Nat} (f : Ctx → Ctx) (h : OnlyCtx s t c k x) :
    OnlyCtx s (modCtx c k x f t) c k x := by
  obtain ⟨h1, h2, h3, h4⟩ := h
  have e : cellOf (modCtx c k x f t) c k = Cell.modCtx x f (cellOf t c k) := cellOf_modCell ..
  refine ⟨h1.trans (onlyCell_modCell c k _ _), ?_, ?_, ?_⟩
  · rw [e]; exact h2
  · intro i hi; rw [e]; exact h3 i hi
  · intro y hy
    unfold ctxOf at h4 ⊢
    rw [e, ctxOf_modCtx_ne _ _ hy]
    exact h4 y hy

theorem ctxOf_modCtx (c k x : Nat) (f : Ctx → Ctx) (s : State) : ctxOf (modCtx c k x f s) c k x = f (ctxOf s c k x) := by
  unfold ctxOf modCtx
  rw [cellOf_modCell, ctxOf_modCtx_eq]

theorem ctxNext_eq {s : State} {c k x : Nat} {f : Ctx → Ctx} (hf : ∀ v, (f v).pc = v.pc) (h : (ctxOf s c k x).pc ≠ 2047) :
    ctxNext c k x f s = modCtx c k x (fun v => { v with pc := (ctxOf s c k x).pc + 1 }) (modCtx c k x f (issued c k x s)) := by
  have hp : (ctxOf (modCtx c k x f (issued c k x s)) c k x).pc = (ctxOf s c k x).pc := by rw [ctxOf_issued, hf]; rfl
  unfold ctxNext advance
  rw [hp, if_neg h]
  rfl

/-- An instruction that goes on at the next word changes its context and nothing else. -/
theorem ctxNext_spec {s : State} {c k x : Nat} {f : Ctx → Ctx} (hf : ∀ v, (f v).pc = v.pc) (h : (ctxOf s c k x).pc ≠ 2047) :
    OnlyCtx s (ctxNext c k x f s) c k x ∧
    ctxOf (ctxNext c k x f s) c k x =
      { f (ctxOf s c k x).afterIssue with pc := (ctxOf s c k x).pc + 1 } := by
  rw [ctxNext_eq hf h]
  exact ⟨onlyCtx_modCtx _ (onlyCtx_issued ..), by rw [ctxOf_modCtx, ctxOf_issued]⟩

theorem reg_setReg (v : Ctx) (d j : Nat) (w : W64) : (v.setReg d w).reg j = if j = d ∧ j ≠ 0 then w else v.reg j := by
  unfold Ctx.setReg Ctx.reg
  by_cases hj : j = 0
  · simp [hj]
  · by_cases hd : d = 0
    · rw [if_pos hd, if_neg hj, if_neg (by omega)]
    · rw [if_neg hd, if_neg hj]
      by_cases e : j = d
      · subst e; simp [hj]
      · rw [if_neg (fun q => e q.1), if_neg hj]
        exact mget_mset_ne 0 v.g w e

theorem late_setReg (v : Ctx) (d j : Nat) (w : W64) :
    mget none (v.setReg d w).late j = if j = d ∧ j ≠ 0 then none else mget none v.late j := by
  unfold Ctx.setReg
  by_cases hd : d = 0
  · rw [if_pos hd, if_neg (by omega)]
  · rw [if_neg hd]
    by_cases e : j = d
    · rw [if_pos ⟨e, by omega⟩, e]; exact mget_merase_eq none d v.late
    · rw [if_neg fun q => e q.1]; exact mget_merase_ne none v.late e

theorem late_setLate (v : Ctx) (d j : Nat) (w : W64) :
    mget none (v.setLate d w).late j = if j = d ∧ j ≠ 0 then some w else mget none v.late j := by
  unfold Ctx.setLate
  by_cases hd : d = 0
  · rw [if_pos hd, if_neg (by omega)]
  · rw [if_neg hd]
    by_cases e : j = d
    · rw [if_pos ⟨e, by omega⟩, e]; exact mget_mset_eq none v.late d (some w)
    · rw [if_neg fun q => e q.1]; exact mget_mset_ne none v.late (some w) e

theorem reg_setLate (v : Ctx) (d j : Nat) (w : W64) : (v.setLate d w).reg j = v.reg j := by
  unfold Ctx.setLate; split <;> rfl

theorem setLate_pc (v : Ctx) (d : Nat) (w : W64) : (v.setLate d w).pc = v.pc := by unfold Ctx.setLate; split <;> rfl

theorem setLate_st (v : Ctx) (d : Nat) (w : W64) : (v.setLate d w).st = v.st := by unfold Ctx.setLate; split <;> rfl

theorem setReg_pc (v : Ctx) (d : Nat) (w : W64) : (v.setReg d w).pc = v.pc := by unfold Ctx.setReg; split <;> rfl

theorem setReg_st (v : Ctx) (d : Nat) (w : W64) : (v.setReg d w).st = v.st := by unfold Ctx.setReg; split <;> rfl

/-- A register after the results on their way have returned: the 31 that a result can be for (R142). -/
theorem reg_land (v : Ctx) (j : Nat) (h : j < 32) (h0 : j ≠ 0) : v.land.reg j = (mget none v.late j).getD (v.reg j) := by
  have key : ∀ (l : List Nat) (g : SMap W64), l.Nodup →
      mget 0 (l.foldl (fun g i => match mget none v.late i with | some w => mset 0 g i w | none => g) g) j =
        if j ∈ l then (mget none v.late j).getD (mget 0 g j) else mget 0 g j := by
    intro l
    induction l with
    | nil => intro g _; simp
    | cons i r ih =>
      intro g hn
      obtain ⟨h1, h2⟩ := List.nodup_cons.1 hn
      rw [List.foldl_cons, ih _ h2]
      by_cases e : j = i
      · subst e
        simp only [h1, if_false, List.mem_cons, true_or, if_true]
        cases mget none v.late j <;> simp
      · have hk : mget 0 (match mget none v.late i with | some w => mset 0 g i w | none => g) j = mget 0 g j := by
          cases mget none v.late i with
          | none => rfl
          | some w => exact mget_mset_ne 0 g w e
        rw [hk]; simp [e]
  unfold Ctx.reg Ctx.land
  rw [if_neg h0, if_neg h0]
  refine (key (upto 32) v.g (by decide)).trans (if_pos ?_)
  unfold upto
  exact List.mem_range.2 h

/-- An instruction that writes a register and goes on. -/
theorem writes_ctxNext {s : State} {c k x d : Nat} {f : Ctx → W64} {r : W64} (h : (ctxOf s c k x).pc ≠ 2047)
    (hf : f (ctxOf s c k x).afterIssue = r) :
    Writes s (.next (ctxNext c k x (fun v => v.setReg d (f v)) s)) c k x d r := by
  obtain ⟨h1, h2⟩ := ctxNext_spec (s := s) (c := c) (k := k) (x := x) (f := fun v => v.setReg d (f v)) (fun v => setReg_pc ..) h
  refine ⟨_, rfl, h1, ⟨fun j => ?_, fun j => ?_⟩, ?_, ?_⟩ <;> rw [h2]
  · exact (reg_setReg ..).trans (by rw [hf]; rfl)
  · exact late_setReg ..
  · exact setReg_st ..

/-- An instruction whose result sets out for a register, and which goes on. -/
theorem returns_ctxNext {s : State} {c k x d : Nat} {f : Ctx → W64} {r : W64} (h : (ctxOf s c k x).pc ≠ 2047)
    (hf : f (ctxOf s c k x).afterIssue = r) :
    Returns s (.next (ctxNext c k x (fun v => v.setLate d (f v)) s)) c k x d r := by
  obtain ⟨h1, h2⟩ := ctxNext_spec (s := s) (c := c) (k := k) (x := x) (f := fun v => v.setLate d (f v)) (fun v => setLate_pc ..) h
  refine ⟨_, rfl, h1, ⟨fun j => ?_, fun j => ?_⟩, ?_, ?_⟩ <;> rw [h2]
  · exact reg_setLate ..
  · exact (late_setLate ..).trans (by rw [hf]; rfl)
  · exact setLate_st ..

/-- An instruction that only goes on at the next word. -/
theorem goesTo_ctxNext {s : State} {c k x : Nat} (h : (ctxOf s c k x).pc ≠ 2047) :
    GoesTo s (.next (ctxNext c k x id s)) c k x ((ctxOf s c k x).pc + 1) := by
  obtain ⟨h1, h2⟩ := ctxNext_spec (s := s) (c := c) (k := k) (x := x) (f := id) (fun _ => rfl) h
  refine ⟨_, rfl, h1, ⟨fun j => ?_, ?_⟩, ?_, ?_⟩ <;> rw [h2] <;> rfl

/-- A wait whose condition does not hold. -/
theorem stays_ctxStay (s : State) (c k x : Nat) : Stays s (.next (ctxStay c k x s)) c k x := by
  unfold ctxStay
  refine ⟨_, rfl, onlyCtx_issued .., ⟨fun j => ?_, ?_⟩, ?_, ?_⟩ <;> rw [ctxOf_issued] <;> rfl

end Sys2Proof.Machine
end

