-- ==== Sys2Proof/Laws/State.lean ====
section
/-!
SUPPORT. What the updates of the state leave alone, field by field, and what a read gives after an update.
-/
namespace Sys2Proof.Machine

/-! ### modClu -/

section
variable (c : Nat) (f : Cluster → Cluster) (s : State)

@[simp] theorem modClu_cells : (modClu c f s).cells = s.cells := rfl
@[simp] theorem modClu_banks : (modClu c f s).banks = s.banks := rfl
@[simp] theorem modClu_parts : (modClu c f s).parts = s.parts := rfl
@[simp] theorem modClu_tasks : (modClu c f s).tasks = s.tasks := rfl
@[simp] theorem modClu_reqs : (modClu c f s).reqs = s.reqs := rfl
@[simp] theorem modClu_reports : (modClu c f s).reports = s.reports := rfl
@[simp] theorem modClu_due : (modClu c f s).due = s.due := rfl
@[simp] theorem modClu_latches : (modClu c f s).latches = s.latches := rfl
@[simp] theorem modClu_dueErr : (modClu c f s).dueErr = s.dueErr := rfl
@[simp] theorem modClu_mem : (modClu c f s).mem = s.mem := rfl
@[simp] theorem modClu_ecc : (modClu c f s).ecc = s.ecc := rfl
@[simp] theorem modClu_inj : (modClu c f s).inj = s.inj := rfl
@[simp] theorem modClu_srGen : (modClu c f s).srGen = s.srGen := rfl
@[simp] theorem modClu_dregs : (modClu c f s).dregs = s.dregs := rfl
@[simp] theorem modClu_batches : (modClu c f s).batches = s.batches := rfl
@[simp] theorem modClu_links : (modClu c f s).links = s.links := rfl
@[simp] theorem modClu_mbx : (modClu c f s).mbx = s.mbx := rfl
@[simp] theorem modClu_netq : (modClu c f s).netq = s.netq := rfl
@[simp] theorem modClu_chorus : (modClu c f s).chorus = s.chorus := rfl
@[simp] theorem modClu_moves : (modClu c f s).moves = s.moves := rfl
@[simp] theorem modClu_ans : (modClu c f s).ans = s.ans := rfl
@[simp] theorem modClu_sent : (modClu c f s).sent = s.sent := rfl
@[simp] theorem modClu_pwr : (modClu c f s).pwr = s.pwr := rfl
@[simp] theorem modClu_variant : (modClu c f s).variant = s.variant := rfl
@[simp] theorem modClu_stage : (modClu c f s).stage = s.stage := rfl
@[simp] theorem modClu_staging : (modClu c f s).staging = s.staging := rfl
@[simp] theorem modClu_outcome : (modClu c f s).outcome = s.outcome := rfl
@[simp] theorem modClu_dfl : (modClu c f s).dfl = s.dfl := rfl
@[simp] theorem modClu_bad : (modClu c f s).bad = s.bad := rfl
@[simp] theorem modClu_chanSlot : (modClu c f s).chanSlot = s.chanSlot := rfl
@[simp] theorem modClu_repair : (modClu c f s).repair = s.repair := rfl
@[simp] theorem modClu_now : (modClu c f s).now = s.now := rfl
@[simp] theorem modClu_fresh : (modClu c f s).fresh = s.fresh := rfl
@[simp] theorem modClu_hostCfg : (modClu c f s).hostCfg = s.hostCfg := rfl
@[simp] theorem modClu_hostLnk : (modClu c f s).hostLnk = s.hostLnk := rfl
@[simp] theorem modClu_atc : (modClu c f s).atc = s.atc := rfl
@[simp] theorem modClu_ioSlots : (modClu c f s).ioSlots = s.ioSlots := rfl
@[simp] theorem modClu_complLog : (modClu c f s).complLog = s.complLog := rfl
@[simp] theorem modClu_sensors : (modClu c f s).sensors = s.sensors := rfl
@[simp] theorem modClu_pending : (modClu c f s).pending = s.pending := rfl

end

/-! ### modCell -/

section
variable (c k : Nat) (f : Cell → Cell) (s : State)

@[simp] theorem modCell_banks : (modCell c k f s).banks = s.banks := rfl
@[simp] theorem modCell_clus : (modCell c k f s).clus = s.clus := rfl
@[simp] theorem modCell_parts : (modCell c k f s).parts = s.parts := rfl
@[simp] theorem modCell_tasks : (modCell c k f s).tasks = s.tasks := rfl
@[simp] theorem modCell_reqs : (modCell c k f s).reqs = s.reqs := rfl
@[simp] theorem modCell_reports : (modCell c k f s).reports = s.reports := rfl
@[simp] theorem modCell_due : (modCell c k f s).due = s.due := rfl
@[simp] theorem modCell_latches : (modCell c k f s).latches = s.latches := rfl
@[simp] theorem modCell_dueErr : (modCell c k f s).dueErr = s.dueErr := rfl
@[simp] theorem modCell_mem : (modCell c k f s).mem = s.mem := rfl
@[simp] theorem modCell_ecc : (modCell c k f s).ecc = s.ecc := rfl
@[simp] theorem modCell_inj : (modCell c k f s).inj = s.inj := rfl
@[simp] theorem modCell_srGen : (modCell c k f s).srGen = s.srGen := rfl
@[simp] theorem modCell_dregs : (modCell c k f s).dregs = s.dregs := rfl
@[simp] theorem modCell_batches : (modCell c k f s).batches = s.batches := rfl
@[simp] theorem modCell_links : (modCell c k f s).links = s.links := rfl
@[simp] theorem modCell_mbx : (modCell c k f s).mbx = s.mbx := rfl
@[simp] theorem modCell_netq : (modCell c k f s).netq = s.netq := rfl
@[simp] theorem modCell_chorus : (modCell c k f s).chorus = s.chorus := rfl
@[simp] theorem modCell_moves : (modCell c k f s).moves = s.moves := rfl
@[simp] theorem modCell_ans : (modCell c k f s).ans = s.ans := rfl
@[simp] theorem modCell_sent : (modCell c k f s).sent = s.sent := rfl
@[simp] theorem modCell_pwr : (modCell c k f s).pwr = s.pwr := rfl
@[simp] theorem modCell_variant : (modCell c k f s).variant = s.variant := rfl
@[simp] theorem modCell_stage : (modCell c k f s).stage = s.stage := rfl
@[simp] theorem modCell_staging : (modCell c k f s).staging = s.staging := rfl
@[simp] theorem modCell_outcome : (modCell c k f s).outcome = s.outcome := rfl
@[simp] theorem modCell_dfl : (modCell c k f s).dfl = s.dfl := rfl
@[simp] theorem modCell_bad : (modCell c k f s).bad = s.bad := rfl
@[simp] theorem modCell_chanSlot : (modCell c k f s).chanSlot = s.chanSlot := rfl
@[simp] theorem modCell_repair : (modCell c k f s).repair = s.repair := rfl
@[simp] theorem modCell_now : (modCell c k f s).now = s.now := rfl
@[simp] theorem modCell_fresh : (modCell c k f s).fresh = s.fresh := rfl
@[simp] theorem modCell_hostCfg : (modCell c k f s).hostCfg = s.hostCfg := rfl
@[simp] theorem modCell_hostLnk : (modCell c k f s).hostLnk = s.hostLnk := rfl
@[simp] theorem modCell_atc : (modCell c k f s).atc = s.atc := rfl
@[simp] theorem modCell_ioSlots : (modCell c k f s).ioSlots = s.ioSlots := rfl
@[simp] theorem modCell_complLog : (modCell c k f s).complLog = s.complLog := rfl
@[simp] theorem modCell_sensors : (modCell c k f s).sensors = s.sensors := rfl
@[simp] theorem modCell_pending : (modCell c k f s).pending = s.pending := rfl

end

/-! ### modCtx -/

section
variable (c k x : Nat) (f : Ctx → Ctx) (s : State)

@[simp] theorem modCtx_banks : (modCtx c k x f s).banks = s.banks := rfl
@[simp] theorem modCtx_clus : (modCtx c k x f s).clus = s.clus := rfl
@[simp] theorem modCtx_parts : (modCtx c k x f s).parts = s.parts := rfl
@[simp] theorem modCtx_tasks : (modCtx c k x f s).tasks = s.tasks := rfl
@[simp] theorem modCtx_reqs : (modCtx c k x f s).reqs = s.reqs := rfl
@[simp] theorem modCtx_reports : (modCtx c k x f s).reports = s.reports := rfl
@[simp] theorem modCtx_due : (modCtx c k x f s).due = s.due := rfl
@[simp] theorem modCtx_latches : (modCtx c k x f s).latches = s.latches := rfl
@[simp] theorem modCtx_dueErr : (modCtx c k x f s).dueErr = s.dueErr := rfl
@[simp] theorem modCtx_mem : (modCtx c k x f s).mem = s.mem := rfl
@[simp] theorem modCtx_ecc : (modCtx c k x f s).ecc = s.ecc := rfl
@[simp] theorem modCtx_inj : (modCtx c k x f s).inj = s.inj := rfl
@[simp] theorem modCtx_srGen : (modCtx c k x f s).srGen = s.srGen := rfl
@[simp] theorem modCtx_dregs : (modCtx c k x f s).dregs = s.dregs := rfl
@[simp] theorem modCtx_batches : (modCtx c k x f s).batches = s.batches := rfl
@[simp] theorem modCtx_links : (modCtx c k x f s).links = s.links := rfl
@[simp] theorem modCtx_mbx : (modCtx c k x f s).mbx = s.mbx := rfl
@[simp] theorem modCtx_netq : (modCtx c k x f s).netq = s.netq := rfl
@[simp] theorem modCtx_chorus : (modCtx c k x f s).chorus = s.chorus := rfl
@[simp] theorem modCtx_moves : (modCtx c k x f s).moves = s.moves := rfl
@[simp] theorem modCtx_ans : (modCtx c k x f s).ans = s.ans := rfl
@[simp] theorem modCtx_sent : (modCtx c k x f s).sent = s.sent := rfl
@[simp] theorem modCtx_pwr : (modCtx c k x f s).pwr = s.pwr := rfl
@[simp] theorem modCtx_variant : (modCtx c k x f s).variant = s.variant := rfl
@[simp] theorem modCtx_stage : (modCtx c k x f s).stage = s.stage := rfl
@[simp] theorem modCtx_staging : (modCtx c k x f s).staging = s.staging := rfl
@[simp] theorem modCtx_outcome : (modCtx c k x f s).outcome = s.outcome := rfl
@[simp] theorem modCtx_dfl : (modCtx c k x f s).dfl = s.dfl := rfl
@[simp] theorem modCtx_bad : (modCtx c k x f s).bad = s.bad := rfl
@[simp] theorem modCtx_chanSlot : (modCtx c k x f s).chanSlot = s.chanSlot := rfl
@[simp] theorem modCtx_repair : (modCtx c k x f s).repair = s.repair := rfl
@[simp] theorem modCtx_now : (modCtx c k x f s).now = s.now := rfl
@[simp] theorem modCtx_fresh : (modCtx c k x f s).fresh = s.fresh := rfl
@[simp] theorem modCtx_hostCfg : (modCtx c k x f s).hostCfg = s.hostCfg := rfl
@[simp] theorem modCtx_hostLnk : (modCtx c k x f s).hostLnk = s.hostLnk := rfl
@[simp] theorem modCtx_atc : (modCtx c k x f s).atc = s.atc := rfl
@[simp] theorem modCtx_ioSlots : (modCtx c k x f s).ioSlots = s.ioSlots := rfl
@[simp] theorem modCtx_complLog : (modCtx c k x f s).complLog = s.complLog := rfl
@[simp] theorem modCtx_sensors : (modCtx c k x f s).sensors = s.sensors := rfl
@[simp] theorem modCtx_pending : (modCtx c k x f s).pending = s.pending := rfl

end

/-! ### modPart -/

section
variable (p : Nat) (f : Part → Part) (s : State)

@[simp] theorem modPart_cells : (modPart p f s).cells = s.cells := rfl
@[simp] theorem modPart_banks : (modPart p f s).banks = s.banks := rfl
@[simp] theorem modPart_clus : (modPart p f s).clus = s.clus := rfl
@[simp] theorem modPart_tasks : (modPart p f s).tasks = s.tasks := rfl
@[simp] theorem modPart_reqs : (modPart p f s).reqs = s.reqs := rfl
@[simp] theorem modPart_reports : (modPart p f s).reports = s.reports := rfl
@[simp] theorem modPart_due : (modPart p f s).due = s.due := rfl
@[simp] theorem modPart_latches : (modPart p f s).latches = s.latches := rfl
@[simp] theorem modPart_dueErr : (modPart p f s).dueErr = s.dueErr := rfl
@[simp] theorem modPart_mem : (modPart p f s).mem = s.mem := rfl
@[simp] theorem modPart_ecc : (modPart p f s).ecc = s.ecc := rfl
@[simp] theorem modPart_inj : (modPart p f s).inj = s.inj := rfl
@[simp] theorem modPart_srGen : (modPart p f s).srGen = s.srGen := rfl
@[simp] theorem modPart_dregs : (modPart p f s).dregs = s.dregs := rfl
@[simp] theorem modPart_batches : (modPart p f s).batches = s.batches := rfl
@[simp] theorem modPart_links : (modPart p f s).links = s.links := rfl
@[simp] theorem modPart_mbx : (modPart p f s).mbx = s.mbx := rfl
@[simp] theorem modPart_netq : (modPart p f s).netq = s.netq := rfl
@[simp] theorem modPart_chorus : (modPart p f s).chorus = s.chorus := rfl
@[simp] theorem modPart_moves : (modPart p f s).moves = s.moves := rfl
@[simp] theorem modPart_ans : (modPart p f s).ans = s.ans := rfl
@[simp] theorem modPart_sent : (modPart p f s).sent = s.sent := rfl
@[simp] theorem modPart_pwr : (modPart p f s).pwr = s.pwr := rfl
@[simp] theorem modPart_variant : (modPart p f s).variant = s.variant := rfl
@[simp] theorem modPart_stage : (modPart p f s).stage = s.stage := rfl
@[simp] theorem modPart_staging : (modPart p f s).staging = s.staging := rfl
@[simp] theorem modPart_outcome : (modPart p f s).outcome = s.outcome := rfl
@[simp] theorem modPart_dfl : (modPart p f s).dfl = s.dfl := rfl
@[simp] theorem modPart_bad : (modPart p f s).bad = s.bad := rfl
@[simp] theorem modPart_chanSlot : (modPart p f s).chanSlot = s.chanSlot := rfl
@[simp] theorem modPart_repair : (modPart p f s).repair = s.repair := rfl
@[simp] theorem modPart_now : (modPart p f s).now = s.now := rfl
@[simp] theorem modPart_fresh : (modPart p f s).fresh = s.fresh := rfl
@[simp] theorem modPart_hostCfg : (modPart p f s).hostCfg = s.hostCfg := rfl
@[simp] theorem modPart_hostLnk : (modPart p f s).hostLnk = s.hostLnk := rfl
@[simp] theorem modPart_atc : (modPart p f s).atc = s.atc := rfl
@[simp] theorem modPart_ioSlots : (modPart p f s).ioSlots = s.ioSlots := rfl
@[simp] theorem modPart_complLog : (modPart p f s).complLog = s.complLog := rfl
@[simp] theorem modPart_sensors : (modPart p f s).sensors = s.sensors := rfl
@[simp] theorem modPart_pending : (modPart p f s).pending = s.pending := rfl

end

/-! ### modTask -/

section
variable (n : Nat) (f : Task → Task) (s : State)

@[simp] theorem modTask_cells : (modTask n f s).cells = s.cells := rfl
@[simp] theorem modTask_banks : (modTask n f s).banks = s.banks := rfl
@[simp] theorem modTask_clus : (modTask n f s).clus = s.clus := rfl
@[simp] theorem modTask_parts : (modTask n f s).parts = s.parts := rfl
@[simp] theorem modTask_reqs : (modTask n f s).reqs = s.reqs := rfl
@[simp] theorem modTask_reports : (modTask n f s).reports = s.reports := rfl
@[simp] theorem modTask_due : (modTask n f s).due = s.due := rfl
@[simp] theorem modTask_latches : (modTask n f s).latches = s.latches := rfl
@[simp] theorem modTask_dueErr : (modTask n f s).dueErr = s.dueErr := rfl
@[simp] theorem modTask_mem : (modTask n f s).mem = s.mem := rfl
@[simp] theorem modTask_ecc : (modTask n f s).ecc = s.ecc := rfl
@[simp] theorem modTask_inj : (modTask n f s).inj = s.inj := rfl
@[simp] theorem modTask_srGen : (modTask n f s).srGen = s.srGen := rfl
@[simp] theorem modTask_dregs : (modTask n f s).dregs = s.dregs := rfl
@[simp] theorem modTask_batches : (modTask n f s).batches = s.batches := rfl
@[simp] theorem modTask_links : (modTask n f s).links = s.links := rfl
@[simp] theorem modTask_mbx : (modTask n f s).mbx = s.mbx := rfl
@[simp] theorem modTask_netq : (modTask n f s).netq = s.netq := rfl
@[simp] theorem modTask_chorus : (modTask n f s).chorus = s.chorus := rfl
@[simp] theorem modTask_moves : (modTask n f s).moves = s.moves := rfl
@[simp] theorem modTask_ans : (modTask n f s).ans = s.ans := rfl
@[simp] theorem modTask_sent : (modTask n f s).sent = s.sent := rfl
@[simp] theorem modTask_pwr : (modTask n f s).pwr = s.pwr := rfl
@[simp] theorem modTask_variant : (modTask n f s).variant = s.variant := rfl
@[simp] theorem modTask_stage : (modTask n f s).stage = s.stage := rfl
@[simp] theorem modTask_staging : (modTask n f s).staging = s.staging := rfl
@[simp] theorem modTask_outcome : (modTask n f s).outcome = s.outcome := rfl
@[simp] theorem modTask_dfl : (modTask n f s).dfl = s.dfl := rfl
@[simp] theorem modTask_bad : (modTask n f s).bad = s.bad := rfl
@[simp] theorem modTask_chanSlot : (modTask n f s).chanSlot = s.chanSlot := rfl
@[simp] theorem modTask_repair : (modTask n f s).repair = s.repair := rfl
@[simp] theorem modTask_now : (modTask n f s).now = s.now := rfl
@[simp] theorem modTask_fresh : (modTask n f s).fresh = s.fresh := rfl
@[simp] theorem modTask_hostCfg : (modTask n f s).hostCfg = s.hostCfg := rfl
@[simp] theorem modTask_hostLnk : (modTask n f s).hostLnk = s.hostLnk := rfl
@[simp] theorem modTask_atc : (modTask n f s).atc = s.atc := rfl
@[simp] theorem modTask_ioSlots : (modTask n f s).ioSlots = s.ioSlots := rfl
@[simp] theorem modTask_complLog : (modTask n f s).complLog = s.complLog := rfl
@[simp] theorem modTask_sensors : (modTask n f s).sensors = s.sensors := rfl
@[simp] theorem modTask_pending : (modTask n f s).pending = s.pending := rfl

end

/-! ### modReq -/

section
variable (r : Nat) (f : Req → Req) (s : State)

@[simp] theorem modReq_cells : (modReq r f s).cells = s.cells := rfl
@[simp] theorem modReq_banks : (modReq r f s).banks = s.banks := rfl
@[simp] theorem modReq_clus : (modReq r f s).clus = s.clus := rfl
@[simp] theorem modReq_parts : (modReq r f s).parts = s.parts := rfl
@[simp] theorem modReq_tasks : (modReq r f s).tasks = s.tasks := rfl
@[simp] theorem modReq_reports : (modReq r f s).reports = s.reports := rfl
@[simp] theorem modReq_due : (modReq r f s).due = s.due := rfl
@[simp] theorem modReq_latches : (modReq r f s).latches = s.latches := rfl
@[simp] theorem modReq_dueErr : (modReq r f s).dueErr = s.dueErr := rfl
@[simp] theorem modReq_mem : (modReq r f s).mem = s.mem := rfl
@[simp] theorem modReq_ecc : (modReq r f s).ecc = s.ecc := rfl
@[simp] theorem modReq_inj : (modReq r f s).inj = s.inj := rfl
@[simp] theorem modReq_srGen : (modReq r f s).srGen = s.srGen := rfl
@[simp] theorem modReq_dregs : (modReq r f s).dregs = s.dregs := rfl
@[simp] theorem modReq_batches : (modReq r f s).batches = s.batches := rfl
@[simp] theorem modReq_links : (modReq r f s).links = s.links := rfl
@[simp] theorem modReq_mbx : (modReq r f s).mbx = s.mbx := rfl
@[simp] theorem modReq_netq : (modReq r f s).netq = s.netq := rfl
@[simp] theorem modReq_chorus : (modReq r f s).chorus = s.chorus := rfl
@[simp] theorem modReq_moves : (modReq r f s).moves = s.moves := rfl
@[simp] theorem modReq_ans : (modReq r f s).ans = s.ans := rfl
@[simp] theorem modReq_sent : (modReq r f s).sent = s.sent := rfl
@[simp] theorem modReq_pwr : (modReq r f s).pwr = s.pwr := rfl
@[simp] theorem modReq_variant : (modReq r f s).variant = s.variant := rfl
@[simp] theorem modReq_stage : (modReq r f s).stage = s.stage := rfl
@[simp] theorem modReq_staging : (modReq r f s).staging = s.staging := rfl
@[simp] theorem modReq_outcome : (modReq r f s).outcome = s.outcome := rfl
@[simp] theorem modReq_dfl : (modReq r f s).dfl = s.dfl := rfl
@[simp] theorem modReq_bad : (modReq r f s).bad = s.bad := rfl
@[simp] theorem modReq_chanSlot : (modReq r f s).chanSlot = s.chanSlot := rfl
@[simp] theorem modReq_repair : (modReq r f s).repair = s.repair := rfl
@[simp] theorem modReq_now : (modReq r f s).now = s.now := rfl
@[simp] theorem modReq_fresh : (modReq r f s).fresh = s.fresh := rfl
@[simp] theorem modReq_hostCfg : (modReq r f s).hostCfg = s.hostCfg := rfl
@[simp] theorem modReq_hostLnk : (modReq r f s).hostLnk = s.hostLnk := rfl
@[simp] theorem modReq_atc : (modReq r f s).atc = s.atc := rfl
@[simp] theorem modReq_ioSlots : (modReq r f s).ioSlots = s.ioSlots := rfl
@[simp] theorem modReq_complLog : (modReq r f s).complLog = s.complLog := rfl
@[simp] theorem modReq_sensors : (modReq r f s).sensors = s.sensors := rfl
@[simp] theorem modReq_pending : (modReq r f s).pending = s.pending := rfl

end

/-! ### modBank -/

section
variable (c b : Nat) (f : Bank → Bank) (s : State)

@[simp] theorem modBank_cells : (modBank c b f s).cells = s.cells := rfl
@[simp] theorem modBank_clus : (modBank c b f s).clus = s.clus := rfl
@[simp] theorem modBank_parts : (modBank c b f s).parts = s.parts := rfl
@[simp] theorem modBank_tasks : (modBank c b f s).tasks = s.tasks := rfl
@[simp] theorem modBank_reqs : (modBank c b f s).reqs = s.reqs := rfl
@[simp] theorem modBank_reports : (modBank c b f s).reports = s.reports := rfl
@[simp] theorem modBank_due : (modBank c b f s).due = s.due := rfl
@[simp] theorem modBank_latches : (modBank c b f s).latches = s.latches := rfl
@[simp] theorem modBank_dueErr : (modBank c b f s).dueErr = s.dueErr := rfl
@[simp] theorem modBank_mem : (modBank c b f s).mem = s.mem := rfl
@[simp] theorem modBank_ecc : (modBank c b f s).ecc = s.ecc := rfl
@[simp] theorem modBank_inj : (modBank c b f s).inj = s.inj := rfl
@[simp] theorem modBank_srGen : (modBank c b f s).srGen = s.srGen := rfl
@[simp] theorem modBank_dregs : (modBank c b f s).dregs = s.dregs := rfl
@[simp] theorem modBank_batches : (modBank c b f s).batches = s.batches := rfl
@[simp] theorem modBank_links : (modBank c b f s).links = s.links := rfl
@[simp] theorem modBank_mbx : (modBank c b f s).mbx = s.mbx := rfl
@[simp] theorem modBank_netq : (modBank c b f s).netq = s.netq := rfl
@[simp] theorem modBank_chorus : (modBank c b f s).chorus = s.chorus := rfl
@[simp] theorem modBank_moves : (modBank c b f s).moves = s.moves := rfl
@[simp] theorem modBank_ans : (modBank c b f s).ans = s.ans := rfl
@[simp] theorem modBank_sent : (modBank c b f s).sent = s.sent := rfl
@[simp] theorem modBank_pwr : (modBank c b f s).pwr = s.pwr := rfl
@[simp] theorem modBank_variant : (modBank c b f s).variant = s.variant := rfl
@[simp] theorem modBank_stage : (modBank c b f s).stage = s.stage := rfl
@[simp] theorem modBank_staging : (modBank c b f s).staging = s.staging := rfl
@[simp] theorem modBank_outcome : (modBank c b f s).outcome = s.outcome := rfl
@[simp] theorem modBank_dfl : (modBank c b f s).dfl = s.dfl := rfl
@[simp] theorem modBank_bad : (modBank c b f s).bad = s.bad := rfl
@[simp] theorem modBank_chanSlot : (modBank c b f s).chanSlot = s.chanSlot := rfl
@[simp] theorem modBank_repair : (modBank c b f s).repair = s.repair := rfl
@[simp] theorem modBank_now : (modBank c b f s).now = s.now := rfl
@[simp] theorem modBank_fresh : (modBank c b f s).fresh = s.fresh := rfl
@[simp] theorem modBank_hostCfg : (modBank c b f s).hostCfg = s.hostCfg := rfl
@[simp] theorem modBank_hostLnk : (modBank c b f s).hostLnk = s.hostLnk := rfl
@[simp] theorem modBank_atc : (modBank c b f s).atc = s.atc := rfl
@[simp] theorem modBank_ioSlots : (modBank c b f s).ioSlots = s.ioSlots := rfl
@[simp] theorem modBank_complLog : (modBank c b f s).complLog = s.complLog := rfl
@[simp] theorem modBank_sensors : (modBank c b f s).sensors = s.sensors := rfl
@[simp] theorem modBank_pending : (modBank c b f s).pending = s.pending := rfl

end

/-! ### modNetq -/

section
variable (q : Nat) (f : NetQ → NetQ) (s : State)

@[simp] theorem modNetq_cells : (modNetq q f s).cells = s.cells := rfl
@[simp] theorem modNetq_banks : (modNetq q f s).banks = s.banks := rfl
@[simp] theorem modNetq_clus : (modNetq q f s).clus = s.clus := rfl
@[simp] theorem modNetq_parts : (modNetq q f s).parts = s.parts := rfl
@[simp] theorem modNetq_tasks : (modNetq q f s).tasks = s.tasks := rfl
@[simp] theorem modNetq_reqs : (modNetq q f s).reqs = s.reqs := rfl
@[simp] theorem modNetq_reports : (modNetq q f s).reports = s.reports := rfl
@[simp] theorem modNetq_due : (modNetq q f s).due = s.due := rfl
@[simp] theorem modNetq_latches : (modNetq q f s).latches = s.latches := rfl
@[simp] theorem modNetq_dueErr : (modNetq q f s).dueErr = s.dueErr := rfl
@[simp] theorem modNetq_mem : (modNetq q f s).mem = s.mem := rfl
@[simp] theorem modNetq_ecc : (modNetq q f s).ecc = s.ecc := rfl
@[simp] theorem modNetq_inj : (modNetq q f s).inj = s.inj := rfl
@[simp] theorem modNetq_srGen : (modNetq q f s).srGen = s.srGen := rfl
@[simp] theorem modNetq_dregs : (modNetq q f s).dregs = s.dregs := rfl
@[simp] theorem modNetq_batches : (modNetq q f s).batches = s.batches := rfl
@[simp] theorem modNetq_links : (modNetq q f s).links = s.links := rfl
@[simp] theorem modNetq_mbx : (modNetq q f s).mbx = s.mbx := rfl
@[simp] theorem modNetq_chorus : (modNetq q f s).chorus = s.chorus := rfl
@[simp] theorem modNetq_moves : (modNetq q f s).moves = s.moves := rfl
@[simp] theorem modNetq_ans : (modNetq q f s).ans = s.ans := rfl
@[simp] theorem modNetq_sent : (modNetq q f s).sent = s.sent := rfl
@[simp] theorem modNetq_pwr : (modNetq q f s).pwr = s.pwr := rfl
@[simp] theorem modNetq_variant : (modNetq q f s).variant = s.variant := rfl
@[simp] theorem modNetq_stage : (modNetq q f s).stage = s.stage := rfl
@[simp] theorem modNetq_staging : (modNetq q f s).staging = s.staging := rfl
@[simp] theorem modNetq_outcome : (modNetq q f s).outcome = s.outcome := rfl
@[simp] theorem modNetq_dfl : (modNetq q f s).dfl = s.dfl := rfl
@[simp] theorem modNetq_bad : (modNetq q f s).bad = s.bad := rfl
@[simp] theorem modNetq_chanSlot : (modNetq q f s).chanSlot = s.chanSlot := rfl
@[simp] theorem modNetq_repair : (modNetq q f s).repair = s.repair := rfl
@[simp] theorem modNetq_now : (modNetq q f s).now = s.now := rfl
@[simp] theorem modNetq_fresh : (modNetq q f s).fresh = s.fresh := rfl
@[simp] theorem modNetq_hostCfg : (modNetq q f s).hostCfg = s.hostCfg := rfl
@[simp] theorem modNetq_hostLnk : (modNetq q f s).hostLnk = s.hostLnk := rfl
@[simp] theorem modNetq_atc : (modNetq q f s).atc = s.atc := rfl
@[simp] theorem modNetq_ioSlots : (modNetq q f s).ioSlots = s.ioSlots := rfl
@[simp] theorem modNetq_complLog : (modNetq q f s).complLog = s.complLog := rfl
@[simp] theorem modNetq_sensors : (modNetq q f s).sensors = s.sensors := rfl
@[simp] theorem modNetq_pending : (modNetq q f s).pending = s.pending := rfl

end

/-! ### modLink -/

section
variable (l : Nat) (f : Link → Link) (s : State)

@[simp] theorem modLink_cells : (modLink l f s).cells = s.cells := rfl
@[simp] theorem modLink_banks : (modLink l f s).banks = s.banks := rfl
@[simp] theorem modLink_clus : (modLink l f s).clus = s.clus := rfl
@[simp] theorem modLink_parts : (modLink l f s).parts = s.parts := rfl
@[simp] theorem modLink_tasks : (modLink l f s).tasks = s.tasks := rfl
@[simp] theorem modLink_reqs : (modLink l f s).reqs = s.reqs := rfl
@[simp] theorem modLink_reports : (modLink l f s).reports = s.reports := rfl
@[simp] theorem modLink_due : (modLink l f s).due = s.due := rfl
@[simp] theorem modLink_latches : (modLink l f s).latches = s.latches := rfl
@[simp] theorem modLink_dueErr : (modLink l f s).dueErr = s.dueErr := rfl
@[simp] theorem modLink_mem : (modLink l f s).mem = s.mem := rfl
@[simp] theorem modLink_ecc : (modLink l f s).ecc = s.ecc := rfl
@[simp] theorem modLink_inj : (modLink l f s).inj = s.inj := rfl
@[simp] theorem modLink_srGen : (modLink l f s).srGen = s.srGen := rfl
@[simp] theorem modLink_dregs : (modLink l f s).dregs = s.dregs := rfl
@[simp] theorem modLink_batches : (modLink l f s).batches = s.batches := rfl
@[simp] theorem modLink_mbx : (modLink l f s).mbx = s.mbx := rfl
@[simp] theorem modLink_netq : (modLink l f s).netq = s.netq := rfl
@[simp] theorem modLink_chorus : (modLink l f s).chorus = s.chorus := rfl
@[simp] theorem modLink_moves : (modLink l f s).moves = s.moves := rfl
@[simp] theorem modLink_ans : (modLink l f s).ans = s.ans := rfl
@[simp] theorem modLink_sent : (modLink l f s).sent = s.sent := rfl
@[simp] theorem modLink_pwr : (modLink l f s).pwr = s.pwr := rfl
@[simp] theorem modLink_variant : (modLink l f s).variant = s.variant := rfl
@[simp] theorem modLink_stage : (modLink l f s).stage = s.stage := rfl
@[simp] theorem modLink_staging : (modLink l f s).staging = s.staging := rfl
@[simp] theorem modLink_outcome : (modLink l f s).outcome = s.outcome := rfl
@[simp] theorem modLink_dfl : (modLink l f s).dfl = s.dfl := rfl
@[simp] theorem modLink_bad : (modLink l f s).bad = s.bad := rfl
@[simp] theorem modLink_chanSlot : (modLink l f s).chanSlot = s.chanSlot := rfl
@[simp] theorem modLink_repair : (modLink l f s).repair = s.repair := rfl
@[simp] theorem modLink_now : (modLink l f s).now = s.now := rfl
@[simp] theorem modLink_fresh : (modLink l f s).fresh = s.fresh := rfl
@[simp] theorem modLink_hostCfg : (modLink l f s).hostCfg = s.hostCfg := rfl
@[simp] theorem modLink_hostLnk : (modLink l f s).hostLnk = s.hostLnk := rfl
@[simp] theorem modLink_atc : (modLink l f s).atc = s.atc := rfl
@[simp] theorem modLink_ioSlots : (modLink l f s).ioSlots = s.ioSlots := rfl
@[simp] theorem modLink_complLog : (modLink l f s).complLog = s.complLog := rfl
@[simp] theorem modLink_sensors : (modLink l f s).sensors = s.sensors := rfl
@[simp] theorem modLink_pending : (modLink l f s).pending = s.pending := rfl

end

/-! ### modMbx -/

section
variable (m : Nat) (f : Mbx → Mbx) (s : State)

@[simp] theorem modMbx_cells : (modMbx m f s).cells = s.cells := rfl
@[simp] theorem modMbx_banks : (modMbx m f s).banks = s.banks := rfl
@[simp] theorem modMbx_clus : (modMbx m f s).clus = s.clus := rfl
@[simp] theorem modMbx_parts : (modMbx m f s).parts = s.parts := rfl
@[simp] theorem modMbx_tasks : (modMbx m f s).tasks = s.tasks := rfl
@[simp] theorem modMbx_reqs : (modMbx m f s).reqs = s.reqs := rfl
@[simp] theorem modMbx_reports : (modMbx m f s).reports = s.reports := rfl
@[simp] theorem modMbx_due : (modMbx m f s).due = s.due := rfl
@[simp] theorem modMbx_latches : (modMbx m f s).latches = s.latches := rfl
@[simp] theorem modMbx_dueErr : (modMbx m f s).dueErr = s.dueErr := rfl
@[simp] theorem modMbx_mem : (modMbx m f s).mem = s.mem := rfl
@[simp] theorem modMbx_ecc : (modMbx m f s).ecc = s.ecc := rfl
@[simp] theorem modMbx_inj : (modMbx m f s).inj = s.inj := rfl
@[simp] theorem modMbx_srGen : (modMbx m f s).srGen = s.srGen := rfl
@[simp] theorem modMbx_dregs : (modMbx m f s).dregs = s.dregs := rfl
@[simp] theorem modMbx_batches : (modMbx m f s).batches = s.batches := rfl
@[simp] theorem modMbx_links : (modMbx m f s).links = s.links := rfl
@[simp] theorem modMbx_netq : (modMbx m f s).netq = s.netq := rfl
@[simp] theorem modMbx_chorus : (modMbx m f s).chorus = s.chorus := rfl
@[simp] theorem modMbx_moves : (modMbx m f s).moves = s.moves := rfl
@[simp] theorem modMbx_ans : (modMbx m f s).ans = s.ans := rfl
@[simp] theorem modMbx_sent : (modMbx m f s).sent = s.sent := rfl
@[simp] theorem modMbx_pwr : (modMbx m f s).pwr = s.pwr := rfl
@[simp] theorem modMbx_variant : (modMbx m f s).variant = s.variant := rfl
@[simp] theorem modMbx_stage : (modMbx m f s).stage = s.stage := rfl
@[simp] theorem modMbx_staging : (modMbx m f s).staging = s.staging := rfl
@[simp] theorem modMbx_outcome : (modMbx m f s).outcome = s.outcome := rfl
@[simp] theorem modMbx_dfl : (modMbx m f s).dfl = s.dfl := rfl
@[simp] theorem modMbx_bad : (modMbx m f s).bad = s.bad := rfl
@[simp] theorem modMbx_chanSlot : (modMbx m f s).chanSlot = s.chanSlot := rfl
@[simp] theorem modMbx_repair : (modMbx m f s).repair = s.repair := rfl
@[simp] theorem modMbx_now : (modMbx m f s).now = s.now := rfl
@[simp] theorem modMbx_fresh : (modMbx m f s).fresh = s.fresh := rfl
@[simp] theorem modMbx_hostCfg : (modMbx m f s).hostCfg = s.hostCfg := rfl
@[simp] theorem modMbx_hostLnk : (modMbx m f s).hostLnk = s.hostLnk := rfl
@[simp] theorem modMbx_atc : (modMbx m f s).atc = s.atc := rfl
@[simp] theorem modMbx_ioSlots : (modMbx m f s).ioSlots = s.ioSlots := rfl
@[simp] theorem modMbx_complLog : (modMbx m f s).complLog = s.complLog := rfl
@[simp] theorem modMbx_sensors : (modMbx m f s).sensors = s.sensors := rfl
@[simp] theorem modMbx_pending : (modMbx m f s).pending = s.pending := rfl

end

/-! ### modBatch -/

section
variable (b : Nat) (f : Batch → Batch) (s : State)

@[simp] theorem modBatch_cells : (modBatch b f s).cells = s.cells := rfl
@[simp] theorem modBatch_banks : (modBatch b f s).banks = s.banks := rfl
@[simp] theorem modBatch_clus : (modBatch b f s).clus = s.clus := rfl
@[simp] theorem modBatch_parts : (modBatch b f s).parts = s.parts := rfl
@[simp] theorem modBatch_tasks : (modBatch b f s).tasks = s.tasks := rfl
@[simp] theorem modBatch_reqs : (modBatch b f s).reqs = s.reqs := rfl
@[simp] theorem modBatch_reports : (modBatch b f s).reports = s.reports := rfl
@[simp] theorem modBatch_due : (modBatch b f s).due = s.due := rfl
@[simp] theorem modBatch_latches : (modBatch b f s).latches = s.latches := rfl
@[simp] theorem modBatch_dueErr : (modBatch b f s).dueErr = s.dueErr := rfl
@[simp] theorem modBatch_mem : (modBatch b f s).mem = s.mem := rfl
@[simp] theorem modBatch_ecc : (modBatch b f s).ecc = s.ecc := rfl
@[simp] theorem modBatch_inj : (modBatch b f s).inj = s.inj := rfl
@[simp] theorem modBatch_srGen : (modBatch b f s).srGen = s.srGen := rfl
@[simp] theorem modBatch_dregs : (modBatch b f s).dregs = s.dregs := rfl
@[simp] theorem modBatch_links : (modBatch b f s).links = s.links := rfl
@[simp] theorem modBatch_mbx : (modBatch b f s).mbx = s.mbx := rfl
@[simp] theorem modBatch_netq : (modBatch b f s).netq = s.netq := rfl
@[simp] theorem modBatch_chorus : (modBatch b f s).chorus = s.chorus := rfl
@[simp] theorem modBatch_moves : (modBatch b f s).moves = s.moves := rfl
@[simp] theorem modBatch_ans : (modBatch b f s).ans = s.ans := rfl
@[simp] theorem modBatch_sent : (modBatch b f s).sent = s.sent := rfl
@[simp] theorem modBatch_pwr : (modBatch b f s).pwr = s.pwr := rfl
@[simp] theorem modBatch_variant : (modBatch b f s).variant = s.variant := rfl
@[simp] theorem modBatch_stage : (modBatch b f s).stage = s.stage := rfl
@[simp] theorem modBatch_staging : (modBatch b f s).staging = s.staging := rfl
@[simp] theorem modBatch_outcome : (modBatch b f s).outcome = s.outcome := rfl
@[simp] theorem modBatch_dfl : (modBatch b f s).dfl = s.dfl := rfl
@[simp] theorem modBatch_bad : (modBatch b f s).bad = s.bad := rfl
@[simp] theorem modBatch_chanSlot : (modBatch b f s).chanSlot = s.chanSlot := rfl
@[simp] theorem modBatch_repair : (modBatch b f s).repair = s.repair := rfl
@[simp] theorem modBatch_now : (modBatch b f s).now = s.now := rfl
@[simp] theorem modBatch_fresh : (modBatch b f s).fresh = s.fresh := rfl
@[simp] theorem modBatch_hostCfg : (modBatch b f s).hostCfg = s.hostCfg := rfl
@[simp] theorem modBatch_hostLnk : (modBatch b f s).hostLnk = s.hostLnk := rfl
@[simp] theorem modBatch_atc : (modBatch b f s).atc = s.atc := rfl
@[simp] theorem modBatch_ioSlots : (modBatch b f s).ioSlots = s.ioSlots := rfl
@[simp] theorem modBatch_complLog : (modBatch b f s).complLog = s.complLog := rfl
@[simp] theorem modBatch_sensors : (modBatch b f s).sensors = s.sensors := rfl
@[simp] theorem modBatch_pending : (modBatch b f s).pending = s.pending := rfl

end

/-! ### setPreg -/

section
variable (p o v : Nat) (s : State)

@[simp] theorem setPreg_cells : (setPreg p o v s).cells = s.cells := rfl
@[simp] theorem setPreg_banks : (setPreg p o v s).banks = s.banks := rfl
@[simp] theorem setPreg_clus : (setPreg p o v s).clus = s.clus := rfl
@[simp] theorem setPreg_tasks : (setPreg p o v s).tasks = s.tasks := rfl
@[simp] theorem setPreg_reqs : (setPreg p o v s).reqs = s.reqs := rfl
@[simp] theorem setPreg_reports : (setPreg p o v s).reports = s.reports := rfl
@[simp] theorem setPreg_due : (setPreg p o v s).due = s.due := rfl
@[simp] theorem setPreg_latches : (setPreg p o v s).latches = s.latches := rfl
@[simp] theorem setPreg_dueErr : (setPreg p o v s).dueErr = s.dueErr := rfl
@[simp] theorem setPreg_mem : (setPreg p o v s).mem = s.mem := rfl
@[simp] theorem setPreg_ecc : (setPreg p o v s).ecc = s.ecc := rfl
@[simp] theorem setPreg_inj : (setPreg p o v s).inj = s.inj := rfl
@[simp] theorem setPreg_srGen : (setPreg p o v s).srGen = s.srGen := rfl
@[simp] theorem setPreg_dregs : (setPreg p o v s).dregs = s.dregs := rfl
@[simp] theorem setPreg_batches : (setPreg p o v s).batches = s.batches := rfl
@[simp] theorem setPreg_links : (setPreg p o v s).links = s.links := rfl
@[simp] theorem setPreg_mbx : (setPreg p o v s).mbx = s.mbx := rfl
@[simp] theorem setPreg_netq : (setPreg p o v s).netq = s.netq := rfl
@[simp] theorem setPreg_chorus : (setPreg p o v s).chorus = s.chorus := rfl
@[simp] theorem setPreg_moves : (setPreg p o v s).moves = s.moves := rfl
@[simp] theorem setPreg_ans : (setPreg p o v s).ans = s.ans := rfl
@[simp] theorem setPreg_sent : (setPreg p o v s).sent = s.sent := rfl
@[simp] theorem setPreg_pwr : (setPreg p o v s).pwr = s.pwr := rfl
@[simp] theorem setPreg_variant : (setPreg p o v s).variant = s.variant := rfl
@[simp] theorem setPreg_stage : (setPreg p o v s).stage = s.stage := rfl
@[simp] theorem setPreg_staging : (setPreg p o v s).staging = s.staging := rfl
@[simp] theorem setPreg_outcome : (setPreg p o v s).outcome = s.outcome := rfl
@[simp] theorem setPreg_dfl : (setPreg p o v s).dfl = s.dfl := rfl
@[simp] theorem setPreg_bad : (setPreg p o v s).bad = s.bad := rfl
@[simp] theorem setPreg_chanSlot : (setPreg p o v s).chanSlot = s.chanSlot := rfl
@[simp] theorem setPreg_repair : (setPreg p o v s).repair = s.repair := rfl
@[simp] theorem setPreg_now : (setPreg p o v s).now = s.now := rfl
@[simp] theorem setPreg_fresh : (setPreg p o v s).fresh = s.fresh := rfl
@[simp] theorem setPreg_hostCfg : (setPreg p o v s).hostCfg = s.hostCfg := rfl
@[simp] theorem setPreg_hostLnk : (setPreg p o v s).hostLnk = s.hostLnk := rfl
@[simp] theorem setPreg_atc : (setPreg p o v s).atc = s.atc := rfl
@[simp] theorem setPreg_ioSlots : (setPreg p o v s).ioSlots = s.ioSlots := rfl
@[simp] theorem setPreg_complLog : (setPreg p o v s).complLog = s.complLog := rfl
@[simp] theorem setPreg_sensors : (setPreg p o v s).sensors = s.sensors := rfl
@[simp] theorem setPreg_pending : (setPreg p o v s).pending = s.pending := rfl

end

/-! ### setCreg -/

section
variable (c o v : Nat) (s : State)

@[simp] theorem setCreg_cells : (setCreg c o v s).cells = s.cells := rfl
@[simp] theorem setCreg_banks : (setCreg c o v s).banks = s.banks := rfl
@[simp] theorem setCreg_parts : (setCreg c o v s).parts = s.parts := rfl
@[simp] theorem setCreg_tasks : (setCreg c o v s).tasks = s.tasks := rfl
@[simp] theorem setCreg_reqs : (setCreg c o v s).reqs = s.reqs := rfl
@[simp] theorem setCreg_reports : (setCreg c o v s).reports = s.reports := rfl
@[simp] theorem setCreg_due : (setCreg c o v s).due = s.due := rfl
@[simp] theorem setCreg_latches : (setCreg c o v s).latches = s.latches := rfl
@[simp] theorem setCreg_dueErr : (setCreg c o v s).dueErr = s.dueErr := rfl
@[simp] theorem setCreg_mem : (setCreg c o v s).mem = s.mem := rfl
@[simp] theorem setCreg_ecc : (setCreg c o v s).ecc = s.ecc := rfl
@[simp] theorem setCreg_inj : (setCreg c o v s).inj = s.inj := rfl
@[simp] theorem setCreg_srGen : (setCreg c o v s).srGen = s.srGen := rfl
@[simp] theorem setCreg_dregs : (setCreg c o v s).dregs = s.dregs := rfl
@[simp] theorem setCreg_batches : (setCreg c o v s).batches = s.batches := rfl
@[simp] theorem setCreg_links : (setCreg c o v s).links = s.links := rfl
@[simp] theorem setCreg_mbx : (setCreg c o v s).mbx = s.mbx := rfl
@[simp] theorem setCreg_netq : (setCreg c o v s).netq = s.netq := rfl
@[simp] theorem setCreg_chorus : (setCreg c o v s).chorus = s.chorus := rfl
@[simp] theorem setCreg_moves : (setCreg c o v s).moves = s.moves := rfl
@[simp] theorem setCreg_ans : (setCreg c o v s).ans = s.ans := rfl
@[simp] theorem setCreg_sent : (setCreg c o v s).sent = s.sent := rfl
@[simp] theorem setCreg_pwr : (setCreg c o v s).pwr = s.pwr := rfl
@[simp] theorem setCreg_variant : (setCreg c o v s).variant = s.variant := rfl
@[simp] theorem setCreg_stage : (setCreg c o v s).stage = s.stage := rfl
@[simp] theorem setCreg_staging : (setCreg c o v s).staging = s.staging := rfl
@[simp] theorem setCreg_outcome : (setCreg c o v s).outcome = s.outcome := rfl
@[simp] theorem setCreg_dfl : (setCreg c o v s).dfl = s.dfl := rfl
@[simp] theorem setCreg_bad : (setCreg c o v s).bad = s.bad := rfl
@[simp] theorem setCreg_chanSlot : (setCreg c o v s).chanSlot = s.chanSlot := rfl
@[simp] theorem setCreg_repair : (setCreg c o v s).repair = s.repair := rfl
@[simp] theorem setCreg_now : (setCreg c o v s).now = s.now := rfl
@[simp] theorem setCreg_fresh : (setCreg c o v s).fresh = s.fresh := rfl
@[simp] theorem setCreg_hostCfg : (setCreg c o v s).hostCfg = s.hostCfg := rfl
@[simp] theorem setCreg_hostLnk : (setCreg c o v s).hostLnk = s.hostLnk := rfl
@[simp] theorem setCreg_atc : (setCreg c o v s).atc = s.atc := rfl
@[simp] theorem setCreg_ioSlots : (setCreg c o v s).ioSlots = s.ioSlots := rfl
@[simp] theorem setCreg_complLog : (setCreg c o v s).complLog = s.complLog := rfl
@[simp] theorem setCreg_sensors : (setCreg c o v s).sensors = s.sensors := rfl
@[simp] theorem setCreg_pending : (setCreg c o v s).pending = s.pending := rfl

end

/-! ### setMreg -/

section
variable (m o v : Nat) (s : State)

@[simp] theorem setMreg_cells : (setMreg m o v s).cells = s.cells := rfl
@[simp] theorem setMreg_banks : (setMreg m o v s).banks = s.banks := rfl
@[simp] theorem setMreg_clus : (setMreg m o v s).clus = s.clus := rfl
@[simp] theorem setMreg_parts : (setMreg m o v s).parts = s.parts := rfl
@[simp] theorem setMreg_tasks : (setMreg m o v s).tasks = s.tasks := rfl
@[simp] theorem setMreg_reqs : (setMreg m o v s).reqs = s.reqs := rfl
@[simp] theorem setMreg_reports : (setMreg m o v s).reports = s.reports := rfl
@[simp] theorem setMreg_due : (setMreg m o v s).due = s.due := rfl
@[simp] theorem setMreg_latches : (setMreg m o v s).latches = s.latches := rfl
@[simp] theorem setMreg_dueErr : (setMreg m o v s).dueErr = s.dueErr := rfl
@[simp] theorem setMreg_mem : (setMreg m o v s).mem = s.mem := rfl
@[simp] theorem setMreg_ecc : (setMreg m o v s).ecc = s.ecc := rfl
@[simp] theorem setMreg_inj : (setMreg m o v s).inj = s.inj := rfl
@[simp] theorem setMreg_srGen : (setMreg m o v s).srGen = s.srGen := rfl
@[simp] theorem setMreg_dregs : (setMreg m o v s).dregs = s.dregs := rfl
@[simp] theorem setMreg_batches : (setMreg m o v s).batches = s.batches := rfl
@[simp] theorem setMreg_links : (setMreg m o v s).links = s.links := rfl
@[simp] theorem setMreg_netq : (setMreg m o v s).netq = s.netq := rfl
@[simp] theorem setMreg_chorus : (setMreg m o v s).chorus = s.chorus := rfl
@[simp] theorem setMreg_moves : (setMreg m o v s).moves = s.moves := rfl
@[simp] theorem setMreg_ans : (setMreg m o v s).ans = s.ans := rfl
@[simp] theorem setMreg_sent : (setMreg m o v s).sent = s.sent := rfl
@[simp] theorem setMreg_pwr : (setMreg m o v s).pwr = s.pwr := rfl
@[simp] theorem setMreg_variant : (setMreg m o v s).variant = s.variant := rfl
@[simp] theorem setMreg_stage : (setMreg m o v s).stage = s.stage := rfl
@[simp] theorem setMreg_staging : (setMreg m o v s).staging = s.staging := rfl
@[simp] theorem setMreg_outcome : (setMreg m o v s).outcome = s.outcome := rfl
@[simp] theorem setMreg_dfl : (setMreg m o v s).dfl = s.dfl := rfl
@[simp] theorem setMreg_bad : (setMreg m o v s).bad = s.bad := rfl
@[simp] theorem setMreg_chanSlot : (setMreg m o v s).chanSlot = s.chanSlot := rfl
@[simp] theorem setMreg_repair : (setMreg m o v s).repair = s.repair := rfl
@[simp] theorem setMreg_now : (setMreg m o v s).now = s.now := rfl
@[simp] theorem setMreg_fresh : (setMreg m o v s).fresh = s.fresh := rfl
@[simp] theorem setMreg_hostCfg : (setMreg m o v s).hostCfg = s.hostCfg := rfl
@[simp] theorem setMreg_hostLnk : (setMreg m o v s).hostLnk = s.hostLnk := rfl
@[simp] theorem setMreg_atc : (setMreg m o v s).atc = s.atc := rfl
@[simp] theorem setMreg_ioSlots : (setMreg m o v s).ioSlots = s.ioSlots := rfl
@[simp] theorem setMreg_complLog : (setMreg m o v s).complLog = s.complLog := rfl
@[simp] theorem setMreg_sensors : (setMreg m o v s).sensors = s.sensors := rfl
@[simp] theorem setMreg_pending : (setMreg m o v s).pending = s.pending := rfl

end

/-! ### setDreg -/

section
variable (o v : Nat) (s : State)

@[simp] theorem setDreg_cells : (setDreg o v s).cells = s.cells := rfl
@[simp] theorem setDreg_banks : (setDreg o v s).banks = s.banks := rfl
@[simp] theorem setDreg_clus : (setDreg o v s).clus = s.clus := rfl
@[simp] theorem setDreg_parts : (setDreg o v s).parts = s.parts := rfl
@[simp] theorem setDreg_tasks : (setDreg o v s).tasks = s.tasks := rfl
@[simp] theorem setDreg_reqs : (setDreg o v s).reqs = s.reqs := rfl
@[simp] theorem setDreg_reports : (setDreg o v s).reports = s.reports := rfl
@[simp] theorem setDreg_due : (setDreg o v s).due = s.due := rfl
@[simp] theorem setDreg_latches : (setDreg o v s).latches = s.latches := rfl
@[simp] theorem setDreg_dueErr : (setDreg o v s).dueErr = s.dueErr := rfl
@[simp] theorem setDreg_mem : (setDreg o v s).mem = s.mem := rfl
@[simp] theorem setDreg_ecc : (setDreg o v s).ecc = s.ecc := rfl
@[simp] theorem setDreg_inj : (setDreg o v s).inj = s.inj := rfl
@[simp] theorem setDreg_srGen : (setDreg o v s).srGen = s.srGen := rfl
@[simp] theorem setDreg_batches : (setDreg o v s).batches = s.batches := rfl
@[simp] theorem setDreg_links : (setDreg o v s).links = s.links := rfl
@[simp] theorem setDreg_mbx : (setDreg o v s).mbx = s.mbx := rfl
@[simp] theorem setDreg_netq : (setDreg o v s).netq = s.netq := rfl
@[simp] theorem setDreg_chorus : (setDreg o v s).chorus = s.chorus := rfl
@[simp] theorem setDreg_moves : (setDreg o v s).moves = s.moves := rfl
@[simp] theorem setDreg_ans : (setDreg o v s).ans = s.ans := rfl
@[simp] theorem setDreg_sent : (setDreg o v s).sent = s.sent := rfl
@[simp] theorem setDreg_pwr : (setDreg o v s).pwr = s.pwr := rfl
@[simp] theorem setDreg_variant : (setDreg o v s).variant = s.variant := rfl
@[simp] theorem setDreg_stage : (setDreg o v s).stage = s.stage := rfl
@[simp] theorem setDreg_staging : (setDreg o v s).staging = s.staging := rfl
@[simp] theorem setDreg_outcome : (setDreg o v s).outcome = s.outcome := rfl
@[simp] theorem setDreg_dfl : (setDreg o v s).dfl = s.dfl := rfl
@[simp] theorem setDreg_bad : (setDreg o v s).bad = s.bad := rfl
@[simp] theorem setDreg_chanSlot : (setDreg o v s).chanSlot = s.chanSlot := rfl
@[simp] theorem setDreg_repair : (setDreg o v s).repair = s.repair := rfl
@[simp] theorem setDreg_now : (setDreg o v s).now = s.now := rfl
@[simp] theorem setDreg_fresh : (setDreg o v s).fresh = s.fresh := rfl
@[simp] theorem setDreg_hostCfg : (setDreg o v s).hostCfg = s.hostCfg := rfl
@[simp] theorem setDreg_hostLnk : (setDreg o v s).hostLnk = s.hostLnk := rfl
@[simp] theorem setDreg_atc : (setDreg o v s).atc = s.atc := rfl
@[simp] theorem setDreg_ioSlots : (setDreg o v s).ioSlots = s.ioSlots := rfl
@[simp] theorem setDreg_complLog : (setDreg o v s).complLog = s.complLog := rfl
@[simp] theorem setDreg_sensors : (setDreg o v s).sensors = s.sensors := rfl
@[simp] theorem setDreg_pending : (setDreg o v s).pending = s.pending := rfl

end

/-! ### poke -/

section
variable (k : Nat) (v : Byte) (s : State)

@[simp] theorem poke_cells : (poke k v s).cells = s.cells := rfl
@[simp] theorem poke_banks : (poke k v s).banks = s.banks := rfl
@[simp] theorem poke_clus : (poke k v s).clus = s.clus := rfl
@[simp] theorem poke_parts : (poke k v s).parts = s.parts := rfl
@[simp] theorem poke_tasks : (poke k v s).tasks = s.tasks := rfl
@[simp] theorem poke_reqs : (poke k v s).reqs = s.reqs := rfl
@[simp] theorem poke_reports : (poke k v s).reports = s.reports := rfl
@[simp] theorem poke_due : (poke k v s).due = s.due := rfl
@[simp] theorem poke_latches : (poke k v s).latches = s.latches := rfl
@[simp] theorem poke_dueErr : (poke k v s).dueErr = s.dueErr := rfl
@[simp] theorem poke_ecc : (poke k v s).ecc = s.ecc := rfl
@[simp] theorem poke_inj : (poke k v s).inj = s.inj := rfl
@[simp] theorem poke_srGen : (poke k v s).srGen = s.srGen := rfl
@[simp] theorem poke_dregs : (poke k v s).dregs = s.dregs := rfl
@[simp] theorem poke_batches : (poke k v s).batches = s.batches := rfl
@[simp] theorem poke_links : (poke k v s).links = s.links := rfl
@[simp] theorem poke_mbx : (poke k v s).mbx = s.mbx := rfl
@[simp] theorem poke_netq : (poke k v s).netq = s.netq := rfl
@[simp] theorem poke_chorus : (poke k v s).chorus = s.chorus := rfl
@[simp] theorem poke_moves : (poke k v s).moves = s.moves := rfl
@[simp] theorem poke_ans : (poke k v s).ans = s.ans := rfl
@[simp] theorem poke_sent : (poke k v s).sent = s.sent := rfl
@[simp] theorem poke_pwr : (poke k v s).pwr = s.pwr := rfl
@[simp] theorem poke_variant : (poke k v s).variant = s.variant := rfl
@[simp] theorem poke_stage : (poke k v s).stage = s.stage := rfl
@[simp] theorem poke_staging : (poke k v s).staging = s.staging := rfl
@[simp] theorem poke_outcome : (poke k v s).outcome = s.outcome := rfl
@[simp] theorem poke_dfl : (poke k v s).dfl = s.dfl := rfl
@[simp] theorem poke_bad : (poke k v s).bad = s.bad := rfl
@[simp] theorem poke_chanSlot : (poke k v s).chanSlot = s.chanSlot := rfl
@[simp] theorem poke_repair : (poke k v s).repair = s.repair := rfl
@[simp] theorem poke_now : (poke k v s).now = s.now := rfl
@[simp] theorem poke_fresh : (poke k v s).fresh = s.fresh := rfl
@[simp] theorem poke_hostCfg : (poke k v s).hostCfg = s.hostCfg := rfl
@[simp] theorem poke_hostLnk : (poke k v s).hostLnk = s.hostLnk := rfl
@[simp] theorem poke_atc : (poke k v s).atc = s.atc := rfl
@[simp] theorem poke_ioSlots : (poke k v s).ioSlots = s.ioSlots := rfl
@[simp] theorem poke_complLog : (poke k v s).complLog = s.complLog := rfl
@[simp] theorem poke_sensors : (poke k v s).sensors = s.sensors := rfl
@[simp] theorem poke_pending : (poke k v s).pending = s.pending := rfl

end

/-! ### Reads after updates -/

@[simp] theorem clu_modClu_same (c : Nat) (f : Cluster → Cluster) (s : State) : clu (modClu c f s) c = f (clu s c) := by
  unfold clu modClu; exact mget_mset_eq _ _ _ _

theorem clu_modClu_ne {c d : Nat} (f : Cluster → Cluster) (s : State) (h : d ≠ c) : clu (modClu c f s) d = clu s d := by
  unfold clu modClu; exact mget_mset_ne _ _ _ h

@[simp] theorem part_modPart_same (c : Nat) (f : Part → Part) (s : State) : part (modPart c f s) c = f (part s c) := by
  unfold part modPart; exact mget_mset_eq _ _ _ _

theorem part_modPart_ne {c d : Nat} (f : Part → Part) (s : State) (h : d ≠ c) : part (modPart c f s) d = part s d := by
  unfold part modPart; exact mget_mset_ne _ _ _ h

@[simp] theorem taskOf_modTask_same (c : Nat) (f : Task → Task) (s : State) : taskOf (modTask c f s) c = f (taskOf s c) := by
  unfold taskOf modTask; exact mget_mset_eq _ _ _ _

theorem taskOf_modTask_ne {c d : Nat} (f : Task → Task) (s : State) (h : d ≠ c) : taskOf (modTask c f s) d = taskOf s d := by
  unfold taskOf modTask; exact mget_mset_ne _ _ _ h

@[simp] theorem reqOf_modReq_same (c : Nat) (f : Req → Req) (s : State) : reqOf (modReq c f s) c = f (reqOf s c) := by
  unfold reqOf modReq; exact mget_mset_eq _ _ _ _

theorem reqOf_modReq_ne {c d : Nat} (f : Req → Req) (s : State) (h : d ≠ c) : reqOf (modReq c f s) d = reqOf s d := by
  unfold reqOf modReq; exact mget_mset_ne _ _ _ h

@[simp] theorem netqOf_modNetq_same (c : Nat) (f : NetQ → NetQ) (s : State) : netqOf (modNetq c f s) c = f (netqOf s c) := by
  unfold netqOf modNetq; exact mget_mset_eq _ _ _ _

theorem netqOf_modNetq_ne {c d : Nat} (f : NetQ → NetQ) (s : State) (h : d ≠ c) : netqOf (modNetq c f s) d = netqOf s d := by
  unfold netqOf modNetq; exact mget_mset_ne _ _ _ h

@[simp] theorem linkOf_modLink_same (c : Nat) (f : Link → Link) (s : State) : linkOf (modLink c f s) c = f (linkOf s c) := by
  unfold linkOf modLink; exact mget_mset_eq _ _ _ _

theorem linkOf_modLink_ne {c d : Nat} (f : Link → Link) (s : State) (h : d ≠ c) : linkOf (modLink c f s) d = linkOf s d := by
  unfold linkOf modLink; exact mget_mset_ne _ _ _ h

@[simp] theorem mbxOf_modMbx_same (c : Nat) (f : Mbx → Mbx) (s : State) : mbxOf (modMbx c f s) c = f (mbxOf s c) := by
  unfold mbxOf modMbx; exact mget_mset_eq _ _ _ _

theorem mbxOf_modMbx_ne {c d : Nat} (f : Mbx → Mbx) (s : State) (h : d ≠ c) : mbxOf (modMbx c f s) d = mbxOf s d := by
  unfold mbxOf modMbx; exact mget_mset_ne _ _ _ h

@[simp] theorem batchOf_modBatch_same (c : Nat) (f : Batch → Batch) (s : State) : batchOf (modBatch c f s) c = f (batchOf s c) := by
  unfold batchOf modBatch; exact mget_mset_eq _ _ _ _

theorem batchOf_modBatch_ne {c d : Nat} (f : Batch → Batch) (s : State) (h : d ≠ c) : batchOf (modBatch c f s) d = batchOf s d := by
  unfold batchOf modBatch; exact mget_mset_ne _ _ _ h

@[simp] theorem bankOf_modBank_same (c b : Nat) (f : Bank → Bank) (s : State) : bankOf (modBank c b f s) c b = f (bankOf s c b) := by
  unfold bankOf modBank; exact mget_mset_eq _ _ _ _

theorem bankOf_modBank_ne {c b d j : Nat} (f : Bank → Bank) (s : State) (h : 576 * d + j ≠ 576 * c + b) :
    bankOf (modBank c b f s) d j = bankOf s d j := by
  unfold bankOf modBank; exact mget_mset_ne _ _ _ h

theorem cellOf_modCell_ne {c k d j : Nat} (f : Cell → Cell) (s : State) (h : 32 * d + j ≠ 32 * c + k) :
    cellOf (modCell c k f s) d j = cellOf s d j := by
  unfold cellOf modCell; exact mget_mset_ne _ _ _ h

@[simp] theorem dreg_setDreg_same (o v : Nat) (s : State) : dreg (setDreg o v s) o = v := by
  unfold dreg setDreg; exact mget_mset_eq _ _ _ _

theorem dreg_setDreg_ne {o n : Nat} (v : Nat) (s : State) (h : n ≠ o) : dreg (setDreg o v s) n = dreg s n := by
  unfold dreg setDreg; exact mget_mset_other _ _ _ _ h

@[simp] theorem preg_setPreg_same (p o v : Nat) (s : State) : preg (setPreg p o v s) p o = v := by
  simp [preg, setPreg, part_modPart_same]

theorem preg_setPreg_ne {p o n : Nat} (v : Nat) (s : State) (h : n ≠ o) : preg (setPreg p o v s) p n = preg s p n := by
  simp [preg, setPreg, part_modPart_same, mget_mset_other _ _ _ _ h]

@[simp] theorem creg_setCreg_same (c o v : Nat) (s : State) : creg (setCreg c o v s) c o = v := by
  simp [creg, setCreg, clu_modClu_same]

theorem creg_setCreg_ne {c o n : Nat} (v : Nat) (s : State) (h : n ≠ o) : creg (setCreg c o v s) c n = creg s c n := by
  simp [creg, setCreg, clu_modClu_same, mget_mset_other _ _ _ _ h]

/-- A step runs the front of the queue on the state with the queue's rest. -/
theorem step_cons {s : State} {i : Instr} {r : List Instr} (h : s.pending = i :: r) : step s = exec i { s with pending := r } := by
  simp only [step, h]

end Sys2Proof.Machine
end

