-- ==== Sys2Proof/Tests/Slice0.lean ====
section
/-!
SUPPORT. The model's own tests: ill-formed commands are refused, the hypotheses of each statement are met by a concrete state,
and single steps on small states give what the spec's rules say. Expected values are computed by hand from the rule cited.
-/
namespace Sys2Proof.Tests
set_option Elab.async false
open Sys2Proof Sys2Proof.Machine

/-! ### Helpers -/

/-- The next state of an outcome. -/
def nxt : Out → State
  | .next t => t
  | _ => State.reset

/-- The outcome is a next state. -/
def went : Out → Bool
  | .next _ => true
  | _ => false

/-- The module serves, partition 0 is active on port 0 with cluster 0, whose bank 64 is cell 0's, bank 0 the vector domain's and
bank 1 the host's; HBM channel 0 holds its extent. -/
def base : State :=
  { stage := 5, staging := false, outcome := 1
    clus := [(0, { part := some 0 })]
    parts := [(0, { st := .active, insts := [0], hbm := [{ first := 0, n := 1, lo := 0, hi := 1 }] })]
    banks := [(0, { code := 4, codeN := 0xFFFB }), (1, { code := 5, codeN := 0xFFFA }), (64, { code := 1, codeN := 0xFFFE })] }

/-- An instruction word (R147). -/
def wd (op d a b f i imm : Nat) : Nat := op * 2 ^ 56 + d * 2 ^ 51 + a * 2 ^ 46 + b * 2 ^ 41 + f * 2 ^ 33 + i * 2 ^ 32 + imm

/-- Context 0 of cell 0 of cluster 0 stands at word n, which holds w, with general registers g. -/
def atWord (n w : Nat) (g : List (Nat × Nat)) : State :=
  { base with
    cells := [(0, { pm := [(n, BitVec.ofNat 64 w)], pmw := [(n, true)]
                    ctx := [(0, { st := .ready, pc := n, task := some 0, g := g.map fun x => (x.1, BitVec.ofNat 64 x.2) })] })]
    tasks := [(0, { clus := [0], st := [(0, .running)] })] }

/-- The register that an instruction at word 0 leaves in context 0. -/
def regAfter (o : Out) (j : Nat) : Nat := ((ctxOf (nxt o) 0 0 0).reg j).toNat

/-- The outcome is the next state t. -/
def isNext (o : Out) (t : State) : Bool :=
  match o with
  | .next u => u == t
  | _ => false

/-- The command is ill-formed and faults. -/
def illFormed (i : Instr) : Bool :=
  !i.wellFormed && match exec i State.reset with
    | .fault .noSuchUnit => true
    | _ => false

/-! ### A command that names a unit the module does not have is ill-formed and faults: one term for each check -/

theorem test_ill_formed_1 : ([.registerWrite 20 0 0 0, .expertRangeAccess 20 0 0 false 0, .opNop 96 0 0, .opNop 0 32 0,
    .opNop 0 0 4, .opEnd 96 0 0, .opEnd 0 32 0, .opEnd 0 0 4,
    .opBr 96 0 0, .opBr 0 32 0, .opBr 0 0 4, .opBc 96 0 0,
    .opBc 0 32 0, .opBc 0 0 4, .opBrl 96 0 0, .opBrl 0 32 0,
    .opBrl 0 0 4, .opJr 96 0 0, .opJr 0 32 0, .opJr 0 0 4,
    .opAdd 96 0 0, .opAdd 0 32 0, .opAdd 0 0 4, .opSub 96 0 0,
    .opSub 0 32 0, .opSub 0 0 4, .opAnd 96 0 0, .opAnd 0 32 0,
    .opAnd 0 0 4, .opOr 96 0 0, .opOr 0 32 0, .opOr 0 0 4,
    .opXor 96 0 0, .opXor 0 32 0, .opXor 0 0 4, .opShl 96 0 0,
    .opShl 0 32 0, .opShl 0 0 4, .opShr 96 0 0, .opShr 0 32 0,
    .opShr 0 0 4, .opSar 96 0 0, .opSar 0 32 0, .opSar 0 0 4,
    .opMul 96 0 0, .opMul 0 32 0, .opMul 0 0 4, .opMin 96 0 0,
    .opMin 0 32 0, .opMin 0 0 4, .opMax 96 0 0, .opMax 0 32 0,
    .opMax 0 0 4, .opSlt 96 0 0, .opSlt 0 32 0, .opSlt 0 0 4,
    .opSltu 96 0 0, .opSltu 0 32 0, .opSltu 0 0 4, .opInsh 96 0 0] : List Instr).all illFormed = true := by
  decide +kernel

theorem test_ill_formed_2 : ([.opInsh 0 32 0, .opInsh 0 0 4, .opShacc 96 0 0, .opShacc 0 32 0,
    .opShacc 0 0 4, .opReq 96 0 0, .opReq 0 32 0, .opReq 0 0 4,
    .opLd 96 0 0, .opLd 0 32 0, .opLd 0 0 4, .opSt 96 0 0,
    .opSt 0 32 0, .opSt 0 0 4, .opAadd 96 0 0, .opAadd 0 32 0,
    .opAadd 0 0 4, .opAswp 96 0 0, .opAswp 0 32 0, .opAswp 0 0 4,
    .opWaitm 96 0 0, .opWaitm 0 32 0, .opWaitm 0 0 4, .opWaitmReread 96 0 0,
    .opWaitmReread 0 32 0, .opWaitmReread 0 0 4, .opGive 96 0 0, .opGive 0 32 0,
    .opGive 0 0 4, .opBuild 96 0 0, .opBuild 0 32 0, .opBuild 0 0 4,
    .buildStart 96 0, .buildStart 0 32, .opSweep 96 0 0, .opSweep 0 32 0,
    .opSweep 0 0 4, .sweepStart 96 0, .sweepStart 0 32, .opFence 96 0 0,
    .opFence 0 32 0, .opFence 0 0 4, .fenceComplete 96 0, .fenceComplete 0 32,
    .opRqpush 96 0 0, .opRqpush 0 32 0, .opRqpush 0 0 4, .opCbload 96 0 0,
    .opCbload 0 32 0, .opCbload 0 0 4, .opAccrd 96 0 0, .opAccrd 0 32 0,
    .opAccrd 0 0 4, .opQpush 96 0 0, .opQpush 0 32 0, .opQpush 0 0 4,
    .opWait 96 0 0, .opWait 0 32 0, .opWait 0 0 4, .opSig 96 0 0] : List Instr).all illFormed = true := by
  decide +kernel

theorem test_ill_formed_3 : ([.opSig 0 32 0, .opSig 0 0 4, .opWaitf 96 0 0, .opWaitf 0 32 0,
    .opWaitf 0 0 4, .opBar 96 0 0, .opBar 0 32 0, .opBar 0 0 4,
    .opRdsys 96 0 0, .opRdsys 0 32 0, .opRdsys 0 0 4, .laneTakeRow 96 0 false,
    .laneTakeRow 0 32 false, .rowRetire 96 0 0, .rowRetire 0 32 0, .rowRetire 0 0 64,
    .blockStaged 96 0, .blockStaged 0 32, .sweepComplete 96 0, .sweepComplete 0 32,
    .tongueRequest 96 0, .tongueRequest 0 32, .tongueAnswer 96 0, .tongueAnswer 0 32,
    .stolenBlockReceive 96 0, .stolenBlockReceive 0 32, .chorusSegment 96 0 0, .chorusSegment 0 32 0,
    .chorusCrcReport 96 0, .chorusCrcReport 0 32, .lutCtxHalt 16 0, .lutCtxStep 16 0,
    .lutGregWrite 0 4 0 0, .lutGregWrite 0 0 32 0, .lutGregWrite 16 0 0 0, .lutPmWrite 0 2048 0,
    .lutPmWrite 16 0 0, .lutCtxPcWrite 0 4 0, .lutCtxPcWrite 16 0 0, .lutAccRead 0 64 0,
    .lutAccRead 0 0 16, .lutAccRead 16 0 0, .lutFaultClear 16 0, .quantJobStart 96,
    .combinePost 96, .combineTimeout 16 0, .combineTimeout 0 64, .quantJobEnd 96,
    .qntJobAddrWrite 16 0 0, .qntCstDataWrite 16 0 0, .qntStatClear 16 0 0, .qntCountClear 16 0,
    .qntRmClear 16 0, .qntHalt 16 0 0, .qntStatSumRead 0 0 8, .qntStatSumRead 16 0 0,
    .denseJob 96, .vecCopy 96, .vecAdd 96, .vecSub 96] : List Instr).all illFormed = true := by
  decide +kernel

theorem test_ill_formed_4 : ([.vecMul 96, .vecFma 96, .vecMax 96, .vecMin 96,
    .vecAbs 96, .vecNeg 96, .vecExp 96, .vecRecip 96,
    .vecRsqrt 96, .vecCmpgt 96, .vecCmpeq 96, .vecSelect 96,
    .vecRsum 96, .vecRmax 96, .vecRsumsq 96, .vecCompress 96,
    .vecExpand 96, .vecCvt 96, .vecQrow 96, .vecRcombine 96,
    .vecOadd 96, .vecGive 96, .jobDoneSignal 96 0, .jobDoneSignal 0 7,
    .gatherSum 96 0 [], .gatherSum 0 4 [], .gatherMean 96 0 [], .gatherMean 0 4 [],
    .gatherWsum 96 0 [], .gatherWsum 0 4 [], .gatherGive 96 0, .gatherGive 0 4,
    .rowReadRetry 96 0 [], .rowReadRetry 0 4 [], .cacheFill 96, .cacheInvalidate 96,
    .tblCacheInv 16 0, .moltReplace 96, .moltAccumulate 96, .moltReplaceCond 96,
    .moltReplica 96, .moltCommit 96 0, .batchIngest 96, .updateJob 96,
    .updHalt 16 0 0, .gpeHalt 0 0 4 0, .gpeHalt 16 0 0 0, .ownerHandover 96 0,
    .ownerHandover 0 576, .bnkOwnerWrite 16 0 0, .bnkOwnerWrite 0 576 0, .bnkWinBaseWrite 16 0,
    .hostWindowAccess 16 0 false [] 0 false, .backgroundScrub (2 ^ 37) 0 0, .clutchFetch 96 0 0 [], .clutchFetch 0 2 0 [],
    .clutchFetch 0 0 8 [], .streamXfer 96 0 0, .streamXfer 0 2 0, .streamXfer 0 0 8] : List Instr).all illFormed = true := by
  decide +kernel

theorem test_ill_formed_5 : ([.streamWait 96 0 0, .streamWait 0 2 0, .streamWait 0 0 8, .streamWaitPass 96 0 0,
    .streamWaitPass 0 2 0, .streamWaitPass 0 0 8, .streamBarrier 96 0 0, .streamBarrier 0 2 0,
    .streamBarrier 0 0 8, .streamLink 96 0 0, .streamLink 0 2 0, .streamLink 0 0 8,
    .streamEnd 96 0 0, .streamEnd 0 2 0, .streamEnd 0 0 8, .deadlineMiss 96 0 0,
    .deadlineMiss 0 2 0, .deadlineMiss 0 0 8, .descriptorRetire 96 0 0, .descriptorRetire 0 2 0,
    .descriptorRetire 0 0 8, .strArm 16 0 0 0, .strArm 0 0 2 0, .strArm 0 0 0 8,
    .mappingFault 96 0 0 0 false, .mappingFault 0 2 0 0 false, .mappingFault 0 0 9 0 false, .streamHalt 96 0 0,
    .streamHalt 0 2 0, .streamHalt 0 0 8, .priResponse 4 0 0, .priResponse 0 512 0,
    .priResponse 0 0 16, .barrierRelease 16, .barrierTimeout 16, .strHalt 16 0 0 false,
    .strHalt 0 0 2 false, .strSlackClear 16 0 0, .strSlackClear 0 0 2, .strSaveBaseWrite 16 0,
    .cmdNop 21, .cmdSubmitRequest 21, .lapseCheck 16, .requestDispatch 16,
    .taskStart 96, .taskEnd 96 0, .dspHoldExpiry 96, .brumationEntry 96,
    .offEntry 96, .wakeComplete 96, .dspHalt 16 0 false, .doorbell 20 false 0 0 [],
    .commandFetch 20 [], .entryReread 20 [], .completionRecordWrite 21, .mbxCplHeadWrite 20 0,
    .mbxErrHeadWrite 20 0, .mailboxEnable 20 false, .atsInvalidate 4 1 0 0, .atsInvalidate 0 0 0 0] : List Instr).all illFormed = true := by
  decide +kernel

theorem test_ill_formed_6 : ([.atsInvalidate 0 17 0 0, .hostReadRefused 96 0 0, .hostReadRefused 0 2 0, .hostReadRefused 0 0 9,
    .cxlMemAccess 4 0 0 false [] 0 false, .cxlMemAccess 0 16 0 false [] 0 false, .cmdLoadModel 21, .cmdBind 21,
    .cmdUnbind 21, .cmdUpdateRows 21, .cmdBarrier 21, .cmdQuery 21,
    .cmdResumeStream 21, .cmdSetBudget 21, .cmdReclaim 21, .cmdPathFlush 21,
    .cmdScrub 21, .cmdContinue 21, .cmdRepairReset 21, .cmdFreezeRelease 21,
    .cmdFwUpdate 21 false false, .cmdCancel 21, .perst 4 1 0, .perst 0 0 0,
    .perst 0 7 0, .flr 4 0, .flr 0 17, .tokenCommit 16,
    .devPortCfgWrite 4 0 {}, .msixSend 20 0 false, .msixSend 0 3 false, .clusterDrainLimit 96,
    .cellReset 96 0, .cellReset 0 32, .clusterReset 96, .partitionReset 16 false,
    .rdmaWrite 1024 0 0 [], .rdmaWriteImmediate 1024 0 0 0 [], .rdmaRead 1024 0 0 0, .roceSend 1024 [],
    .udpDatagram 1024 0 [], .batchAcknowledgement 1024, .cnpReceive 1024, .ecnCeReceive 1024,
    .flitReceive 16 0 [] [], .nakReplay 16 0, .ackTimeoutReplay 16, .linkTrain 16 0 false {},
    .linkSoakEnd 16 0 false, .linkLossOfLock 16, .retrain 16, .liveRetrainEnd 16 0 false {} 0 false,
    .linkDisable 16 false, .ethernetLinkDown 4 0, .netPortEnable 4 false, .cellRetirement 96 0 false,
    .cellRetirement 0 32 false, .clusterRetirement 96 false, .hbmChannelRetirement 512, .hbmMoveStep 512] : List Instr).all illFormed = true := by
  decide +kernel

theorem test_ill_formed_7 : ([.bankMove 96 0, .bankMove 0 576, .coreRestart 4, .injectCrcFailure 16,
    .sensorRead 5 none, .thermtrip 3, .thermtrip 8, .stagingDrain 96 0,
    .stagingDrain 0 576, .bulkPortLinkDown 4 false, .pfcPauseReceive 4 0 false, .pfcPauseReceive 0 8 false,
    .roceAckTimeout 1024 0, .reclaimLockoutExpiry 16, .streamGrant 0 2 [] [], .streamGrant 96 4 [] [],
    .streamGrant 100 0 [] [], .perst 0 1 3] : List Instr).all illFormed = true := by
  decide +kernel

/-! ### Cells (chapter 5) -/

/-- Fetches, as a Bool. -/
def fetchesB (s : State) (c k x op : Nat) (w : CellWord) : Bool :=
  decide (c < 96 ∧ k < 32 ∧ x < 4 ∧ canIssue s c k x = true ∧ mget false (cellOf s c k).pmw (ctxOf s c k x).pc = true ∧
    mget 0 (cellOf s c k).pmEcc (ctxOf s c k x).pc = 0 ∧ cellWord (mget 0 (cellOf s c k).pm (ctxOf s c k x).pc) = w ∧ w.op = op ∧
    wordOk w = true)

theorem fetches_of {s : State} {c k x op : Nat} {w : CellWord} (h : fetchesB s c k x op w = true) : Fetches s c k x op w :=
  by unfold Fetches; exact of_decide_eq_true h

/-- The word at word 0 is fetched, and a property of the state after an instruction holds. -/
def ran (s : State) (op : Nat) (i : Nat → Nat → Nat → Instr) (f : State → Bool) : Bool :=
  fetchesB s 0 0 0 op (cellWord (mget 0 (cellOf s 0 0).pm (ctxOf s 0 0 0).pc)) && went (exec (i 0 0 0) s) && f (nxt (exec (i 0 0 0) s))

/-- g3 of context 0, or the value on its way to it. -/
def g3 (s : State) : Nat := ((mget none (ctxOf s 0 0 0).late 3).getD ((ctxOf s 0 0 0).reg 3)).toNat

/-- Context 0 stands at a word, ready. -/
def stands (n : Nat) (s : State) : Bool := (ctxOf s 0 0 0).pc == n && (ctxOf s 0 0 0).st == .ready

/-- Fields are read where R147 puts them: OP [63:56], D [55:51], A [50:46], B [45:41], F [40:33], I [32], IMM [31:0]. -/
theorem test_word_fields : cellWord (BitVec.ofNat 64 0x1018_4400_0000_0000) = ⟨0x10, 3, 1, 2, 0, false, 0⟩ ∧
    cellWord (BitVec.ofNat 64 0x1018_4001_FFFF_FFFB) = ⟨0x10, 3, 1, 0, 0, true, 0xFFFF_FFFB⟩ := by decide

/-- Hypotheses of CellArithmetic, and Table 5.5's results: OP, g1, g2 and the g3 that the rule gives. -/
def sums : List (Nat × (Nat → Nat → Nat → Instr) × Nat × Nat × Nat) :=
  [(0x10, .opAdd, 2 ^ 64 - 1, 2, 1), (0x11, .opSub, 1, 2, 2 ^ 64 - 1), (0x12, .opAnd, 12, 10, 8), (0x13, .opOr, 12, 10, 14),
   (0x14, .opXor, 12, 10, 6), (0x15, .opShl, 3, 65, 6), (0x16, .opShr, 2 ^ 63, 63, 1), (0x17, .opSar, 2 ^ 63, 63, 2 ^ 64 - 1),
   (0x18, .opMul, 2 ^ 63, 2, 0), (0x19, .opMin, 2 ^ 64 - 1, 1, 2 ^ 64 - 1), (0x1A, .opMax, 2 ^ 64 - 1, 1, 1),
   (0x1B, .opSlt, 2 ^ 64 - 1, 1, 1), (0x1C, .opSltu, 2 ^ 64 - 1, 1, 0), (0x1F, .opReq, 300, 0, 127)]

theorem test_arithmetic : (sums.all fun r => ran (atWord 0 (wd r.1 3 1 (if r.1 = 0x1F then 0 else 2) 0 0 0) [(1, r.2.2.1), (2, r.2.2.2.1)]) r.1 r.2.1
    fun t => g3 t == r.2.2.2.2 && stands 1 t) = true := by decide +kernel

/-- INSH puts IMM above the low half (Table 5.5); SHACC adds gA shifted left, or rounded to even as it is shifted right, and clamps
under F = 2; ADD takes its immediate sign-extended; REQ under F = 1 clamps to 7 (R154). -/
theorem test_arithmetic_forms :
    (ran (atWord 0 (wd 0x1D 3 1 0 0 0 5) [(1, 2 ^ 40 + 9)]) 0x1D .opInsh fun t => g3 t == 9 + 5 * 2 ^ 32) &&
    (ran (atWord 0 (wd 0x1E 3 1 0 0 0 4) [(1, 3), (3, 2)]) 0x1E .opShacc fun t => g3 t == 50) &&
    (ran (atWord 0 (wd 0x1E 3 1 0 1 0 1) [(1, 5), (3, 0)]) 0x1E .opShacc fun t => g3 t == 2) &&
    (ran (atWord 0 (wd 0x1E 3 1 0 2 0 0) [(1, 1), (3, 2 ^ 63 - 1)]) 0x1E .opShacc fun t => g3 t == 2 ^ 63 - 1) &&
    (ran (atWord 0 (wd 0x10 3 1 0 0 1 (2 ^ 32 - 5)) [(1, 3)]) 0x10 .opAdd fun t => g3 t == 2 ^ 64 - 2) &&
    (ran (atWord 0 (wd 0x1F 3 1 0 1 0 1) [(1, 13)]) 0x1F .opReq fun t => g3 t == 6) = true := by decide +kernel

/-- A write to g0 is discarded (R142): g0 reads 0 and nothing but the position changes. -/
theorem test_g0 : (ran (atWord 0 (wd 0x10 0 1 2 0 0 0) [(1, 5), (2, 7)]) 0x10 .opAdd fun t =>
    ((ctxOf t 0 0 0).reg 0) == 0 && stands 1 t && (ctxOf t 0 0 0).g == [(1, 5), (2, 7)]) = true := by decide +kernel

/-- Hypotheses of CellControlFlow: NOP, BR, BC with each of its six conditions held and not held at a boundary (Table 5.6), BRL and
JR to word 2,047, END. -/
theorem test_branches :
    (ran (atWord 0 0 []) 0 .opNop (stands 1)) && (ran (atWord 0 (wd 2 0 0 0 0 0 2047) []) 2 .opBr (stands 2047)) &&
    ([(0, 5, 5, 9), (0, 5, 6, 1), (1, 5, 6, 9), (1, 5, 5, 1), (2, 2 ^ 64 - 1, 0, 9), (2, 0, 2 ^ 64 - 1, 1), (3, 0, 0, 9), (3, 2 ^ 64 - 1, 0, 1),
      (4, 0, 2 ^ 64 - 1, 9), (4, 3, 3, 1), (5, 3, 3, 9), (5, 0, 2 ^ 64 - 1, 1)].all fun r =>
        ran (atWord 0 (wd 3 0 1 2 r.1 0 9) [(1, r.2.1), (2, r.2.2.1)]) 3 .opBc (stands r.2.2.2)) &&
    (ran (atWord 7 (wd 4 3 0 0 0 0 2047) []) 4 .opBrl fun t => g3 t == 8 && stands 2047 t) &&
    (ran (atWord 0 (wd 5 0 1 0 0 0 0) [(1, 2047)]) 5 .opJr (stands 2047)) &&
    (ran (atWord 0 (wd 1 0 0 0 0 0 0) [(1, 1)]) 1 .opEnd fun t => (ctxOf t 0 0 0) == {}) = true := by decide +kernel

/-- A Clean access of a byte range of bank 64, which cell 0 owns, at the keys that R269 gives. -/
theorem clean_cell : Clean (atWord 0 0 []) (.cell 0 0) 0 none 0x2000_0008 8 ((List.range 8).map (0x2000_0008 + ·)) := by
  unfold Clean; exact ⟨nofun, rfl, by decide +kernel⟩

/-- Hypotheses of CellMemory: an aligned address of the cell's own bank; LD sign-extends under F = 4; ST stores the low bytes; AADD wraps,
saturates, and returns the old value; ASWP swaps; WAITM goes on or waits; GIVE hands bank 64 to code 0. -/
theorem test_memory :
    (ran { atWord 0 (wd 0x20 3 1 0 4 0 8) [(1, 0x2000_0000)] with mem := [(0x2000_0008, 0x80)] } 0x20 .opLd fun t => g3 t == 2 ^ 64 - 128 && stands 1 t) &&
    (ran { atWord 0 (wd 0x20 3 1 0 0 0 8) [(1, 0x2000_0000)] with mem := [(0x2000_0008, 0x80)] } 0x20 .opLd fun t => g3 t == 128) &&
    (ran (atWord 0 (wd 0x21 0 1 2 1 0 0) [(1, 0x2000_0000), (2, 0x1_2345)]) 0x21 .opSt fun t => t.mem == [(0x2000_0000, 0x45), (0x2000_0001, 0x23)]) &&
    (ran { atWord 0 (wd 0x22 3 1 2 0 0 0) [(1, 0x2000_0000), (2, 2 ^ 32 - 1)] with mem := [(0x2000_0000, 1)] } 0x22 .opAadd fun t => g3 t == 1 && t.mem == []) &&
    (ran { atWord 0 (wd 0x22 3 1 2 1 0 0) [(1, 0x2000_0000), (2, 0x3F80_0000)] with mem := [(0x2000_0002, 0x80), (0x2000_0003, 0x3F)] } 0x22 .opAadd
      fun t => g3 t == 0x3F80_0000 && t.mem == [(0x2000_0003, 0x40)]) &&
    (ran { atWord 0 (wd 0x22 3 1 2 2 0 0) [(1, 0x2000_0000), (2, 100)] with mem := [(0x2000_0000, 100)] } 0x22 .opAadd fun t => g3 t == 100 && t.mem == [(0x2000_0000, 127)]) &&
    (ran { atWord 0 (wd 0x23 3 1 2 0 0 0) [(1, 0x2000_0000), (2, 2)] with mem := [(0x2000_0000, 1)] } 0x23 .opAswp fun t => g3 t == 1 && t.mem == [(0x2000_0000, 2)]) &&
    (ran (atWord 0 (wd 0x23 3 1 2 1 0 0) [(1, 0x2000_0000), (2, 2 ^ 56)]) 0x23 .opAswp fun t => t.mem == [(0x2000_0007, 1)]) &&
    (ran { atWord 0 (wd 0x24 3 1 2 0 0 0) [(1, 0x2000_0000), (2, 1), (3, 1)] with mem := [(0x2000_0000, 3)] } 0x24 .opWaitm (stands 1)) &&
    (ran (atWord 0 (wd 0x24 3 1 2 0 0 0) [(1, 0x2000_0000), (2, 1), (3, 1)]) 0x24 .opWaitm fun t => (ctxOf t 0 0 0).st == .waitSync) &&
    (ran (atWord 0 (wd 0x25 0 1 2 0 0 0) [(1, 0x2000_0000), (2, 0)]) 0x25 .opGive fun t =>
      (bankOf t 0 64).pending == some 0 && (bankOf t 0 64).giver == some 0 && stands 1 t) = true := by decide +kernel

/-- A context that waits reads again (R163). -/
theorem test_waitm_reread :
    let s := nxt (exec (.opWaitm 0 0 0) (atWord 0 (wd 0x24 3 1 2 0 0 0) [(1, 0x2000_0000), (2, 1), (3, 1)]))
    (ran s 0x24 .opWaitmReread fun t => (ctxOf t 0 0 0).st == .waitSync) &&
    (ran { s with mem := [(0x2000_0000, 1)] } 0x24 .opWaitmReread (stands 1)) = true := by decide +kernel

/-- Hypotheses of CellSynchronisation: SIG adds and sets; WAITF passes at a distance below 2^31 and waits at 2^31; each form of WAIT; BAR;
RDSYS of the cell's number. -/
theorem test_synchronisation :
    let b := { base with clus := [(0, { part := some 0, flags := [(63, 2 ^ 32 - 1)] })] }
    let at' (w : Nat) (g : List (Nat × Nat)) : State := { atWord 0 w g with clus := b.clus }
    (ran (at' (wd 0x41 0 1 0 0 0 63) [(1, 3)]) 0x41 .opSig fun t => mget 0 (clu t 0).flags 63 == 2 && stands 1 t) &&
    (ran (at' (wd 0x41 0 1 0 1 0 63) [(1, 3)]) 0x41 .opSig fun t => mget 0 (clu t 0).flags 63 == 3) &&
    (ran (at' (wd 0x42 0 1 0 0 0 63) [(1, 2 ^ 31)]) 0x42 .opWaitf (stands 1)) &&
    (ran (at' (wd 0x42 0 1 0 0 0 63) [(1, 2 ^ 31 - 1)]) 0x42 .opWaitf fun t => (ctxOf t 0 0 0).st == .waitSync) &&
    ([0, 1, 2, 3, 5].all fun f => ran (atWord 0 (wd 0x40 0 0 0 f 0 0) []) 0x40 .opWait (stands 1)) &&
    (ran (atWord 0 (wd 0x40 3 0 0 4 0 0) [(3, 7)]) 0x40 .opWait fun t => g3 t == 0 && stands 1 t) &&
    (ran (atWord 0 (wd 0x43 0 0 0 0 0 0) []) 0x43 .opBar fun t => (ctxOf t 0 0 0).arrived) &&
    ([(0, 0), (1, 0), (2, 0), (3, 0), (4, 0), (5, 15), (6, 0)].all fun r =>
      ran (atWord 0 (wd 0x50 3 0 0 0 0 r.1) [(3, 9)]) 0x50 .opRdsys fun t => g3 t == r.2) = true := by decide +kernel

/-- Hypotheses of CellFaults: a word not written, an uncorrectable word, a word that is not permitted, a jump too far, NOP in word 2,047,
a misaligned access; each puts the context in FAULTED and reports it (R182). -/
theorem test_cell_faults :
    let bad (o : Out) (st d : Nat) : Bool := (ctxOf (nxt o) 0 0 0).st == .faulted && ((nxt o).reports.map fun r => (r.status, r.detail)) == [(st, d)]
    let s := atWord 0 (wd 0x10 3 1 2 0 0 0) []
    let hole := { s with cells := [(0, { cellOf s 0 0 with pmw := [] })] }
    let sick := { s with cells := [(0, { cellOf s 0 0 with pmEcc := [(0, 2)] })] }
    (bad (exec (.opAdd 0 0 0) hole) 1 0x05_0002) && (bad (exec (.opAdd 0 0 0) sick) 9 0x05_0006) &&
    (bad (exec (.opAdd 0 0 0) (atWord 0 (wd 0x60 0 0 0 0 0 0) [])) 1 0x05_0001) && (bad (exec (.opAdd 0 0 0) (atWord 0 (wd 0x10 0 0 0 1 0 0) [])) 1 0x05_0001) &&
    (bad (exec (.opJr 0 0 0) (atWord 0 (wd 5 0 1 0 0 0 0) [(1, 2048)])) 1 0x05_0002) && (bad (exec (.opNop 0 0 0) (atWord 2047 0 [])) 1 0x05_0002) &&
    (bad (exec (.opLd 0 0 0) (atWord 0 (wd 0x20 3 1 0 1 0 0) [(1, 0x2000_0001)])) 1 0x05_0003) &&
    (bad (exec (.opSt 0 0 0) (atWord 0 (wd 0x21 0 1 2 3 0 4) [(1, 0x2000_0000)])) 1 0x05_0003) = true := by decide +kernel

/-! ### The LUT engine (chapter 3 and R165 to R177) -/

/-- A word of a job whose LUT engine is set up. -/
def atEngine (w : Nat) (g : List (Nat × Nat)) (f : Cell → Cell) : State := modCell 0 0 f (atWord 0 w g)

/-- Hypotheses of EngineOperations: a free engine, and operands that each operation takes (Tables 5.8 to 5.10, 3.7). -/
theorem test_engine_operations :
    let own (s : State) : Bool := (cellOf s 0 0).engOwner == some 0
    let sw : Sweep := { task := 0, ord := 5 }
    (ran (atEngine (wd 0x30 3 1 2 0 0 (4 + 2 * 16 + 5 * 64)) [(1, 0x2000_0000), (2, 8 + 3 * 2 ^ 10)] id) 0x30 .opBuild fun t => own t && stands 1 t &&
      (cellOf t 0 0).builds == [{ src := 0x2000_0000, base := 8, count := 4, atag := 4, mode := 2, pfmt := 5 }]) &&
    (ran (atEngine (wd 0x31 0 1 2 0 0 0) [(1, 3 * 2 ^ 10 + 2 * 2 ^ 23 + 1 * 2 ^ 27), (2, 0x2000_0100)] id) 0x31 .opSweep fun t => own t &&
      ((cellOf t 0 0).pend.map fun w => (w.count, w.tokens, w.wtag, w.wout, w.openRows)) == some (4, 1, 2, 1, true)) &&
    (ran (atEngine (wd 0x32 0 0 0 0 0 (2 + 16)) [] id) 0x32 .opFence fun t => own t && ((cellOf t 0 0).fences.map fun f => (f.wtag, f.adig)) == [(2, 1)]) &&
    (ran { atEngine (wd 0x33 0 1 0 0 0 65) [(1, 0x2000_0000)] (fun v => { v with engOwner := some 0, pend := some sw }) with mem := [(0x2000_0000, 16), (0x2000_0004, 1)] } 0x33 .opRqpush
      fun t => own t && stands 1 t && ((cellOf t 0 0).rq.map fun b => (b.first, b.count, b.sweep)) == [(16, 1, 5)] && (cellOf t 0 0).pend == some { sw with openRows := false }) &&
    (ran (atEngine (wd 0x33 0 1 0 0 0 2) [(1, 0x2000_0000)] fun v => { v with run := some sw, rq := List.replicate 31 {} }) 0x33 .opRqpush
      fun t => (cellOf t 0 0).rq.length == 32 && (ctxOf t 0 0 0).st == .waitEngine && (ctxOf t 0 0 0).pushed == 1) &&
    (ran { atEngine (wd 0x34 0 1 0 0 0 0) [(1, 0x2000_0000)] id with mem := [(0x2000_0000, 0x80), (0x2000_0001, 0x3F)] } 0x34 .opCbload fun t => own t && (cellOf t 0 0).cb.isSome) &&
    (ran (atEngine (wd 0x35 3 1 0 0 0 15) [(1, 63)] fun v => { v with acc := [(1023, 2 ^ 31)] }) 0x35 .opAccrd fun t => own t && g3 t == 2 ^ 31 - 1) = true := by decide +kernel

/-- Hypotheses of EngineWaits: an unacknowledged GIVE; an engine that serves another task; a full issue queue; a pending or running sweep. -/
theorem test_engine_waits :
    let held (s : State) (i : Nat → Nat → Nat → Instr) (n : Nat) : Bool := isNext (exec (i 0 0 0) s) s && ctxCode s 0 0 0 == n
    let given (s : State) : State := { s with banks := [(64, { code := 1, codeN := 0xFFFE, pending := some 0, giver := some 0 })] }
    let ws : List (Nat × Nat × (Nat → Nat → Nat → Instr)) := [(0x30, 0, .opBuild), (0x31, 0, .opSweep), (0x32, 0, .opFence), (0x33, 1, .opRqpush), (0x34, 0, .opCbload), (0x35, 0, .opAccrd)]
    let late (s : State) : State := modCell 0 0 (fun v => v.modCtx 0 fun x => x.setLate 1 7) s
    (ws.all fun r => held (given (atEngine (wd r.1 0 0 0 0 0 r.2.1) [] id)) r.2.2 3) &&
    (ws.all fun r => held (atEngine (wd r.1 0 0 0 0 0 r.2.1) [] fun v => { v with engOwner := some 1 }) r.2.2 3) &&
    (held (atEngine (wd 0x30 0 0 0 0 0 0) [] fun v => { v with builds := [{}, {}, {}, {}] }) .opBuild 3) &&
    (held (atEngine (wd 0x31 0 0 0 0 0 0) [] fun v => { v with pend := some {} }) .opSweep 3) &&
    (held (atEngine (wd 0x33 0 0 0 0 0 1) [] fun v => { v with rq := List.replicate 32 {}, run := some {} }) .opRqpush 3) &&
    (held (atEngine (wd 0x35 0 0 0 0 0 0) [] fun v => { v with run := some {} }) .opAccrd 3) &&
    (held (given (atWord 0 (wd 0x36 0 0 0 0 0 0) [])) .opQpush 3) && (held (given (atWord 0 (wd 0x01 0 0 0 0 0 0) [])) .opEnd 4) &&
    (held (given (atWord 0 (wd 0x41 0 0 0 0 0 0) [])) .opSig 4) &&
    (let s := late (atWord 0 (wd 0x10 3 1 2 0 0 0) []); ctxCode s 0 0 0 == 2 &&
      (let t := nxt (exec (.opAdd 0 0 0) s); ((ctxOf t 0 0 0).reg 1) == 7 && (ctxOf t 0 0 0).late == [] && (ctxOf t 0 0 0).pc == 0)) = true := by decide +kernel

/-- Hypotheses of QuantizerPush: VALID of the result record at 0x40, which the descriptor at 0 names, is cleared; a queue of 8 is full. -/
theorem test_qpush :
    let s := { atWord 0 (wd 0x36 0 0 0 0 0 0) [] with mem := [(48, 0x40), (64, 0xFF)] }
    (ran s 0x36 .opQpush fun t => t.mem == [(48, 0x40), (64, 0x7F)] && (clu t 0).qq == [{ addr := 0, task := some 0, ctx := some 0 }] && (ctxOf t 0 0 0).qrec == some 64) &&
    (ran (modClu 0 (fun q => { q with qq := List.replicate 8 {} }) s) 0x36 .opQpush fun _ => false) == false &&
    (let u := modClu 0 (fun q => { q with qq := List.replicate 8 {} }) s; isNext (exec (.opQpush 0 0 0) u) u) = true := by decide +kernel

/-- Hypotheses of BuildStarts and TableEntries: the activations 1, 2, 3 and -1 (I4) give SUBSET entries by R75; a sweep issued before
holds the build, and BUILD_WAIT counts. -/
theorem test_build_starts :
    let b : BuildJob := { ord := 1, src := 0x2000_0000, count := 4, nooff := true, atag := 4 }
    let s := { atEngine 0 [] (fun v => { v with builds := [b] }) with mem := [(0x2000_0000, 0x21), (0x2000_0001, 0xF3)] }
    (mget {} (cellOf (nxt (exec (.buildStart 0 0) s)) 0 0).slots 0).t == [0, 1, 2, 3, 3, 4, 5, 6, -1, 0, 1, 2, 2, 3, 4, 5] &&
    (cellOf (nxt (exec (.buildStart 0 0) s)) 0 0).builds == [] &&
    (let u := modCell 0 0 (fun v => { v with run := some {} }) s
     isNext (exec (.buildStart 0 0) u) u && mget 0 (cellOf (nxt (step u)) 0 0).cnt 5 == 64) = true := by decide +kernel

/-- Hypotheses of LookupsAreDotProduct: a T2 row +1, -1, 0, escape against I4 activations 1, 2, 3, -1 sums to 1 - 2. -/
theorem test_lookups :
    let b : BuildJob := { count := 4, atag := 4, nooff := true }
    let act (i : Nat) : Nat := [1, 2, 3, 15].getD i 0
    let w (i : Nat) : Nat := [1, 2, 0, 3].getD i 0
    lookSum (rowLooks .t2 1 1 (buildSlot b .i4 .l4 [] act fun _ => 0) w) = -1 := by decide +kernel

/-- Hypotheses of SweepsAndFences: a pending sweep whose slots are built starts, a sweep whose row set is closed and empty ends, and a fence
sets CUR_TAG (R171, R174). -/
theorem test_sweeps_and_fences :
    let w : Sweep := { count := 1, wtag := 2, wout := 1 }
    (cellOf (nxt (exec (.sweepStart 0 0) (atEngine 0 [] fun v => { v with pend := some w, curWtag := 2, slots := [(0, { built := true, adig := 0 })] }))) 0 0).run == some { w with et := [] } &&
    (cellOf (nxt (exec (.sweepComplete 0 0) (atEngine 0 [] fun v => { v with run := some { w with openRows := false } }))) 0 0).run == none &&
    (let v := cellOf (nxt (exec (.fenceComplete 0 0) (atEngine 0 [] fun v => { v with fences := [{ wtag := 3, adig := 1 }] }))) 0 0; (v.curWtag, v.curAdig, v.fences) == (3, 1, [])) = true := by decide +kernel

/-- Hypotheses of RowsFlow: a block's rows are staged; a lane takes the row, whose sum is that of its look-ups; the row retires and I32 stores it. -/
theorem test_rows_flow :
    let w : Sweep := { count := 1, wtag := 2, wout := 1, openRows := false, outBase := 0x2000_0100, steal := false }
    let sl : TSlot := { built := true, t := [0, 1, 2, 3, 3, 4, 5, 6, -1, 0, 1, 2, 2, 3, 4, 5] }
    let s := { atEngine 0 [] (fun v => { v with run := some w, curWtag := 2, slots := [(0, sl)], rq := [{ wtag := 2, wbase := 0x2000_0000, wstride := 8 }] }) with mem := [(0x2000_0000, 0x05)] }
    let s1 := nxt (exec (.blockStaged 0 0) s)
    let s2 := nxt (exec (.laneTakeRow 0 0 false) s1)
    let s3 := nxt (exec (.rowRetire 0 0 0) s2)
    (((cellOf s1 0 0).rq.map fun b => b.staged.isSome) == [true]) && (mget 0 (cellOf s2 0 0).acc 0 == 3) && ((cellOf s2 0 0).rq == []) &&
    (s3.mem == [(0x2000_0000, 0x05), (0x2000_0100, 3)]) && ((cellOf s3 0 0).opened == []) = true := by decide +kernel


/-! ### Stealing, program images, the cell registers, fault reports -/

/-- As base, and partition 0's host is at expert level (R12). -/
def expert : State := { base with dregs := [(Reg.DEV_EXPERT, 1)] }

/-- HostWrites, as a Bool. -/
def hostB (s : State) (p : Nat) : Bool := decide (p < 16) && mbxExists s p && (dreg s Reg.DEV_EXPERT).testBit p && !hostFrozen s p

theorem host_of {s : State} {p : Nat} (h : hostB s p = true) : HostWrites s p := by
  simp only [hostB, Bool.and_eq_true, Bool.not_eq_true', decide_eq_true_eq] at h
  exact ⟨h.1.1.1, h.1.1.2, h.1.2, h.2⟩

/-- Hypotheses of LutRegisterWrites and of the register statements below: a host at expert level, not frozen. -/
theorem host_writes : HostWrites expert 0 := host_of (by decide +kernel)

/-- Hypotheses of TonguesSteal: cell 0 idle in a sweep; a returned block in the pool; cell 1 with two unstarted blocks, then one; a block
given, and a refusal received; every victim tried. -/
theorem test_tongues :
    let w : Sweep := { steal := true, openRows := false, ord := 7 }
    let two : Cell := { run := some { steal := true, ord := 3 }, rq := [{ sweep := 3 }, { sweep := 3, first := 9 }] }
    let s : State := { base with cells := [(0, { run := some w }), (1, two)], tasks := [(0, { clus := [0], st := [(0, .running)] })] }
    let asked := nxt (exec (.tongueRequest 0 0) s)
    let given := nxt (exec (.tongueAnswer 0 0) asked)
    let got := nxt (exec (.stolenBlockReceive 0 0) given)
    let none' := nxt (exec (.tongueAnswer 0 0) (modCell 0 1 (fun v => { v with rq := [{ sweep := 3 }] }) asked))
    isNext (exec (.tongueRequest 0 0) { s with pool := [{ task := 0, idx := 0, blk := { first := 5 } }] }) { s with given := [{ thief := 0, blk := some { first := 5 } }] } &&
    ((cellOf asked 0 0).tongue == some 1) && (mget 0 (cellOf asked 0 0).cnt 8 == 1) &&
    (given.given == [{ thief := 0, blk := some { sweep := 3, first := 9 } }]) && ((cellOf given 0 1).rq == [{ sweep := 3 }]) &&
    (mget 0 (cellOf given 0 1).cnt 10 == 1) && ((cellOf got 0 0).rq == [{ sweep := 7, first := 9 }]) && ((cellOf got 0 0).tongue == none) &&
    (none'.given == [{ thief := 0, blk := none }]) &&
    (((cellOf (nxt (exec (.stolenBlockReceive 0 0) none')) 0 0).run.map Sweep.tried) == some [1]) &&
    (((cellOf (nxt (exec (.tongueRequest 0 0) (modCell 0 0 (fun v => { v with run := some { w with tried := [1] } }) s))) 0 0).run.map Sweep.searchDone) == some true) = true := by decide +kernel

/-- Hypotheses of ChorusSegments: a segment to send to a free cell; its CRC agreeing; disagreeing with a try left, and with none. -/
theorem test_chorus :
    let seg : Seg := { base := 2046, crc := wordsCrc [5, 6], id := 9, words := [5, 6] }
    let s : State := { base with chorus := [{ clu := 0, cell := 3 }, { clu := 0, cell := 0, seg := seg }] }
    let sent (n flip : Nat) : State := nxt (exec (.chorusSegment 0 0 flip) { s with chorus := [{ clu := 0, cell := 0, seg := seg, tries := n }] })
    let good := nxt (exec (.chorusCrcReport 0 0) (sent 0 0))
    (mget 0 (cellOf (sent 0 1) 0 0).pm 2046 == 4) && (mget 0 (cellOf (sent 0 1) 0 0).pm 2047 == 6) && !mget false (cellOf (sent 0 0) 0 0).pmw 2046 &&
    (good.chorus == []) && ((cellOf good 0 0).imageId == 9) && mget false (cellOf good 0 0).pmw 2047 && !mget false (cellOf good 0 0).pmw 2045 &&
    ((nxt (exec (.chorusCrcReport 0 0) (sent 1 1))).chorus.map fun j => (j.sent, j.tries)) == [(false, 2)] &&
    (let t := nxt (exec (.chorusCrcReport 0 0) (sent 2 1)); t.chorus == [] && mget false (cellOf t 0 0).err 3 && !mget false (cellOf t 0 0).pmw 2046) = true := by decide +kernel

/-- Hypotheses of LutRegisterWrites: cell 0 selected, with context 0 running and context 1 not; and no instance selected. -/
theorem test_lut_registers :
    let s : State := { atWord 0 0 [] with dregs := expert.dregs }
    let r1 := nxt (exec (.lutGregWrite 0 1 31 5) s)
    let h := nxt (exec (.lutCtxStep 0 0x11) s)
    let free : State := { expert with cells := [] }
    let pmw := nxt (exec (.lutPmWrite 0 2047 7) free)
    let far : State := { s with parts := [(0, { part s 0 with regs := [(Reg.LUT_SEL, 1)] })] }
    hostB s 0 && (selCell s 0 == some (0, 0)) && ((ctxOf r1 0 0 1).reg 31 == 5) && ((ctxOf (nxt (exec (.lutGregWrite 0 1 0 5) s)) 0 0 1).reg 0 == 0) &&
    ((ctxOf (nxt (exec (.lutCtxPcWrite 0 3 2047) s)) 0 0 3).pc == 2047) && ((ctxOf h 0 0 0).halt && (ctxOf h 0 0 0).step && !(ctxOf h 0 0 1).halt) &&
    (mget 0 (cellOf pmw 0 0).pm 2047 == 7) && mget false (cellOf pmw 0 0).pmw 2047 &&
    hostFrozen (nxt (exec (.lutGregWrite 0 0 1 5) s)) 0 && hostFrozen (nxt (exec (.lutPmWrite 0 0 5) s)) 0 && !hostFrozen (nxt (exec (.lutCtxHalt 0 1) s)) 0 &&
    (let t := nxt (exec (.lutFaultClear 0 1) (modCell 0 0 (fun v => { v with err := [(0, true), (3, true)], flt := { valid := true } }) s));
      (cellOf t 0 0).err == [(3, true)] && (cellOf t 0 0).flt == {}) &&
    (selCell far 0 == none) && isNext (exec (.lutGregWrite 0 1 31 5) far) far = true := by decide +kernel

/-- Hypotheses of LutAccumulatorRead: -1, a sum that saturates, a pending sweep, an accumulator in error, and a host at base level. -/
theorem test_lut_acc :
    let s : State := { expert with cells := [(0, { acc := [(1023, 2 ^ 31), (0, -1)] })] }
    ((nxt (exec (.lutAccRead 0 0 0) s)).ans == (0, [255, 255, 255, 255, 0, 0, 0, 0])) &&
    (let t := nxt (exec (.lutAccRead 0 63 15) s); t.ans == (0, [255, 255, 255, 127, 0, 0, 0, 0]) && mget 0 (cellOf t 0 0).cnt 4 == 1) &&
    (let t := nxt (exec (.lutAccRead 0 0 0) (modCell 0 0 (fun v => { v with pend := some {} }) s)); t.ans == (0, [0, 0, 0, 0, 0, 0, 0, 0]) && mget false (cellOf t 0 0).err 1) &&
    (let t := nxt (exec (.lutAccRead 0 0 0) (modCell 0 0 (fun v => { v with accEcc := [(0, 1)] }) s));
      t.ans == (0, [255, 255, 255, 255, 0, 0, 0, 0]) && (cellOf t 0 0).accEcc == [] && creg t 0 Reg.BNK_SRAM_ECC == 1) &&
    (let t := nxt (exec (.lutAccRead 0 0 0) (modCell 0 0 (fun v => { v with accEcc := [(0, 2)] }) s)); creg t 0 Reg.BNK_SRAM_ECC == 2 ^ 32 && preg t 0 Reg.BNK_LAST_UE == 3 * 2 ^ 48) &&
    ((nxt (exec (.lutAccRead 0 0 0) { s with dregs := [] })).ans == (1, [])) = true := by decide +kernel

/-- Hypotheses of FaultStopsTask: a task that runs on cluster 0, its request open, and then done. -/
theorem test_fault_stop :
    let s := { atWord 0 0 [] with reports := [{ task := 0, status := 4, detail := 9, clu := 0 }], reqs := [(0, { st := .service, tag := 6, seq := 2 })] }
    let t := nxt (exec .taskFaultStop s)
    (t.reports == []) && ((t.due.map fun d => (d.tag, d.seq, d.status, d.detail)) == [(6, 2, 4, 9)]) && ((ctxOf t 0 0 0) == {}) && (mget .unsent (taskOf t 0).st 0 == .stopped) &&
    ((nxt (exec .taskFaultStop { s with reqs := [(0, { st := .done })] })).due == []) = true := by decide +kernel

/-! ### The vector and dense engines (chapter 6) -/

/-- Bytes of 64-bit words from key k on, in the canonical form. -/
def image (k : Nat) (ws : List Nat) : Mem :=
  ((List.range (8 * ws.length)).map fun i => (k + i, BitVec.ofNat 8 (ws.getD (i / 8) 0 / 2 ^ (8 * (i % 8))))).filter fun x => x.2 != 0

/-- A control word, whose upper half is the complement of its lower (R194). -/
def ctl (lo : Nat) : Nat := lo + (2 ^ 32 - 1 - lo) * 2 ^ 32

/-- A vector job at address 0 of cluster 0's bank 0, with word 0's operation, format and further bits, words 1 to 7, and data from 0x100 on. -/
def vstate (op f more : Nat) (ws : List Nat) (data : List Nat) : State :=
  { base with
    mem := image 0 (ctl (2 + 16 * op + 1024 * f + more) :: ws) ++ image 0x100 data
    tasks := [(0, { clus := [0], st := [(0, .running)] })]
    clus := [(0, { part := some 0, vq := [{}] })] }

/-- Clean, as a Bool. -/
def cleanB (s : State) (m : Master) (p : Nat) (dom : Option Nat) (a n : Nat) (ks : List Nat) : Bool :=
  ((match m with
    | .io _ => false
    | _ => true) &&
  match runEM (keysOf m p dom a n) s with
    | .good l t => l == ks && t == s
    | _ => false) &&
  ks.all fun q => decide (q < 2 ^ 52) && mget 0 s.ecc (wordKey q) == 0 && mget 0 s.inj (wordKey q) == 0 && (bankOf s (bankOfKey q).1 (bankOfKey q).2).staged == []

theorem clean_of {s : State} {m : Master} {p : Nat} {dom : Option Nat} {a n : Nat} {ks : List Nat} (h : cleanB s m p dom a n ks = true) :
    Clean s m p dom a n ks := by
  simp only [cleanB, Bool.and_eq_true] at h
  refine ⟨?_, ?_, fun q hq => by simpa [and_assoc] using List.all_eq_true.mp h.2 q hq⟩
  · rintro d rfl
    simp at h
  · have h := h.1.2
    split at h <;> simp_all

/-- JobRuns of a job at address 0 of cluster 0 that is alone in its queue, as a Bool. -/
def jobB (s : State) (e : Nat) : Bool :=
  let w := words8 ((List.range 64).map (peek s))
  (clu s 0).pw == .on && !isFrozen s (taskOf s 0).part (.vec 0) && engFree s 0 e &&
  (if e = 0 then (clu s 0).dq else (clu s 0).vq) == [{}] && cleanB s (.vec 0) (taskOf s 0).part none 0 64 (List.range 64) &&
  bits (w 0) 63 32 == 2 ^ 32 - 1 - bits (w 0) 31 0 && bits (w 0) 3 0 == e + 1 &&
  (!(w 7).testBit 38 || decide ((mget 0 (clu s 0).flags (bits (w 7) 37 32) + 2 ^ 32 - bits (w 7) 31 0) % 2 ^ 32 < 2 ^ 31))

theorem job_of {s : State} {e : Nat} (h : jobB s e = true) : JobRuns s 0 e {} [] (List.range 64) := by
  simp only [jobB, Bool.and_eq_true, beq_iff_eq, Bool.not_eq_true', Bool.or_eq_true, decide_eq_true_eq] at h
  obtain ⟨⟨⟨⟨⟨⟨⟨h1, h2⟩, h3⟩, h4⟩, h5⟩, h6⟩, h7⟩, h8⟩ := h
  refine ⟨by decide, h1, h2, h3, h4, clean_of h5, h6, h7, fun h => h8.resolve_left (by simpa using h)⟩

/-- VecRuns on the job of vstate, as a Bool. -/
def vecB (s : State) (op : Nat) : Bool :=
  let v := vsetOf (words8 ((List.range 64).map (peek s)))
  jobB s 1 && v.op == op && vopListed op && vsetFault v == none

theorem vec_of {s : State} {op : Nat} (h : vecB s op = true) : VecRuns s 0 op {} [] (List.range 64) (vsetOf (words8 ((List.range 64).map (peek s)))) := by
  simp only [vecB, Bool.and_eq_true, beq_iff_eq] at h
  exact ⟨job_of h.1.1.1, rfl, h.1.1.2, h.1.2, h.2⟩

/-- The 32-bit number at key k. -/
def at32 (s : State) (k : Nat) : Nat := valAt s ((List.range 4).map (k + ·))

/-- The outcome is a next state with a property. -/
def wentTo (o : Out) (f : State → Bool) : Bool :=
  match o with
  | .next t => f t
  | _ => false

/-- The job ends, and leaves a property. -/
def vran (s : State) (i : Nat → Instr) (f : State → Bool) : Bool := wentTo (exec (i 0) s) fun t => (clu t 0).vq == [] && f t

/-- A Clean access and an Elem of the vector domain: the 4 bytes at 0x100 of bank 0. -/
theorem elem_vec : Elem (vstate 0 13 0 [] []) 0 0 0x100 0 .i32 [0x100, 0x101, 0x102, 0x103] := ⟨by decide, clean_of (by decide +kernel)⟩

/-- Hypotheses of VectorElementwise: I32 elements 5 and -3 with 7 and -3 (R206); the functions with an open result on 1.0; a masked-out element set to 0
(MASK_ZERO); SELECT; the scalar of BSCALAR. -/
theorem test_elementwise :
    let data : List Nat := [0xFFFF_FFFD_0000_0005, 0xFFFF_FFFD_0000_0007, 0x4040_0000_4040_0000, 0xAAAA_AAAA_AAAA_AAAA, 1]
    let ones : List Nat := [0x4000_0000_3F80_0000, 0x4000_0000_4000_0000, 0x4040_0000_4040_0000]
    let out (l : List Nat) (t : State) : Bool := [at32 t 0x118, at32 t 0x11C] == l && t.mem.all (fun x => decide (x.1 < 0x120) || x == (0x120, 1))
    let n3 := 2 ^ 32 - 3
    ([(0, Instr.vecCopy, [5, n3]), (8, .vecNeg, [2 ^ 32 - 5, 3])].all fun r =>
      vran (vstate r.1 13 0 [0x100, 0, 0, 0x118, 0, 1, 0] data) r.2.1 (out r.2.2)) &&
    ([(2, .vecSub, [2 ^ 32 - 2, 0]), (5, .vecMax, [7, n3])].all fun r =>
      vran (vstate r.1 13 0 [0x100, 0x108, 0, 0x118, 0, 1, 0] data) r.2.1 (out r.2.2)) &&
    vecB (vstate 4 12 0 [0x100, 0x108, 0x110, 0x118, 0, 1, 0] ones) 4 && vran (vstate 4 12 0 [0x100, 0x108, 0x110, 0x118, 0, 1, 0] ones) .vecFma (out [0x40A0_0000, 0x40E0_0000]) &&
    ([(9, Instr.vecExp)].all fun r => vran (vstate r.1 12 0 [0x100, 0, 0, 0x118, 0, 1, 0] ones) r.2 fun _ => true) &&
    vran (vstate 1 13 (2 ^ 14 + 2 ^ 15) [0x100, 0x108, 0, 0x118, 0x120, 1, 0] data) .vecAdd (out [12, 0]) &&
    vran (vstate 1 13 (2 ^ 16) [0x100, 2, 0, 0x118, 0, 1, 0] data) .vecAdd (out [7, 2 ^ 32 - 1]) &&
    vran (vstate 14 13 (2 ^ 14) [0x100, 0x108, 0, 0x118, 0x120, 1, 0] data) .vecSelect (out [5, n3]) = true := by decide +kernel

/-- I8: the escape enters as 0 and sums saturate (R206); a comparison with a NaN is false. -/
theorem test_elements : elemOp 1 .i8 0x80 5 0 0 = 5 ∧ elemOp 1 .i8 100 100 0 0 = 127 ∧ elemOp 2 .i8 0x9C 100 0 0 = 0x81 ∧
    elemOp 7 .i32 (2 ^ 31) 0 0 0 = 2 ^ 31 - 1 ∧ elemCmp 0x0D .fp32 0x7FC0_0000 0x7FC0_0000 = false ∧ elemCmp 0x0D .fp32 0 (2 ^ 31) = true ∧
    elemOp 1 .fp32 0x3F80_0000 0x3380_0000 0 0 = 0x3F80_0000 := by decide +kernel

/-- Hypotheses of VectorRows: the two comparisons; each reduction, RMAX with no active element; COMPRESS and EXPAND under the mask 10b. -/
theorem test_rows :
    let data : List Nat := [0xFFFF_FFFD_0000_0005, 0xFFFF_FFFD_0000_0004, 0, 0xAAAA_AAAA_AAAA_AAAA, 2]
    let ones : List Nat := [0x4000_0000_3F80_0000]
    let m := 2 ^ 14
    vecB (vstate 0x0C 13 0 [0x100, 0x108, 0, 0x118, 0, 1, 0] data) 0x0C && vran (vstate 0x0C 13 0 [0x100, 0x108, 0, 0x118, 0, 1, 0] data) .vecCmpgt (at32 · 0x118 == 0xAAAA_AA01) &&
    vran (vstate 0x0D 13 0 [0x100, 0x108, 0, 0x118, 0, 1, 0] data) .vecCmpeq (at32 · 0x118 == 0xAAAA_AA02) &&
    vran (vstate 0x10 12 0 [0x100, 0, 0, 0x118, 0, 0, 0] ones) .vecRsum (at32 · 0x118 == 0x3F80_0000) &&
    vran (vstate 0x10 13 0 [0x100, 0, 0, 0x118, 0, 1, 0] data) .vecRsum (at32 · 0x118 == 2) &&
    vran (vstate 0x12 12 0 [0x104, 0, 0, 0x118, 0, 0, 0] ones) .vecRsumsq (at32 · 0x118 == 0x4080_0000) &&
    vran (vstate 0x11 13 0 [0x100, 0, 0, 0x118, 0, 1, 0] data) .vecRmax (at32 · 0x118 == 5) &&
    vran (vstate 0x11 13 m [0x100, 0, 0, 0x118, 0x120, 0, 0] data) .vecRmax (at32 · 0x118 == 2 ^ 31) &&
    vran (vstate 0x18 13 m [0x100, 0, 0x110, 0x118, 0x120, 1, 0] data) .vecCompress
      (fun t => at32 t 0x110 == 1 && at32 t 0x118 == 2 ^ 32 - 3 && at32 t 0x11C == 0xAAAA_AAAA) &&
    vecB (vstate 0x19 13 (m + 2 ^ 15) [0x100, 0, 0, 0x118, 0x120, 1, 0] data) 0x19 && vran (vstate 0x19 13 (m + 2 ^ 15) [0x100, 0, 0, 0x118, 0x120, 1, 0] data) .vecExpand (fun t => at32 t 0x118 == 0 && at32 t 0x11C == 5) = true := by decide +kernel

/-- Hypotheses of VectorConversions: CVT of I32 3 shifted by 1 to I8 (1.5 goes to 2) and to I4, and of FP32 to FP16; QROW of 1.0, whose
exponent is -6 (R117). -/
theorem test_conversions :
    let cst (t : State) (a : Nat) : Nat := valAt t [a]
    vran (vstate 0x1A 13 (7 * 2 ^ 17 + 2 ^ 21) [0x100, 0, 0, 0x118, 0, 0, 0] [3]) .vecCvt (cst · 0x118 == 2) &&
    vran (vstate 0x1A 13 (4 * 2 ^ 17 + 2 ^ 21) [0x100, 0, 0, 0x118, 0, 0, 0] [3]) .vecCvt (cst · 0x118 == 2) &&
    vran (vstate 0x1A 12 (11 * 2 ^ 17) [0x100, 0, 0, 0x118, 0, 0, 0] [0x3F80_0000]) .vecCvt (at32 · 0x118 == 0x3C00) &&
    vran (vstate 0x1A 12 (7 * 2 ^ 17) [0x100, 0, 0, 0x118, 0, 0, 0] [0x3F80_0000]) .vecCvt (fun _ => true) &&
    vran (vstate 0x1B 12 0 [0x100, 0, 0x110, 0x118, 0, 0, 0] [0x3F80_0000]) .vecQrow
      (fun t => cst t 0x110 == 0xFA && cst t 0x111 == 5) = true := by decide +kernel

/-- Hypotheses of VectorConversions: RCOMBINE of one record 5; OADD of 1.0 times code 3 on 1.0 (in either order); GIVE of bank 0 to the host. -/
theorem test_oadd :
    vran (vstate 0x20 12 (1 * 2 ^ 17) [0x100, 0x108, 0, 0x118, 0, 0, 0] [5 + 2 ^ 48, 0xFF00]) .vecRcombine (at32 · 0x118 == 0x40A0_0000) &&
    vecB (vstate 0x21 12 (7 * 2 ^ 18) [0x100, 0x108, 0, 0x118, 0, 0, 0] [0xC07F_3F80_0000_0000, 3, 0, 0x3F80_0000]) 0x21 &&
    vran (vstate 0x30 0 0 [0x100, 5, 0, 0, 0, 0, 0] []) .vecGive (fun t => (bankOf t 0 0).pending == some 5) = true := by decide +kernel

/-- Hypotheses of DenseJobs: a 1 by 1 job with K = 2, I8: 3 * 5 + (-2) * 7 = 1, on the old element 2^31 - 1 saturated; BF16: 1 * 2 + 2 * 2 = 6;
its DONE flag is then signalled, once. -/
theorem test_dense :
    let job (lo : Nat) (data : List Nat) : State := { vstate 0 0 0 [] [] with
      mem := image 0 (ctl (1 + lo) :: [0x100, 0x108, 0x118, 2 ^ 32, 1 + 2 ^ 21, 0, 2 ^ 45 + 63 * 2 ^ 39]) ++ image 0x100 data, clus := [(0, { part := some 0, dq := [{}] })] }
    let dran (s : State) (f : State → Bool) : Bool := jobB s 0 && (dsetOf (words8 ((List.range 64).map (peek s)))).isSome && went (exec (.denseJob 0) s) && f (nxt (exec (.denseJob 0) s))
    let i8 := 7 * 16 + 7 * 256 + 13 * 4096
    let bf := 10 * 16 + 10 * 256 + 12 * 4096
    dran (job i8 [0xFE03, 0x0705, 0, 9]) (fun t => at32 t 0x118 == 1 && (clu t 0).dq == [] && (let u := nxt (exec (.jobDoneSignal 0 0) t); (clu u 0).flags == [(63, 1)] && (clu u 0).sig == [])) &&
    dran (job (i8 + 2 ^ 18) [0xFE03, 0x0705, 0, 2 ^ 31 - 1]) (at32 · 0x118 == 2 ^ 31 - 1) &&
    dran (job bf [0x4000_3F80, 0x4000_4000, 0, 0]) (at32 · 0x118 == 0x40C0_0000) = true := by decide +kernel

/-- The largest finite word and the smallest subnormal of FP32 come back from their values; the FP8 negative zero does not (R47, R59). -/
theorem test_round_trip : fdec .fp32 0xFF7F_FFFF ≠ .nan ∧ fenc .fp32 (fdec .fp32 0xFF7F_FFFF) = 0xFF7F_FFFF ∧ fenc .fp32 (fdec .fp32 1) = 1 ∧
    fenc .f8b (fdec .f8b 0x80) = 0 ∧ fenc .bf16 (fdec .bf16 0x8000) = 0x8000 := by decide +kernel

/-! ### The quantizer (chapter 4) -/

/-- A quantizer job of one FP32 element to I8 at address 0 (Table 4.7), with word 0's low half and word 7 given, and data from 0x100 on. -/
def qstate (lo w7 : Nat) (data : List Nat) : State :=
  { base with
    mem := image 0 (ctl lo :: [0x100, 0x110, 0x118, 0, 0, 0x120, w7]) ++ image 0x100 data
    clus := [(0, { part := some 0, qq := [{}] })] }

/-- Hypotheses of QuantJobStarts and QuantJobEnds: the element 3.0 has exponent -5 and code 96 (R117, R118), 0 has exponent 0; a bad format is status 1
(Table 4.7); the result record of the job that ends, and of a host's job that failed. -/
theorem test_quant_job :
    let job := qstate (12 + 7 * 16) (1 + 2 ^ 17 + 2 ^ 40) [0x4040_0000]
    let s1 := nxt (exec (.quantJobStart 0) job)
    let bad := nxt (exec (.quantJobStart 0) (qstate (13 + 7 * 16) (1 + 2 ^ 17 + 2 ^ 40) []))
    let rec' (s : State) : List (Nat × Byte) := (nxt (exec (.quantJobEnd 0) s)).mem.filter fun x => decide (0x120 ≤ x.1)
    (s1.mem.filter fun x => decide (0x110 ≤ x.1)) == [(0x110, 96), (0x118, 0xFB), (0x119, 4)] && ((clu s1 0).qrun.map fun r => (r.phase, r.status, r.atag)) == some (0, 0, 7) &&
    cleanB job (.vec 0) 0 none 0 64 (List.range 64) && rec' s1 == [(0x120, 0x87)] && (clu (nxt (exec (.quantJobEnd 0) s1)) 0).qrun == none &&
    ((clu bad 0).qrun.map fun r => (r.status, r.detail)) == some (1, 0x04_0001) && rec' bad == [(0x120, 0x87), (0x121, 1), (0x122, 1), (0x124, 4)] &&
    (creg (nxt (exec (.quantJobEnd 0) bad)) 0 Reg.QNT_ERR).testBit 2 = true := by decide +kernel

/-- GroupExponentLeast at the edge: 127 needs no exponent over 127, 128 needs 1; 1 goes down to -6. -/
theorem test_group_exp : groupExp ⟨127, 0⟩ ⟨127, 0⟩ = 0 ∧ groupExp ⟨127, 0⟩ ⟨128, 0⟩ = 1 ∧ groupExp ⟨127, 0⟩ ⟨1, 0⟩ = -6 := by decide +kernel

/-- Hypotheses of CombineSlots: slot 63 of two parts. The first waits; the second decides for both, I8 or I4; another SNR fails both; a timeout fails the one that
waits, and a later post fails. -/
theorem test_combine :
    let w (parts snr : Nat) : List Nat := [0, 0, 0, 0, 0, 0, 0, 63 * 2 ^ 34 + parts * 2 ^ 40 + snr * 2 ^ 47]
    let r (parts snr s2 : Nat) : QRun := { w := w parts snr, s2 := s2, n4 := 0x3F80_0000, phase := 1 }
    let two (b : QRun) : State := { base with clus := [(0, { part := some 0, qrun := some (r 2 0 0) }), (1, { part := some 0, qrun := some b })] }
    let s1 (b : QRun) : State := nxt (exec (.combinePost 0) (two b))
    let ph (s : State) (c : Nat) : Option (Nat × Nat × Nat) := (clu s c).qrun.map fun r => (r.phase, r.atag, r.detail)
    let low := s1 (r 2 0 0)
    let low2 := nxt (exec (.combinePost 1) low)
    let hi2 := nxt (exec (.combinePost 1) (s1 (r 2 0 0x3F80_0000)))
    let mis := nxt (exec (.combinePost 1) (s1 (r 2 1 0)))
    let late := nxt (exec (.combineTimeout 0 63) low)
    ph low 0 == some (2, 0, 0) && (combineOf low 0 63).arrived == 1 && ph low2 0 == some (3, 7, 0) && ph low2 1 == some (3, 7, 0) && combineOf low2 0 63 == {} &&
    ph hi2 0 == some (3, 4, 0) && ph mis 0 == some (0, 0, 0x04_0005) && ph mis 1 == some (0, 0, 0x04_0005) && ph late 0 == some (0, 0, 0x04_0004) &&
    ph (nxt (exec (.combinePost 1) late)) 1 == some (0, 0, 0x04_0004) = true := by decide +kernel

/-- Hypotheses of QuantizerRegisters: an instance and none; a queue of 7 and of 8; the last index of CST. -/
theorem test_quantizer_registers :
    let s (n i : Nat) : State := { expert with clus := [(0, { part := some 0, qq := List.replicate n {}, regs := [(Reg.QNT_CST_INDEX, i)], stats := [(7, { sum := 258, esc := 3 })] })] }
    let t := nxt (exec (.qntCstDataWrite 0 0 5) (s 0 16383))
    let r := nxt (exec (.qntStatSumRead 0 0 7) (s 0 0))
    hostB (s 0 0) 0 && instOf (s 0 0) 0 0 == some 0 && instOf (s 0 0) 0 1 == none && isNext (exec (.qntHalt 0 1 1) (s 0 0)) (s 0 0) &&
    (clu (nxt (exec (.qntJobAddrWrite 0 0 64) (s 7 0))) 0).qq.length == 8 && (creg (nxt (exec (.qntJobAddrWrite 0 0 64) (s 8 0))) 0 Reg.QNT_ERR) == 1 &&
    creg t 0 Reg.QNT_CST_INDEX == 0 && (clu t 0).cstSh == [(16383, some 5)] && (clu t 0).cst == [] &&
    (clu (nxt (exec (.qntStatClear 0 0 0x80) (s 0 0))) 0).stats == [] && r.ans == (0, [2, 1, 0, 0, 0, 0, 0, 0]) && (mget {} (clu r 0).snap 7).esc == 3 &&
    creg (nxt (exec (.qntHalt 0 0 1) (s 0 0))) 0 Reg.QNT_CTRL == 1 &&
    creg (nxt (exec (.qntCountClear 0 0) (setCreg 0 Reg.QNT_ROW_ESC 9 (s 0 0)))) 0 Reg.QNT_ROW_ESC == 0 &&
    preg (nxt (exec (.qntRmClear 0 1) (setPreg 0 (Reg.QNT_RM_COUNT + 504) 9 (s 0 0)))) 0 (Reg.QNT_RM_COUNT + 504) == 0 = true := by decide +kernel

/-! ### Tables, caches, molts and batches (chapter 7) -/

/-- A table of I8 rows of two elements in bank 0, which the update domain owns: the descriptor at 0x100 (Table 7.2), one shard at 0x140 whose records begin
at 0x180 (Table 7.3), and row 1 with version 1 and the codes 3 and 5 (Table 7.1); row IDs 1 and padding at 0x150, bag bounds 0 and 2 at 0x160, weights 2.0 and 1.0 at 0x168. -/
def tstate (job : List Nat) (f : Cluster → Cluster) : State :=
  modClu 0 f { base with
    mem := image 0 job ++ image 0x100 [ctl (7 + 64), 4 + 10 * 2 ^ 40, 0x140, 0, 0, 0, 0, 0, 0, 0x180, 1, 0xFF_FFFF_FFFF, 2 * 2 ^ 32, 0x3F80_0000_4000_0000,
      0, 0, 0, 0, 0, 0, 1 + 7 * 2 ^ 40, 2 ^ 64 - 2 - 7 * 2 ^ 40, 0x0503]
    banks := [(0, { code := 3, codeN := 0xFFFC }), (1, { code := 5, codeN := 0xFFFA })]
    parts := [(0, { part base 0 with regs := [(Reg.TBL_DIR_BASE, 0x100), (Reg.TBL_DIR_COUNT, 1)] })]
    tasks := [(0, { clus := [0], st := [(0, .running)] })] }

/-- The words of a gather job of one bag on that table: SUM, MEAN, WSUM or GIVE (Table 7.8). -/
def gjob (op : Nat) : List Nat :=
  if op = 3 then [ctl (3 + 48), 0x150, 5] else [ctl (3 + 16 * op + 12 * 256), 0x150, 0x160, if op = 2 then 0x168 else 0, 0x170, 0, 0x178, 0]

/-- Hypotheses of GatherJobs: each pooling operation counts the one real row; the bytes of the descriptor, shard, record and job are Clean; GIVE; a row
overtaken in attempt 0 (the same bytes serve attempt 3). -/
theorem test_gather :
    let s (op : Nat) : State := tstate (gjob op) fun q => { q with gq := [(0, [{}])] }
    let done (o : Out) (f : State → Bool) : Bool := wentTo o fun t => (clu t 0).gq == [] && f t
    let td : TabD := { f := .i8, dim := 2, rows := 4, smap := 0x140, cmask := 0 }
    let run (n : Nat) : State := modClu 0 (fun q => { q with gRun := [(0, some { job := {}, w := gjob 0, td := td, rows := some [.retry 1 n { base := 0x180 }] })] }) (s 0)
    let ok (a n : Nat) : Bool := cleanB (s 0) (.upd 0) 0 none a n ((List.range n).map (a + ·))
    let rows (t : State) : Bool := creg t 0 (gpeReg 0 Reg.GPE_ROWS) == 1
    ok 0 64 && ok 0x100 64 && ok 0x140 16 && ok 0x160 8 && ok 0x1A0 32 && gunused (words8 ((List.range 64).map (peek (s 0)))) && tabOf (words8 (((List.range 64).map (0x100 + ·)).map (peek (s 0)))) == some td &&
    done (exec (.gatherSum 0 0 []) (s 0)) rows && done (exec (.gatherMean 0 0 []) (s 1)) rows && done (exec (.gatherWsum 0 0 []) (s 2)) rows &&
    done (exec (.gatherGive 0 0) (s 3)) (fun t => (bankOf t 0 0).pending == some 5) &&
    wentTo (exec (.rowReadRetry 0 0 [0]) (run 0)) (fun t => ((mget none (clu t 0).gRun 0).map GRun.rows) == some (some [.retry 1 1 { base := 0x180 }]) && creg t 0 (gpeReg 0 Reg.GPE_RETRY) == 1) = true := by decide +kernel

/-- A row decodes by its header: exponent 1 doubles the codes 3 and -5; the escape 0x80 decodes to 0 (R224). -/
theorem test_row_decode : decodeRow { f := .i8, dim := 3 } [] (mkHeader 1 1 .i8 0 []) [3, 0xFB, 0x80] = [0x40C0_0000, 0xC120_0000, 0] ∧
    hdrOk (mkHeader 1 1 .i8 0 []) = true ∧ hdrOk (mkHeader 1 1 .i8 0 [] + 1) = false := by decide +kernel

/-- Hypotheses of RowCaches: a fill into an invalid way, and into the oldest of four valid ones; a matching invalidation; TBL_CACHE_INV with a fill of its table; the HALT bits. Row 1
of table 0 has set 1, whose ways are the lines of 64 bytes from 0x100 on (R231). -/
theorem test_caches :
    let s (f : Cluster → Cluster) (m : List (Nat × Byte)) : State := modClu 0 (fun q => f { q with regs := [(Reg.UPD_CACHE_BANKS, 1)] }) { expert with
      mem := m, banks := [(0, { code := 3, codeN := 0xFFFC })] }
    let fill := s (fun q => { q with fills := [{ part := 0, table := 0, row := 1, data := some [7] }], cacheAge := [(4, 2), (5, 1), (6, 3), (7, 4)] })
    let tags : Mem := [(0x107, 0x80), (0x147, 0x80), (0x187, 0x80), (0x1C7, 0x80)]
    let t1 := nxt (exec (.cacheFill 0) (fill []))
    let t2 := nxt (exec (.cacheFill 0) (fill tags))
    let inv := s (fun q => { q with invs := [(0, 0, 1)] }) [(0x140, 1), (0x147, 0x80)]
    let bare := modClu 0 (fun q => { q with fills := [{}] }) expert
    hostB bare 0 && cacheSets (fill []) 0 == 1024 && lineAddr (fill []) 0 7 == 0x1C0 && cleanB (fill tags) (.upd 0) 0 none 0x140 64 ((List.range 64).map (0x140 + ·)) &&
    peek t1 0x100 == 1 && peek t1 0x107 == 0x80 && peek t1 0x108 == 7 && (clu t1 0).fills == [] && peek t2 0x140 == 1 && peek t2 0x148 == 7 && peek t2 0x100 == 0 &&
    wentTo (exec (.cacheInvalidate 0) inv) (fun t => peek t 0x147 == 0 && peek t 0x140 == 1 && (clu t 0).invs == []) &&
    wentTo (exec (.tblCacheInv 0 0) bare) (fun t => (clu t 0).fills == []) && wentTo (exec (.tblCacheInv 0 1) bare) (fun t => (clu t 0).fills.length == 1) &&
    wentTo (exec (.updHalt 0 0 1) inv) (fun t => creg t 0 Reg.UPD_CTRL == 1) && wentTo (exec (.gpeHalt 0 0 3 1) inv) (fun t => creg t 0 (gpeReg 3 Reg.GPE_CTRL) == 1) = true := by decide +kernel

/-- A REPLACE of row 1 of the table of tstate, coded I8 with exponent 2 and code 9. -/
def ent (op ptag : Nat) (payload : List Byte) : UEntry :=
  { own := 0, row := 1, op := op, ptag := ptag, payload := payload, td := { f := .i8, dim := 2, rows := 4, smap := 0x140, accOk := true } }

def coded : List Byte := [2, 7, 0, 0, 0, 0, 0, 0, 9, 0, 0, 0, 0, 0, 0, 0]

/-- The update engine holds entry e of an open batch of two whose outcome array is at 0x200. -/
def mstate (e : UEntry) : State :=
  { tstate [] (fun q => { q with uq := [e] }) with batches := [(0, { n := 2, out := 0x200, checked := true })] }

/-- Hypotheses of MoltsApply: a coded REPLACE goes to the idle slot 1 at 0x1B8 under version 2, and its commit writes the header and APPLIED; a REPLACE of FP32 1.0; an
ACCUMULATE; a REPLACE_COND of another version is REFUSED; a REPLICA of a newer and of the same version. -/
theorem test_molts :
    let s := mstate (ent 0 7 coded)
    let t := nxt (exec (.moltReplace 0) s)
    let fl (o : Out) : Option Nat := match o with
      | .next t => (clu t 0).infl.head?.map Molt.hdr
      | _ => none
    let rep (v : Nat) : UEntry := ent 3 7 (leBytes 16 (mkHeader v 0 .i8 0 []) ++ [9, 0, 0, 0, 0, 0, 0, 0])
    cleanB s (.upd 0) 0 none 0x1A0 32 ((List.range 32).map (0x1A0 + ·)) && cleanB s (.upd 0) 0 none 0x140 16 ((List.range 16).map (0x140 + ·)) &&
    peek t 0x1B8 == 9 && fl (.next t) == some (mkHeader 2 2 .i8 1 []) && (clu t 0).uq == [] &&
    wentTo (exec (.moltCommit 0 0) t) (fun u => peek u 0x1A0 == 2 && peek u 0x1A4 == 2 && peek u 0x200 == 0 && mget 0 (batchOf u 0).outc 0 == 1 && (clu u 0).infl == []) &&
    fl (exec (.moltReplace 0) (mstate (ent 0 12 [0, 0, 0x80, 0x3F, 0, 0, 0, 0]))) == some (mkHeader 2 (-6) .i8 1 []) &&
    went (exec (.moltAccumulate 0) (mstate (ent 1 12 [0, 0, 0x80, 0x3F, 0, 0, 0, 0]))) &&
    fl (exec (.moltReplaceCond 0) (mstate { ent 2 7 coded with expect := 1 })) == some (mkHeader 2 2 .i8 1 []) &&
    wentTo (exec (.moltReplaceCond 0) (mstate { ent 2 7 coded with expect := 2 })) (fun u => peek u 0x200 == 1 && mget 0 (batchOf u 0).outc 0 == 2 && (clu u 0).infl == []) &&
    fl (exec (.moltReplica 0) (mstate (rep 2))) == some (mkHeader 2 0 .i8 1 []) && fl (exec (.moltReplica 0) (mstate (rep 1))) == none = true := by decide +kernel

/-- Hypotheses of BatchesRoute: an update job begins a batch; a batch of one entry in memory queues it, one with an operation refused or a row out of range writes its
outcome, one of another FORMAT ends with BATCH_FORMAT. -/
theorem test_batches :
    let s (f op row : Nat) : State := { tstate [] (fun q => { q with bq := [0] }) with
      mem := (tstate [] id).mem ++ image 0x200 [ctl f, 1 + 64 * 2 ^ 32, 5, 0, row + op * 2 ^ 52 + 7 * 2 ^ 56, 0, 0x0702, 9]
      batches := [(0, { addr := 0x200, out := 0x280, due := { tag := 6 } })], nextBatch := 1 }
    let job := tstate [ctl 4, 0x200, 0x280, 0, 0, 0, 0, 0] fun q => { q with uj := [{}] }
    wentTo (exec (.updateJob 0) job) (fun t => (clu t 0).bq == [0] && (clu t 0).ujRun == some 0 && (batchOf t 0).addr == 0x200 && (batchOf t 0).kind == 2) &&
    cleanB (s 1 0 1) (.upd 0) 0 none 0x220 32 ((List.range 32).map (0x220 + ·)) &&
    wentTo (exec (.batchIngest 0) (s 1 0 1)) (fun t => ((clu t 0).uq.map fun e => (e.row, e.op, e.ptag, e.payload)) == [(1, 0, 7, [2, 7, 0, 0, 0, 0, 0, 0, 9, 0, 0, 0, 0, 0, 0, 0])] &&
      (clu t 0).bq == [] && (batchOf t 0).tag == 5) &&
    wentTo (exec (.batchIngest 0) (s 1 3 1)) (fun t => peek t 0x280 == 2 && (t.due.map fun d => (d.tag, d.status, d.detail)) == [(6, 0, 1)]) &&
    wentTo (exec (.batchIngest 0) (s 1 0 4)) (fun t => peek t 0x280 == 3 && t.batches == []) &&
    wentTo (exec (.batchIngest 0) (s 2 0 1)) (fun t => (t.due.map fun d => (d.status, d.detail)) == [(1, 0x07_000C)] && t.batches == []) = true := by decide +kernel

/-! ### The fabric (chapter 13) -/

/-- The module at X = 0 of a domain of 2 by 1 whose links 0 and 2 are UP and in service; its partition 0 is domain partition 0. -/
def fstate (f : Cluster → Cluster) : State :=
  { tstate [] f with dregs := [(lnkReg 0 Reg.LNK_STATUS, 3), (lnkReg 2 Reg.LNK_STATUS, 3), (Reg.LNK_DOMAIN, 2 * 2 ^ 32 + 2 ^ 36), (Reg.LNK_DIRS, 5), (Reg.LNK_DPART, 16)] }

/-- Hypotheses of RemoteAnswers: reads and molts of a known and an unknown domain partition; each answer to a molt and to a row's read. -/
theorem test_remote :
    let td : TabD := { f := .i8, dim := 2, rows := 4, smap := 0x140 }
    let s := fstate id
    let inn (kind dpart : Nat) (pl : List Byte) : State := { s with reqIn := [{ src := 1, dpart := dpart, kind := kind, tag := 8, payload := pl }] }
    let rsp (kind : Nat) (pl : List Byte) (r : Remote) : State :=
      { modClu 0 (fun q => { q with gRun := [(0, some { w := ctl (3 + 12 * 256 + 2 ^ 12) :: (gjob 0).drop 1, td := td, rows := some [.remote 1 3, .retry 1 1 {}] })] }) s with
        rspIn := [{ src := 1, kind := kind, tag := 3, payload := pl }], remotes := [r], batches := [(0, { n := 2, out := 0x200, checked := true })] }
    let m : Remote := { tag := 3, row := 1 }
    let g : Remote := { tag := 3, row := 1, gather := some (0, 0, 0) }
    let rows (t : State) : Option (List RowRes) := (mget none (clu t 0).gRun 0).bind fun r => r.rows
    let out (t : State) : Nat := mget 0 (batchOf t 0).outc 0
    let flits (t : State) : Nat := (linkOf t 0).replay.length + (linkOf t 2).replay.length
    wentTo (exec (.rowRead 0) (inn 0 0 [1])) (fun t => flits t == 1 && t.reqIn == []) && wentTo (exec (.rowRead 0) (inn 0 5 [1])) (fun t => flits t == 1) &&
    wentTo (exec .molt (inn 2 0 (leBytes 8 (1 + 7 * 2 ^ 56) ++ leBytes 8 0 ++ coded))) (fun t => ((clu t 0).uq.map fun e => (e.row, e.op, e.module, e.tag)) == [(1, 0, 2, 8)]) &&
    wentTo (exec .replica (inn 4 0 (leBytes 8 1))) (fun t => ((clu t 0).uq.map fun e => (e.row, e.op)) == [(1, 3)]) &&
    wentTo (exec .outcome (rsp 3 [0] m)) (fun t => out t == 1 && t.remotes == []) && wentTo (exec (.refuse []) (rsp 5 [] m)) (fun t => out t == 10 && peek t 0x200 == 9) &&
    wentTo (exec (.remoteWaitExpiry 3 []) (rsp 5 [] m)) (fun t => out t == 9) &&
    wentTo (exec (.rowData []) (rsp 1 (leBytes 16 (mkHeader 1 0 .i8 0 []) ++ [3, 5]) g)) (fun t => rows t == some [.got [0x4040_0000, 0x40A0_0000], .retry 1 1 {}] && t.remotes == []) &&
    wentTo (exec (.refuse []) (rsp 5 [] g)) (fun t => rows t == some [.failed 1 1 0x07_0009, .retry 1 1 {}] && t.remotes == []) &&
    wentTo (exec (.remoteWaitExpiry 3 []) (rsp 5 [] { g with shard := { rep := true, replica := 1 } })) (fun t => (t.remotes.map fun r => (r.tag, r.fell)) == [(0, true)]) = true := by decide +kernel

/-- CRC-32C by its definition in Table 13.4: of no bytes 0; of one zero byte 0x527D5351 (eight steps of the register from all ones). -/
theorem test_crc32c : crc32c [] = 0 ∧ crc32c [0] = 0x527D_5351 := by decide +kernel

/-- Hypotheses of FlowsUseOneLink: of two links in service, a message to module 1 with table 0 has key 1 and leaves by the second, link 2. -/
theorem test_flows : routeDir (fstate id) 1 = some 0 ∧ (linkOf (trySend { dst := 1 } (fstate id)) 2).replay.length = 1 ∧
    (linkOf (trySend { dst := 1, table := 1 } (fstate id)) 0).replay.length = 1 := by decide +kernel

/-- Hypotheses of FlitsAndReplay: a flit of the next SEQ, of another, a control flit, an uncorrectable one; a replay within the limit; messages in transit with and
without a path. -/
theorem test_flits :
    let body (w : Nat) (l : List Byte) : List Byte := leBytes 4 w ++ l ++ List.replicate (248 - l.length) 0
    let flit (w : Nat) (l : List Byte) : List Byte := body w l ++ leBytes 4 (crc32c (body w l))
    let s := fstate id
    let m (dst kind : Nat) : List Byte := msgBytes { dst := dst, src := 1, kind := kind, tag := 7, payload := [1] }
    let ran (fl : List Byte) (f : State → Bool) : Bool := wentTo (exec (.flitReceive 0 0 fl [2]) s) f
    let held : State := modLink 0 (fun v => { v with replay := [{ seq := 4 }, { seq := 5 }], used := [(0, 2)] }) s
    (ran (flit (4095 * 2 ^ 16) (m 0 0)) fun t => (t.reqIn.map Msg.tag) == [7] && (linkOf t 0).rxNext == 1) && (ran (flit (4095 * 2 ^ 16) (m 1 0)) fun t => (t.transit.map Msg.dst) == [1]) &&
    (ran (flit (4095 * 2 ^ 16) (m 0 3)) fun t => (t.rspIn.map Msg.kind) == [3]) && (ran (flit (16 + 4095 * 2 ^ 16) []) fun t => (linkOf t 0).naked && t.sent == [(7, [0, 4095])]) &&
    (ran (body 0 [] ++ [0, 0, 0, 1]) fun t => (linkOf t 0).naked && t.sent == [(7, [0, 4095])]) &&
    wentTo (exec (.flitReceive 0 2 (flit 0 []) []) s) (fun t => (linkOf t 0).naked) &&
    wentTo (exec (.flitReceive 0 0 (flit (1 + 4095 * 2 ^ 16) []) [2]) held) (fun t => (linkOf t 0).used == []) &&
    wentTo (exec (.nakReplay 0 4) held) (fun t => t.sent == [(8, [0, 5])]) && wentTo (exec (.ackTimeoutReplay 0) held) (fun t => t.sent == [(8, [0, 4, 5])]) &&
    wentTo (exec .fabricForward { s with transit := [{ dst := 1 }] }) (fun t => t.transit == [] && (linkOf t 2).replay.length == 1) &&
    wentTo (exec .fabricForward { s with transit := [{ dst := 9 }] }) (fun t => (dreg t Reg.LNK_ERR).testBit 3 && bits (dreg t Reg.LNK_UNREACH) 31 0 == 1) = true := by decide +kernel

/-- Hypotheses of LinksTrain: link 0, DOWN, with nine, two and one good lanes, with a wrong partner; its soak at both limits; loss of lock, a retrain and its end; DISABLE; a
placement in and out of its domain, and one written while a link runs. -/
theorem test_links :
    let s (st : Nat) : State := { base with dregs := [(lnkReg 0 Reg.LNK_STATUS, st), (Reg.LNK_DOMAIN, 2 * 2 ^ 32 + 2 ^ 36)] }
    let p : Partner := { dx := 2, dy := 1, index := 1, link := 4 }
    let goes (o : Out) (st reason : Nat) : Bool := wentTo o fun t => lnkState t 0 == st && bits (dreg t (lnkReg 0 Reg.LNK_STATUS)) 7 5 == reason
    linksStarted (s 0) && dirCounted (s 0) 0 && partnerOk (s 0) 0 p && wentTo (exec (.linkTrain 0 0x1FF true p) (s 0)) (fun t => lnkState t 0 == 2 && dreg t (lnkReg 0 Reg.LNK_LANES) == 0xFF) &&
    goes (exec (.linkTrain 0 1 true p) (s 0)) 4 1 && goes (exec (.linkTrain 0 0x1FF false p) (s 0)) 4 1 && goes (exec (.linkTrain 0 3 true p) { s 0 with dregs := (s 0).dregs ++ [(Reg.LNK_POLICY, 0)] }) 4 2 &&
    goes (exec (.linkTrain 0 0x1FF true { p with link := 5 }) (s 0)) 4 3 && goes (exec (.linkSoakEnd 0 20000 false) (s 2)) 3 0 && goes (exec (.linkSoakEnd 0 20001 false) (s 2)) 4 4 &&
    goes (exec (.linkLossOfLock 0) (s 3)) 5 0 && goes (exec (.retrain 0) (s 4)) 5 0 && goes (exec (.liveRetrainEnd 0 0x1FF true p 0 false) (s 5)) 3 0 && goes (exec (.liveRetrainEnd 0 0x1FF true p 20001 false) (s 5)) 4 5 &&
    goes (exec (.linkDisable 0 true) (s 3)) 6 0 && goes (exec (.linkDisable 0 false) (s 6)) 0 0 &&
    wentTo (exec (.lnkDomainWrite (2 * 2 ^ 32 + 2 ^ 36 + 2 ^ 40)) (s 0)) (fun t => dreg t Reg.LNK_DOMAIN == 2 * 2 ^ 32 + 2 ^ 36 + 2 ^ 40 + 2 ^ 46) &&
    isNext (exec (.lnkDomainWrite (2 * 2 ^ 32 + 2 ^ 36 + 2 ^ 41)) (s 0)) (s 0) && wentTo (exec (.lnkDomainWrite (2 ^ 32 + 2 ^ 36)) (s 3)) (fun t => (dreg t Reg.PMAP_ERR).testBit 1 && t.dueErr.length == 1) = true := by decide +kernel

/-! ### Banks, streams, halts and the barrier (chapters 8 and 9) -/

/-- Hypotheses of BanksAndWindows, accesses: bank 0 free, held, with two staged words, with the dense unit as a rival (which stands ahead) and with the quantizer (which
does not), at its limit of 16 lost cycles, in a commit cycle of its word; an atomic add of the outlier adder; a violation of the vector domain. -/
theorem test_bank_access :
    let bk (f : Bank → Bank) : State := modBank 0 0 f { base with mem := [(5, 7)] }
    let acc (op : BankOp) (r : List Requester) (k : Bool) : Instr := .bankAccess (.vec 0) .vector 5 op r k
    let lost (t : State) : Nat := mget 0 (bankOf t 0 0).lost 49
    let st : List Staged := [{ word := 0, data := [(0, 3)] }, { word := 16, data := [(16, 4)] }]
    cleanB (bk id) (.vec 0) 0 none 5 1 [5] && wentTo (exec (acc (.read 1) [.quant] false) (bk id)) (fun t => t.ans == (0, [7]) && lost t == 0) &&
    wentTo (exec (acc (.write [9]) [] false) (bk id)) (fun t => t.mem == [(5, 9)] && (bankOf t 0 0).busy2) &&
    wentTo (exec (acc (.read 1) [] false) (bk fun v => { v with busy2 := true })) (fun t => lost t == 0 && creg t 0 Reg.BNK_COLLIDE == 1 && !(bankOf t 0 0).busy2) &&
    wentTo (exec (acc (.read 1) [] false) (bk fun v => { v with staged := st })) (fun t => lost t == 0 && creg t 0 Reg.BNK_COLLIDE == 2 ^ 32 + 1 &&
      (bankOf t 0 0).staged == st.drop 1 && t.mem == [(0, 3), (5, 7)]) &&
    wentTo (exec (acc (.read 1) [.dense] false) (bk fun v => { v with lost := [(49, 15)] })) (fun t => lost t == 16 && creg t 0 Reg.BNK_COLLIDE == 1) &&
    wentTo (exec (acc (.read 1) [.dense] false) (bk fun v => { v with lost := [(49, 16)] })) (fun t => lost t == 0 && t.ans == (0, [7]) && bits (creg t 0 Reg.BNK_PROMOTE) 31 0 == 1) &&
    wentTo (exec (acc (.read 1) [] true) (bk fun v => { v with staged := st.take 1 })) (fun t => t.ans.1 == 5) &&
    wentTo (exec (.bankAccess (.vec 0) .outlier 4 (.atomic false 0 0x100) [] false) (bk id)) (fun t => t.ans == (0, [0, 7, 0, 0]) && t.mem == [(5, 8)] && (bankOf t 0 0).busy2) &&
    wentTo (exec (.bankAccess (.vec 0) .vector 0x4_0000 (.read 1) [] false) (bk id)) (fun t => isFrozen t 0 (.vec 0) && t.ans == (0, [0])) = true := by decide +kernel

/-- Hypotheses of BanksAndWindows, the rest: a handover and a drain; owner registers; the window base; window accesses at basic level, to a sleeping cluster, by CXL.mem
with and without a partition; the scrub of a good, a corrected and an uncorrectable word. -/
theorem test_windows :
    let s : State := { expert with mem := [(0x4_0000, 7)], cxl := 1, parts := [(0, { part base 0 with regs := [(Reg.BNK_WIN_BASE, 0)] })] }
    let h : State := modBank 0 1 (fun v => { v with pending := some 4, staged := [{ word := 0x4_0000, data := [(0x4_0000, 3)] }] }) s
    let rd (s : State) : Out := exec (.hostWindowAccess 0 0x4_0000 false [] 1 false) s
    wentTo (exec (.ownerHandover 0 1) h) (fun t => (bankOf t 0 1) == { code := 4, codeN := 0xFFFB } && t.mem == [(0x4_0000, 3)]) &&
    wentTo (exec (.stagingDrain 0 1) h) (fun t => (bankOf t 0 1).staged == [] && (bankOf t 0 1).pending == some 4) &&
    wentTo (exec (.bnkOwnerWrite 0 1 0xFFFB_0004) s) (fun t => (bankOf t 0 1).pending == some 4) &&
    wentTo (exec (.bnkOwnerWrite 0 1 0xFFFA_0004) s) (fun t => preg t 0 Reg.BNK_ERR == 2 && (bankOf t 0 1).pending == none) &&
    wentTo (exec (.bnkOwnerWrite 0 0 0xFFFB_0004) s) (fun t => hostFrozen t 0) &&
    wentTo (exec (.bnkWinBaseWrite 0 (2 ^ 47)) s) (fun t => preg t 0 Reg.BNK_WIN_BASE == 2 ^ 47) && wentTo (exec (.bnkWinBaseWrite 0 1) s) (fun t => preg t 0 Reg.BNK_ERR == 4) &&
    cleanB s (.host 0) 0 none 0x4_0000 1 [0x4_0000] && wentTo (rd s) (fun t => t.ans == (0, [7])) &&
    wentTo (exec (.hostWindowAccess 0 0x4_0000 true [8] 0 false) s) (fun t => t.mem == [(0x4_0000, 8)]) &&
    wentTo (rd (modClu 0 (fun q => { q with pw := .brum }) s)) (fun t => t.winQ.length == 1 && (clu t 0).wake) &&
    wentTo (exec (.cxlMemAccess 0 0 0x4_0000 false [] 1 false) s) (fun t => t.ans == (0, [7])) &&
    wentTo (exec (.cxlMemAccess 0 1 0 false [] 1 false) s) (fun t => t.ans == (3, []) && dreg t Reg.DEV_CXL_UNMAPPED == 1) &&
    isNext (exec (.backgroundScrub 5 0 0) s) s && wentTo (exec (.backgroundScrub 5 1 0) s) (fun t => t.ceLog == [(0, 0)] && t.ecc == []) &&
    wentTo (exec (.backgroundScrub 5 2 0) s) (fun t => t.ueLog == [(0, 0)] && t.ecc == [(0, 2)] && t.latches.length == 1) &&
    wentTo (exec (.backgroundScrub 5 0 1) s) (fun t => t.ceLog == [] && t.ecc == [(0, 1)]) = true := by decide +kernel

/-- Slot 0 of stream engine 0, which owns bank 0, as f leaves it; task 0's list is its own. -/
def sstate (m : Mem) (f : Slot → Slot) : State :=
  { base with
    mem := m, banks := [(0, { code := 2, codeN := 0xFFFD })], tasks := [(0, { clus := [0], st := [(0, .running)], last := true })], reqs := [(0, { st := .service, tag := 6 })]
    clus := [(0, { part := some 0, slots := [(0, f { list := some 0, st := 1 })] })] }

/-- A transfer of n I8 elements from 0x100 to 0x140 with further bits of word 0 (Table 9.3), and the four markers. -/
def xfer (n more : Nat) : List Nat := [ctl (56 + 7 * 2 ^ 28 + more), 0x100, 0x140, n - 1, 0, 0, 0, 0]
def mark (k w1 : Nat) : List Nat := [ctl k, w1, 0, 0, 0, 0, 0, 0]

/-- Hypotheses of StreamLists: a clutch of a transfer and an END; each descriptor kind as it becomes active, a transfer of a bad format, one of bad complements; a WAIT that
waits and one that passes; a LINK read last. -/
theorem test_stream_lists :
    let x (s : State) : Slot := slotOf s 0 0 0
    let buf (w : List Nat) : State := sstate [] fun v => { v with buf := [(0x200, w)] }
    let fails (o : Out) (st dt : Nat) : Bool := wentTo o fun t => (t.reports.map fun r => (r.status, r.detail)) == [(st, dt)] && (x t).list == none
    let fetch := sstate (image 0x380 (xfer 1 0 ++ mark 4 0)) fun v => { v with next := 0x380 }
    let waits (v : Nat) : State := { buf [] with clus := [(0, { part := some 0, flags := [(3, v)], slots := [(0, { list := some 0, st := 2, words := mark 1 (5 + 3 * 2 ^ 32) })] })] }
    wentTo (exec (.clutchFetch 0 0 0 []) fetch) (fun t => (x t).buf == [(0x380, xfer 1 0), (0x3C0, mark 4 0)] && (x t).next == 0x400) &&
    wentTo (exec (.streamXfer 0 0 0) (buf (xfer 1 0))) (fun t => (x t).words == xfer 1 0 && (x t).daddr == 0x200 && (x t).buf == []) &&
    fails (exec (.streamXfer 0 0 0) (buf (xfer 1 (2 ^ 28)))) 1 0x09_0003 && fails (exec (.streamXfer 0 0 0) (buf [1])) 0x0D 0x09_0001 && fails (exec (.streamXfer 0 0 0) (buf (mark 5 0))) 1 0x09_0002 &&
    wentTo (exec (.streamWait 0 0 0) (buf (mark 1 5))) (fun t => (x t).st == 2) && wentTo (exec (.streamBarrier 0 0 0) (buf (mark 2 0))) (fun t => (x t).st == 3 && (part t 0).arrivals) &&
    wentTo (exec (.streamEnd 0 0 0) (buf (mark 4 0))) (fun t => x t == { retired := 1 }) &&
    isNext (exec (.streamWaitPass 0 0 0) (waits 4)) (waits 4) && wentTo (exec (.streamWaitPass 0 0 0) (waits 5)) (fun t => (x t).st == 1 && (x t).words == []) &&
    wentTo (exec (.streamLink 0 0 0) (buf (mark 3 0x800))) (fun t => (x t).next == 0x800 && (x t).buf == []) = true := by decide +kernel

/-- Hypotheses of StreamMoves: a grant moves four bytes; a retirement signals, gives and completes; a FIXED descriptor late and in time; STR_ARM of an idle slot, an active
one, one with a shadow, and one between descriptors; the registers. -/
theorem test_stream_moves :
    let x (s : State) : Slot := slotOf s 0 0 0
    let on (w : List Nat) (n : Nat) : State := sstate (image 0x100 [0x0403_0201]) fun v => { v with words := w, elem := n }
    let give := (xfer 4 (2 ^ 17)).set 2 (0x140 + 4 * 2 ^ 48)
    let late (now : Nat) : State := { on ((xfer 4 (2 ^ 9)).set 1 (0x100 + 2 ^ 48)) 1 with now := now }
    let host (f : Slot → Slot) : State := { sstate [] f with
      dregs := [(Reg.DEV_EXPERT, 1)], clus := [(0, { part := some 0, slots := [(0, f {})], regs := (List.range 4).map fun j => (strReg 0 Reg.STR_ARM_DESC + 8 * j, (xfer 1 0).getD j 0) })] }
    let arm (f : Slot → Slot) : Out := exec (.strArm 0 0 0 0) (host f)
    cleanB (on (xfer 4 0) 0) (.str 0 0) 0 none 0x140 4 [0x140, 0x141, 0x142, 0x143] &&
    wentTo (exec (.streamGrant 0 0 [] []) (on (xfer 4 0) 0)) (fun t => (x t).elem == 4 && (x t).out == [(0, 4)] && valAt t [0x140, 0x141, 0x142, 0x143] == 0x0403_0201 &&
      wentTo (exec (.streamGrant 0 0 [(0, 0)] []) t) (fun u => (x u).out == [])) &&
    wentTo (exec (.descriptorRetire 0 0 0) (on (xfer 4 (2 ^ 10 + 63 * 2 ^ 11)) 4)) (fun t => flagOf t 0 63 == 1 && (x t).retired == 1 && (x t).words == []) &&
    wentTo (exec (.descriptorRetire 0 0 0) (on give 4)) (fun t => (bankOf t 0 0).code == 4) &&
    wentTo (exec (.descriptorRetire 0 0 0) (on (xfer 4 (2 ^ 18)) 4)) (fun t => (t.due.map fun d => (d.tag, d.status, d.rlen)) == [(6, 0, 4)] && (reqOf t 0).st == .done) &&
    wentTo (exec (.deadlineMiss 0 0 0) (late 100)) (fun t => (t.reports.map fun r => (r.status, r.detail)) == [(0x0A, 0x09_0005)]) && isNext (exec (.deadlineMiss 0 0 0) (late 0)) (late 0) &&
    wentTo (arm id) (fun t => (x t).armed && (x t).words == xfer 1 0) && wentTo (arm fun v => { v with st := 1, words := xfer 2 0 }) (fun t => (x t).shadow == some (xfer 1 0)) &&
    wentTo (arm fun v => { v with st := 1, words := xfer 2 0, shadow := some [] }) (fun t => creg t 0 (strReg 0 Reg.STR_ERR) == 2) && wentTo (arm fun v => { v with st := 1, list := some 0 }) (fun t => creg t 0 (strReg 0 Reg.STR_ERR) == 4) &&
    wentTo (exec (.strHalt 0 0 1 true) (host id)) (fun t => creg t 0 (strReg 1 Reg.STR_CTRL) == 1) && wentTo (exec (.strSlackClear 0 0 1) (host id)) (fun t => creg t 0 (strReg 1 Reg.STR_MIN_SLACK) == 0x7FFF_FFFF) &&
    wentTo (exec (.strSaveBaseWrite 0 (2 ^ 44)) (host id)) (fun t => preg t 0 Reg.STR_SAVE_BASE == 2 ^ 44) && wentTo (exec (.strSaveBaseWrite 0 64) (host id)) (fun t => preg t 0 Reg.STR_PERR == 2) &&
    wentTo (exec (.strSaveBaseWrite 0 64) (host fun v => { v with list := some 0, st := 1 })) (fun t => hostFrozen t 0) = true := by decide +kernel

/-- Mailbox 0 has one command that firmware may begin. -/
def cmd (op : Nat) (args : List Nat) (s : State) : State := { s with mbx := [(0, { cmds := [{ op := op, seq := 2, tag := 6, args := args }] })] }

/-- A command ends with a status and a detail. -/
def ended (o : Out) (st dt : Nat) (f : State → Bool) : Bool := wentTo o fun t => (t.due.map fun d => (d.tag, d.seq, d.status, d.detail)) == [(6, 2, st, dt)] && f t

/-- Hypotheses of HaltsAndBarriers, halts: refused accesses of a resumable and of another descriptor and of the clutch; a halt, and the halt past STR_HALT_LIMIT; a page's
response; CMD_RESUME_STREAM of the halted slot, its abort, and of no slot. -/
theorem test_halts :
    let x (s : State) : Slot := slotOf s 0 0 0
    let w (r : Nat) : List Nat := (xfer 4 (256 * r)).set 1 (2 ^ 47)
    let s (f : Slot → Slot) : State := { modPart 0 (fun q => { q with vf := 1, regs := [(Reg.STR_SAVE_BASE, 0x1_0000)] }) (sstate [] fun v => f { v with words := w 1, daddr := 0x200, limit := 2 }) with
      hostCfg := [(0, { vfen := true, ats := 1, pri := 1, alloc := 1 })] }
    let dies (o : Out) (dt : Nat) : Bool := wentTo o fun t => (t.reports.map fun r => (r.status, r.detail)) == [(4, dt)] && (x t).list == none
    let save : State := modPart 0 (fun q => { q with vf := 1, regs := [(Reg.STR_SAVE_BASE, 0)] }) (s fun v => { v with elem := 1, fault := some (2 ^ 47, 1, false) })
    let halted := nxt (exec (.streamHalt 0 0 0) save)
    let resume (a : Nat) : Out := exec (.cmdResumeStream 0) (cmd 8 [a] (nxt (exec (.priResponse 0 0 0) halted)))
    nextAccess (s id) 0 0 0 false == some (2 ^ 47) && wentTo (exec (.mappingFault 0 0 0 1 false) (s id)) (fun t => (x t).fault == some (2 ^ 47, 1, false)) &&
    dies (exec (.mappingFault 0 0 0 1 false) (s fun v => { v with words := w 0 })) 0x09_0006 && dies (exec (.hostReadRefused 0 0 0) (s id)) 0x09_000B &&
    cleanB save (.str 0 0) 0 none 0 64 (List.range 64) && (x halted).st == 4 && valAt halted ((List.range 8).map (16 + ·)) == 1 && valAt halted ((List.range 8).map (56 + ·)) == 2 ^ 64 - 2 &&
    halted.due.length == 1 && (halted.pages.map fun q => (q.port, q.prgi)) == [(0, some 0)] &&
    dies (exec (.streamHalt 0 0 0) (s fun v => { v with fault := some (2 ^ 47, 1, false), streak := 2, elem := 1, lastElem := 1 })) 0x09_0008 &&
    wentTo (exec (.priResponse 0 0 0) halted) (fun t => t.pages == [] && bits (valAt t ((List.range 8).map (40 + ·))) 12 9 == 0) &&
    wentTo (resume (2 ^ 11)) (fun t => (x t).st == 1 && (x t).elem == 1 && (x t).fault == none && (t.due.map fun d => (d.tag, d.status)).contains (6, 0)) &&
    dies (resume (2 ^ 11 + 2 ^ 24)) 0x09_0009 && wentTo (resume (2 ^ 12)) (fun t => (t.due.map fun d => (d.status, d.detail)).contains (1, 0x09_000D)) &&
    wentTo (exec (.atsInvalidate 3 1 7 2) { base with atc := [{ port := 3, vf := 1, page := 8 }, { port := 3, vf := 1, page := 9 }] }) (fun t =>
      (t.atc.map fun y => y.page) == [9] && t.sent == [(3, [3, 1, 7, 2])]) = true := by decide +kernel

/-- Hypotheses of HaltsAndBarriers, the barrier: a context and a slot have arrived; nothing waits; the slot is missing; CMD_BARRIER. -/
theorem test_barrier :
    let s (st : Nat) : State := { sstate [] fun v => { v with st := st, words := mark 2 0 } with
      cells := [(0, { ctx := [(0, { st := .waitSync, pc := 7, task := some 0, arrived := true })] })], parts := [(0, { part base 0 with arrivals := true, regs := [(Reg.STR_BAR_WAIT, 1)] })] }
    missing (s 3) 0 == [] && missing (s 1) 0 == [(cmpIsland base 0, 1, 0)] && isNext (exec (.barrierRelease 0) (s 1)) (s 1) &&
    wentTo (exec (.barrierRelease 0) (s 3)) (fun t => preg t 0 Reg.STR_BAR_EPOCH == 1 && !(part t 0).arrivals && stands 8 t && (slotOf t 0 0 0).st == 1) &&
    wentTo (exec (.barrierTimeout 0) (s 1)) (fun t => preg t 0 Reg.STR_PERR == 1 && (t.dueErr.map fun e => (e.sev, e.detail, e.subject)) == [(4, 0x09_000E, cmpIsland base 0 + 2 ^ 16)]) &&
    wentTo (exec (.cmdBarrier 0) (cmd 6 [] base)) (fun t => (part t 0).arrivals && ((part t 0).hostBar.map fun d => (d.tag, d.seq)) == [(6, 2)]) = true := by decide +kernel

/-! ### Requests, tasks and power (chapter 10) -/

/-- Hypotheses of RequestsServed: a plan at 0 whose SVC is 3; an absent plan; each reason to shed; a request that lapses at its boundary; a free lane and none; a cancel. -/
theorem test_requests :
    let s (f : Part → Part) : State := { base with
      banks := [(0, { code := 5, codeN := 0xFFFA })], mem := image 0 [0x40, 3], parts := [(0, f { part base 0 with quota := 1, regs := [(Reg.DSP_PLAN_BASE, 0), (Reg.DSP_PLAN_COUNT, 1), (Reg.DSP_QMAX, 1)] })] }
    let sub (st : State) (a : Nat) : Out := exec (.cmdSubmitRequest 0) (cmd 1 [a, 0x80] st)
    let r (n : Nat) : Req := { tag := 9, seq := 5, svc := 3, budget := 2000 * n, tasksAt := 64 }
    let q (l : List Req) : State := { s (fun p => { p with quota := 4 }) with reqs := (List.range l.length).map fun i => (i, l.getD i {}), nextReq := l.length }
    cleanB (s id) .fw 0 none 0 16 (List.range 16) && wentTo (sub (s id) 0) (fun t => ((reqOf t 0).tag, (reqOf t 0).svc, (reqOf t 0).ntask, (reqOf t 0).st) == (6, 3, 1, .queued) && preg t 0 Reg.DSP_ADMIT == 1) &&
    ended (sub (s id) 1) 1 0x0A_0005 (fun t => (reqOf t 0).st == .done) && ended (sub (s fun p => { p with quota := 0 }) 0) 2 0x0A_0002 (fun t => preg t 0 Reg.DSP_SHED == 1) &&
    ended (sub (q [r 0]) 0) 2 0x0A_0003 (fun t => t.reqs.length == 2 && (reqOf t 1).st == .done) && ended (sub (s id) (2 * 2 ^ 32)) 2 0x0A_0001 (fun _ => true) && wentTo (sub (s id) (3 * 2 ^ 32)) (fun t => (reqOf t 0).budget == 6000) &&
    wentTo (exec (.lapseCheck 0) (q [r 2, r 3])) (fun t => (reqOf t 0).st == .done && (reqOf t 1).st == .queued && (t.due.map fun d => (d.tag, d.status, d.detail)) == [(9, 3, 0x0A_0004)]) &&
    wentTo (exec (.requestDispatch 0) (q [r 3, r 0])) (fun t => (reqOf t 0).st == .service && (reqOf t 0).tasksAt == 64 && (part t 0).dseq == 1) &&
    wentTo (exec (.requestDispatch 0) (q [r 2])) (fun t => (reqOf t 0).st == .done && t.due.length == 1) && wentTo (exec (.requestDispatch 0) (q [{ r 0 with st := .service, lane := some 0 }, r 0])) (fun t => (reqOf t 1).st == .queued) &&
    wentTo (exec (.cmdCancel 0) (cmd 0x11 [5] (q [r 0]))) (fun t => (reqOf t 0).st == .done && (t.due.map fun d => (d.tag, d.status)) == [(9, 0x0C), (6, 0)]) &&
    ended (exec (.cmdCancel 0) (cmd 0x11 [4] (q [r 0]))) 1 0x0B_0009 (fun t => t.reqs.length == 1) = true := by decide +kernel

/-- Hypotheses of TasksRun: a sound descriptor (Table 10.4), one with a bad complement, one of no instance; a task that starts on cluster 0 at entry 9 with one context of
cell 0, and one that its budget holds back; a task that ends its request; the HALT bit. -/
theorem test_tasks :
    let d : List Nat := [ctl (1 + 128), 9 + 8 * 2 ^ 32, 1, 4 + 2 ^ 32, 0x80, 1, 0, 0]
    let s (w : List Nat) : State := { base with
      bdev := 8, clus := [(0, { part := some 0, bud := 64, bud0 := 64, flags := [(0, 7)] })], banks := [(0, { code := 5, codeN := 0xFFFA })]
      mem := image 0 w, reqs := [(0, { st := .service, tag := 6, seq := 2, ntask := 1, arg := 0x100 })] }
    let sent := nxt (exec (.taskSend 0) (s d))
    let run := nxt (exec (.taskStart 0) sent)
    let poor := { modClu 0 (fun q => { q with bud := 63, holdAt := some 0 }) sent with dregs := [(Reg.DEV_EXPERT, 1)] }
    let past := modCtx 0 0 0 (fun _ => {}) run
    cleanB (s d) .fw 0 none 0 64 (List.range 64) && ((taskOf sent 0).clus, (taskOf sent 0).entry, (taskOf sent 0).energy, (taskOf sent 0).arg) == ([0], 9, 4, 0x108) && mget .unsent (taskOf sent 0).st 0 == .queued &&
    ended (exec (.taskSend 0) (s (d.set 0 1))) 0x0D 0x0A_0007 (fun t => (reqOf t 0).st == .done) && ended (exec (.taskSend 0) (s (d.set 5 0))) 1 0x0A_0006 (fun t => preg t 0 Reg.DSP_ERR == 1) &&
    stands 9 run && ((ctxOf run 0 0 0).reg 1, (ctxOf run 0 0 0).reg 3, (ctxOf run 0 0 0).reg 5) == (0x108, 1, 1) && flagOf run 0 0 == 0 && mget 0 (taskOf run 0).tokens 0 == 64 &&
    isNext (exec (.taskStart 0) run) run && mayStart poor 0 (taskOf poor 0) == false && wentTo (exec (.dspHoldExpiry 0) poor) (fun t => (clu t 0).barred == some 0) &&
    taskEnded past 0 0 && ended (exec (.taskEnd 0 0) past) 0 0 (fun t => (reqOf t 0).st == .done && mget .unsent (taskOf t 0).st 0 == .ended && mget 0 (taskOf t 0).tokens 0 == 0) &&
    wentTo (exec (.dspHalt 0 0 true) poor) (fun t => creg t 0 Reg.DSP_CTRL == 1) = true := by decide +kernel

/-- The worked example after R359: 9,000 uJ in 850 us ask for 170 tokens, 4,000 uJ in 500 us for 128. -/
theorem test_demand : demand base 0 { energy := 9000, dur := 850 } = 170 ∧ demand base 0 { energy := 4000, dur := 500 } = 128 := by decide +kernel

/-- Hypotheses of PowerStates: a budget that covers the demand, at 94, 95 and 100 degrees and with no temperature, and one that does not; the limiter above 102 %, between, and
below 98 %; limits in and out of range; an idle and a busy cluster; OFF; a wake. -/
theorem test_power :
    let s (tmp : Nat) : State := { base with dregs := [(Reg.PWR_TEMP, tmp)] }
    let bud (o : Out) (a b : Nat) : Bool := wentTo o fun t => (clu t 0).bud0 == a && (clu t 0).bud == b
    let lim (avg : Nat) (on : Bool) : State := { base with limiting := on, dregs := [(Reg.PWR_INPUT, avg * 2 ^ 16)] }
    let pw (f : Cluster → Cluster) : State := modClu 0 f { base with mem := [(3, 1)], parts := [(0, { part base 0 with regs := [(Reg.PWR_STATE_CFG, 1 + 2 ^ 16 + 2 ^ 32)] })] }
    bud (exec (.budgetPeriod 500 20) (s 94)) 256 256 && bud (exec (.budgetPeriod 500 20) (s 95)) 256 256 && bud (exec (.budgetPeriod 500 20) (s 100)) 256 160 && bud (exec (.budgetPeriod 500 20) (s 256)) 256 64 &&
    bud (exec (.budgetPeriod 2991 0) (s 0)) 129 129 && wentTo (exec (.budgetPeriod 500 20) (s 94)) (fun t => t.bdev == 22300 && dreg t Reg.PWR_MEASURED == 500 + 20 * 2 ^ 16 + 2230 * 2 ^ 32) &&
    wentTo (exec .limiterStep (lim 3061 false)) (fun t => (clu t 0).cellMHz == 1575) &&
    isNext (exec .limiterStep (lim 3060 false)) (lim 3060 false) &&
    went (exec .limiterRestore (lim 2939 true)) && isNext (exec .limiterRestore (lim 2940 true)) (lim 2940 true) &&
    wentTo (exec (.pwrThermWrite (90 + 95 * 256)) base) (fun t => dreg t Reg.PWR_THERM == 90 + 95 * 256) && isNext (exec (.pwrThermWrite (91 + 95 * 256)) base) base &&
    cluIdle (pw id) 0 && isNext (exec (.brumationEntry 0) (pw fun q => { q with dq := [{}] })) (pw fun q => { q with dq := [{}] }) &&
    wentTo (exec (.offEntry 0) (pw fun q => { q with pw := .brum })) (fun t => (clu t 0).pw == .off) &&
    wentTo (exec (.wakeComplete 0) (pw fun q => { q with pw := .brum, wake := true })) (fun t => (clu t 0).pw == .on && peek t 3 == 1) &&
    isNext (exec (.wakeComplete 0) (pw fun q => { q with pw := .brum })) (pw fun q => { q with pw := .brum }) = true := by decide +kernel

/-! ### Mailboxes, commands and registers (chapter 11) -/

/-- Mailbox 0 is enabled at entry 0 and SEQ 1, with command entry w in its ring at host address 0. -/
def mbst (w : List Nat) (f : Mbx → Mbx) : State :=
  { base with mem := image (2 ^ 52) w, mbx := [(0, f { regs := [(Reg.MBX_CTRL, 1), (Reg.MBX_CMD_HEAD, 2 ^ 32)], target := some 2 })] }

/-- An entry of opcode op and a SEQ, with its complement (Table 11.3). -/
def entry (op sq : Nat) : List Nat := let w := op + sq * 2 ^ 32; [w, 6, 0, 0, 0, 0, 0, 2 ^ 64 - 1 - w]

/-- Hypotheses of MailboxesServe, doorbells and entries: each doorbell (a step of 1, of 63 and of 64 entries, and back); an entry fetched, refused, read again, and given up after
eight re-reads for its complement or its SEQ. -/
theorem test_doorbells :
    let s := mbst (entry 0 1) id
    let ring (wide : Bool) (tail sq : Nat) (f : State → Bool) : Bool := wentTo (exec (.doorbell 0 wide tail sq []) s) f
    let err (n : Nat) (t : State) : Bool := mreg t 0 Reg.MBX_ERR == n
    let again (w : List Nat) : Out := exec (.entryReread 0 []) (mbst w fun m => { m with reads := 8 })
    ring false 1 2 (err 1) && ring true 1 2 (fun t => (mbxOf t 0).target == some 2 && err 0 t) && ring true 63 64 (fun t => (mbxOf t 0).target == some 64) && ring true 0 65 (err 4) && ring true 0 0 (err 2) &&
    wentTo (exec (.commandFetch 0 []) s) (fun t => ((mbxOf t 0).cmds.map fun c => (c.op, c.seq, c.tag)) == [(0, 1, 6)] && mreg t 0 Reg.MBX_CMD_HEAD == 1 + 2 * 2 ^ 32) &&
    wentTo (exec (.commandFetch 0 []) (mbst (entry 0x12 1) id)) (fun t => (t.due.map fun d => (d.tag, d.seq, d.status, d.detail)) == [(6, 1, 1, 0x0B_0002)] && (mbxOf t 0).cmds.all Cmd.due) &&
    wentTo (exec (.commandFetch 0 []) (mbst (entry 0 2) id)) (fun t => (mbxOf t 0).reads == 1) &&
    wentTo (again ((entry 0 1).set 7 0)) (fun t => (t.due.map fun d => (d.tag, d.seq, d.status, d.detail)) == [(6, 1, 0x0D, 0x0B_0001)] && mreg t 0 Reg.MBX_CMD_HEAD == 1 + 2 * 2 ^ 32) &&
    wentTo (again (entry 0 2)) (fun t => (t.due.map fun d => (d.status, d.detail)) == [(8, 0x0B_0005)] && (mbxOf t 0).target == none && err 8 t) &&
    wentTo (exec (.entryReread 0 []) (mbst (entry 0 1) fun m => { m with reads := 8 })) (fun t => (mbxOf t 0).cmds.length == 1) = true := by decide +kernel

/-- Hypotheses of MailboxesServe, rings: enable and disable; heads in and out of bounds; a completion record into a free slot, and none free; an error record of a partition and of the
device, with room and without; MSI-X due, masked, pending. -/
theorem test_rings :
    let s (f : Mbx → Mbx) : State := mbst [] f
    let due (h : Nat) : State := { s (fun m => { m with regs := m.regs ++ [(Reg.MBX_CPL_HEAD, h), (Reg.MBX_CPL_TAIL, 1)], cmds := [{ seq := 2 }] }) with due := [{ tag := 0x15, seq := 2, status := 3 }] }
    let rec' := nxt (exec (.completionRecordWrite 0) (due 1))
    let err (p : Option Nat) (m : Mbx → Mbx) (ctl : Nat) : State := { s m with dueErr := [{ sev := 3, detail := 7, part := p }], dregs := [(Reg.ERR_RING_CTRL, ctl)] }
    let full (m : Mbx) : Mbx := { m with regs := m.regs ++ [(Reg.MBX_ERR_TAIL, 1)] }
    let key := 2 ^ 52
    wentTo (exec (.mailboxEnable 0 false) (s id)) (fun t => mreg t 0 Reg.MBX_CTRL == 0 && (mbxOf t 0).target == none) &&
    wentTo (exec (.mailboxEnable 0 true) (s fun m => { m with regs := [], newCpl := true })) (fun t => mreg t 0 Reg.MBX_CTRL == 1 && mreg t 0 Reg.MBX_CMD_HEAD == 2 ^ 32 && !(mbxOf t 0).newCpl) &&
    wentTo (exec (.mbxCplHeadWrite 0 1) (due 0)) (fun t => mreg t 0 Reg.MBX_CPL_HEAD == 1) && wentTo (exec (.mbxCplHeadWrite 0 2) (due 0)) (fun t => mreg t 0 Reg.MBX_ERR == 128) &&
    wentTo (exec (.mbxErrHeadWrite 0 1) (s full)) (fun t => mreg t 0 Reg.MBX_ERR_HEAD == 1) && wentTo (exec (.mbxErrHeadWrite 0 2) (s full)) (fun t => mreg t 0 Reg.MBX_ERR == 128) &&
    wentTo (exec (.mbxErrHeadWrite 0 1) (s fun m => { full m with lost := 3 })) (fun t => (mbxOf t 0).lost == 0 && peek t key == 0x94 && peek t (key + 24) == 3) &&
    leNat (peeks rec' key 8) == 0x15 && leNat (peeks rec' (key + 8) 8) == 2 + 3 * 2 ^ 32 && foldXor (words8 (peeks rec' key 32 ++ List.replicate 32 0) |> fun w => [w 0, w 1, w 2, w 3]) == 2 ^ 32 - 1 &&
    rec'.due == [] && (mbxOf rec' 0).cmds == [] && (mbxOf rec' 0).counted == 1 && wentTo (exec (.completionRecordWrite 0) (due 0)) (fun t => t.due.length == 1 && (mbxOf t 0).waitAt == some 0) &&
    wentTo (exec .errorRecordWrite (err (some 0) id 0)) (fun t => peek t key == 3 && peek t (key + 1) == 7 && (mbxOf t 0).errs == 1 && t.dueErr == []) &&
    wentTo (exec .errorRecordWrite (err (some 0) full 0)) (fun t => (mbxOf t 0).lost == 1 && mreg t 0 Reg.MBX_ERR == 16) &&
    wentTo (exec .errorRecordWrite (err none id 1)) (fun t => t.ringErrs == 1 && dreg t Reg.ERR_RING_TAIL == 1) && wentTo (exec .errorRecordWrite (err none id 0)) (fun t => t.ringLost == 1 && (dreg t Reg.ERR_DFLAGS).testBit 0) &&
    wentTo (exec (.errRingHeadWrite 1) (s id)) (fun t => dreg t Reg.ERR_DFLAGS == 64) && wentTo (exec (.errRingHeadWrite 0) (s id)) (fun t => dreg t Reg.ERR_DFLAGS == 0) && wentTo (exec (.errRingEnable true) (s id)) (fun t => dreg t Reg.ERR_RING_CTRL == 1) &&
    wentTo (exec (.msixSend 0 0 false) (s fun m => { m with counted := 1 })) (fun t => t.sent == [(1, [0, 0])] && (mbxOf t 0).counted == 0) &&
    wentTo (exec (.msixSend 0 1 true) (s fun m => { m with errs := 1 })) (fun t => t.sent == [] && mget false (mbxOf t 0).msixPend 1) &&
    wentTo (exec (.msixSend 0 2 false) (s fun m => { m with msixPend := [(2, true)] })) (fun t => t.sent == [(1, [0, 2])]) && isNext (exec (.msixSend 0 0 false) (s id)) (s id) = true := by decide +kernel

/-- Hypotheses of CommandsAct, the short commands: NOP, PATH_FLUSH, a query of each kind (module 0, one cluster) and a reserved one, a buffer too short; a cap at its least and below; an
update with an engine, a frozen one, and none. -/
theorem test_commands :
    let q (sel len : Nat) : Out := exec (.cmdQuery 0) (cmd 7 [sel, 2 ^ 47, len] base)
    let key := 2 ^ 52
    ended (exec (.cmdNop 0) (cmd 0 [] base)) 0 0 (fun t => t.due.all fun d => !d.fvis) && ended (exec (.cmdPathFlush 0) (cmd 0x0B [] base)) 0 0 (fun t => t.due.all Due.fvis) &&
    ended (q 0 63) 1 0x0B_000F (fun t => (t.due.map Due.rlen) == [64]) && ended (q 1 8) 0 0 (fun t => peek t key == 0 && peek t (key + 1) == 32) && ended (q 3 24) 0 0 (fun t => (t.due.map Due.rlen) == [24]) && ended (q 4 64) 1 0x0B_0004 (fun t => t.mem == []) &&
    ended (exec (.cmdSetBudget 0) (cmd 9 [16] base)) 0 0 (fun t => (part t 0).capReq == 16) && ended (exec (.cmdSetBudget 0) (cmd 9 [15] base)) 1 0x0B_0010 (fun t => (part t 0).capReq == 0) &&
    (nextCmd (cmd 5 [64, 128] base) 0 5).isSome && clustersOf base 0 == [0] && !isFrozen base 0 (.upd 0) && !(clu base 0).leaving &&
    ended (exec (.cmdUpdateRows 0) (cmd 5 [64, 128] (modPart 0 (fun q => { q with frozen := [masterId (.upd 0)] }) base))) 7 3 (fun t => t.batches == []) &&
    (let s := cmd 5 [64, 128] { base with clus := [] }; isNext (exec (.cmdUpdateRows 0) s) s) = true := by decide +kernel

/-- Hypotheses of CommandsAct, the load of a model from host address 0: its start, its header, a request in service; a DATA record, its copy by an I/O stream engine and the end of it; a
CHORUS and a REG record, a bad one, and the end. -/
theorem test_load :
    let s (f : Load → Load) (ws : List Nat) : State := { base with
      mem := image (2 ^ 52) ws, mbx := [(0, { cmds := [{ op := 2, seq := 2, tag := 6, args := [2 ^ 47, 256], started := true }] })]
      parts := [(0, { part base 0 with loading := true, load := some (f { cmd := { op := 2, seq := 2, tag := 6, args := [2 ^ 47, 256] } }) })] }
    let go (f : Load → Load) (ws : List Nat) : Out := exec (.cmdLoadModel 0) (s f ws)
    let rec' (v : Load) : Load := { v with opened := true, addr := 2 ^ 47, total := 1 }
    let data : List Nat := [8 * 2 ^ 32, 2 ^ 47 + 0x40, 0x0807]
    let slot : IoSlot := { busy := true, mbx := 0, seq := 2, part := 0, todo := ioDescs (2 ^ 47 + 16) (2 ^ 47 + 0x40) 8 }
    let copies (x : IoSlot) : State := { s (fun v => { rec' v with copying := true }) data with ioSlots := [(0, x)] }
    let at' (t : State) : Option (Nat × Nat) := (part t 0).load.map fun v => (v.addr - 2 ^ 47, v.idx)
    wentTo (exec (.cmdLoadModel 0) (cmd 2 [2 ^ 47, 256] base)) (fun t => (part t 0).loading && (part t 0).load.isSome) && wentTo (go id [1 + 2 ^ 32]) (fun t => at' t == some (32, 0)) &&
    ended (go id [2 + 2 ^ 32]) 1 0x0B_000E (fun t => !(part t 0).loading) && (let b := { s id [1 + 2 ^ 32] with reqs := [(0, { st := .service })] }; isNext (exec (.cmdLoadModel 0) b) b) &&
    wentTo (go rec' data) (fun t => at' t == some (0, 0) && ((part t 0).load.map fun v => v.copying) == some true && (t.ioSlots.map fun x => x.2) == [slot]) &&
    wentTo (exec (.streamGrant 96 0 [] []) (copies slot)) (fun t => peek t (2 ^ 52 + 0x40) == 7 && peek t (2 ^ 52 + 0x41) == 8 && t.ioSlots == [(0, { slot with todo := [] })]) &&
    wentTo (exec (.cmdLoadModel 0) (copies { slot with todo := [] })) (fun t => at' t == some (24, 1) && t.ioSlots == []) &&
    wentTo (go rec' [1 + 40 * 2 ^ 32, 0, 1 + 2 ^ 16 + 2047 * 2 ^ 32, 5 + 9 * 2 ^ 32, 0, 0, 77]) (fun t => t.chorus.length == 32 && ((part t 0).image.map fun g => (g.base, g.crc, g.id, g.words)) == [(2047, 5, 9, [77])]) &&
    wentTo (go rec' [2 + 16 * 2 ^ 32, 0, Reg.DSP_QMAX, 7]) (fun t => at' t == some (32, 1) && preg t 0 Reg.DSP_QMAX == 7) &&
    ended (go rec' [4 + 8 * 2 ^ 32, 0]) 1 0x0B_000E (fun t => (part t 0).load.isNone) && ended (go (fun v => { rec' v with idx := 1 }) []) 0 0 (fun t => (t.due.map Due.rlen) == [1] && !(part t 0).loading) = true := by decide +kernel

/-- Hypotheses of HostsAct, registers: LIVE fields at their bounds; a W1C bit; a QUIET register free and busy; a misaligned write; reads, at base level too; the management function's; the port's
configuration, with VF Enable and without; a lost expander. -/
theorem test_registers :
    let w (off n v : Nat) (s : State) : Out := exec (.registerWrite 0 off n v) s
    let busy : State := { expert with reqs := [(0, {})] }
    let mg (off v : Nat) : Out := exec (.registerWrite 16 off 8 v) base
    let live : List (Nat × Nat × Nat) := [(Reg.STR_HALT_LIMIT, 0, 1), (Reg.STR_BAR_WAIT, 2 ^ 16, 0), (Reg.BNK_SEL, 255, 127), (Reg.BNK_WIN_CTRL, 3, 1), (Reg.QNT_RM_WAIT, 0, 1), (Reg.TBL_GRANT, 5, 5), (Reg.TBL_REMOTE_WAIT, 0, 1),
      (Reg.DSP_QMAX, 0, 1), (Reg.DSP_HOLD, 0, 1), (Reg.PWR_RESV, 31, 15), (Reg.PWR_STATE_CFG, 2 ^ 33, 0)]
    (live.all fun x => wentTo (w x.1 8 x.2.1 expert) fun t => preg t 0 x.1 == x.2.2) &&
    wentTo (w Reg.BNK_ERR 8 2 (setPreg 0 Reg.BNK_ERR 7 expert)) (fun t => preg t 0 Reg.BNK_ERR == 5) && wentTo (w Reg.DSP_PLAN_BASE 8 64 expert) (fun t => preg t 0 Reg.DSP_PLAN_BASE == 64) &&
    wentTo (w Reg.DSP_PLAN_BASE 8 64 busy) (fun t => hostFrozen t 0 && preg t 0 Reg.DSP_PLAN_BASE == 0) && isNext (w Reg.DSP_QMAX 4 7 expert) expert && isNext (w (Reg.DSP_QMAX + 4) 8 7 expert) expert &&
    wentTo (exec (.expertRangeAccess 0 (Reg.DSP_QMAX + 1) 1 false 0) expert) (fun t => t.ans == (0, [16])) && wentTo (exec (.expertRangeAccess 0 Reg.DSP_QMAX 8 false 0) base) (fun t => t.ans == (1, []) && mreg t 0 Reg.MBX_ERR == 32) &&
    mgmtOk base 0 && mgmtEnded base && wentTo (mg Reg.PWR_DEV_CAP 1) (fun t => dreg t Reg.PWR_DEV_CAP == 1200) && wentTo (mg Reg.PMAP_DRAIN 2000) (fun t => dreg t Reg.PMAP_DRAIN == 1000) && wentTo (mg Reg.PWR_CLK_MAX 63) (fun t => dreg t Reg.PWR_CLK_MAX == 48) &&
    wentTo (exec (.devExpertWrite 0x1_8001) base) (fun t => dreg t Reg.DEV_EXPERT == 0x8001) && wentTo (exec (.devPortCfgWrite 1 (1 + 20 * 256) {}) base) (fun t => dreg t (Reg.DEV_PORT_CFG + 8) == 1 + 30 * 256) &&
    wentTo (exec (.devPortCfgWrite 1 0 { vfen := true }) base) (fun t => (mget {} t.hostCfg 1).vfen && dreg t Reg.PMAP_ERR == 2) && wentTo (exec (.bulkPortLinkDown 3 false) base) (fun t => t.bulkOut == 8 && (t.dueErr.map fun e => (e.sev, e.subject)) == [(5, 99)]) = true := by decide +kernel

/-- Hypotheses of HostsAct, the partition's life: PERST# of its port, an FLR of its function; a token of good and of bad complements; a reclaim with the token, a wrong one,
FORCE, and the lockout. -/
theorem test_orphans :
    let s (f : Part → Part) : State := { base with parts := [(0, f { part base 0 with vf := 1, tokW := 5, tokWN := 2 ^ 64 - 6 })], mbx := [(0, { cmds := [{ seq := 2, tag := 6 }] })] }
    let lost (o : Out) (dt : Nat) : Bool := wentTo o fun t => (part t 0).st == .orphan && ((mbxOf t 0).held.map fun d => (d.seq, d.status, d.detail)) == [(2, 0x0B, dt)] && (mbxOf t 0).cmds == []
    let orph (lock : Bool) (args : List Nat) : Out := exec (.cmdReclaim 0) (cmd 0x0A args (s fun q => { q with st := .orphan, token := 5, tokenN := 2 ^ 64 - 6, lockout := lock }))
    lost (exec (.perst 0 5 16) (s id)) 0x0B_000B && lost (exec (.flr 0 1) (s id)) 0x0B_000C && wentTo (exec (.flr 0 2) (s id)) (fun t => (part t 0).st == .active) &&
    wentTo (exec (.flr 0 0) (s id)) (fun t => (part t 0).st == .active) &&
    wentTo (exec (.tokenCommit 0) (s id)) (fun t => (part t 0).token == 5) && wentTo (exec (.tokenCommit 0) (s fun q => { q with tokWN := 0 })) (fun t => (part t 0).tokBad && (part t 0).token == 0) &&
    wentTo (orph false [5, 2 ^ 64 - 6]) (fun t => (part t 0).st == .active && t.due.length == 1) && ended (orph false [6, 2 ^ 64 - 7]) 1 0x0B_0007 (fun t => (part t 0).lockout && (part t 0).st == .orphan) &&
    ended (orph false [5, 0]) 0x0D 0x0B_0008 (fun t => !(part t 0).lockout) && wentTo (orph true [5, 2 ^ 64 - 6]) (fun t => (part t 0).st == .orphan && t.due == []) &&
    wentTo (exec (.reclaimLockoutExpiry 0) (s fun q => { q with lockout := true })) (fun t => !(part t 0).lockout) &&
    wentTo (exec (.cmdReclaim 16) { s (fun q => { q with st := .orphan }) with mbx := [(16, { cmds := [{ op := 0x0A, seq := 2, args := [0, 0, 16] }] })] }) (fun t => (part t 0).st == .active && (mbxOf t 0).letGo) = true := by decide +kernel

/-! ### Partitions, resets and the network (chapters 12 and 13) -/

/-- The management function's mailbox on port 0 has one command that firmware may begin. -/
def mcmd (op : Nat) (args : List Nat) (s : State) : State := { s with mbx := [(16, { cmds := [{ op := op, seq := 2, tag := 6, args := args }] })] }

/-- Hypotheses of PartitionsRebind, BIND and UNBIND: each resource kind taken (partition 1 for a function, 0 for the others), and one refusal of each. -/
theorem test_bind :
    let s : State := { modPart 0 (fun q => { q with hbmNext := q.hbm }) base with bulkCap := [(0, 4096)] }
    let b (p kind a : Nat) : Out := exec (.cmdBind 16) (mcmd 3 [p + kind * 16, a] s)
    let u (p kind a : Nat) (s : State) : Out := exec (.cmdUnbind 16) (mcmd 4 [p + kind * 16, a] s)
    let ext (v : Nat) : Nat := 1 + 1 * 16 + 0 * 2 ^ 13 + 2 ^ 32 + v
    let ok (o : Out) (f : State → Bool) : Bool := ended o 0 0 f
    ok (b 1 0 (2 * 4 + 7 * 2 ^ 16)) (fun t => (part t 1) == { st := .active, vf := 2, quota := 7 }) && ended (b 0 0 4) 1 0x0C_0003 (fun t => t.parts == s.parts) &&
    wentTo (b 0 1 95) (fun t => (t.moves.map fun m => (m.clu, m.src, m.dst)) == [(95, none, some 0)] && (clu t 95).leaving) && ended (b 0 1 0) 1 0x0C_0003 (fun t => t.moves == []) && ended (b 1 1 5) 1 0x0C_0001 (fun t => t.moves == []) &&
    wentTo (b 0 2 (ext 0)) (fun t => (part t 0).hbmNext == [{ first := 0, n := 1, lo := 0, hi := 1 }, { first := 1, n := 1, lo := 0, hi := 1 }] && (part t 0).atRelease.length == 1 && (part t 0).arrivals) &&
    wentTo (b 0 3 (16 + 4094 * 2 ^ 16 + 4095 * 2 ^ 32)) (fun t => (part t 0).bulkNext == [{ ports := 1, lo := 4094, hi := 4095 }]) && ok (b 0 4 1023) (fun t => (netqOf t 1023).part == some 0) &&
    ok (b 0 5 (15 + 3 * 2 ^ 8 + 4 * 2 ^ 16)) (fun t => (part t 0).shares == [(30, 3), (31, 4)]) && ok (b 0 6 65536) (fun t => (part t 0).quota == 65536) &&
    wentTo (u 0 1 0 s) (fun t => (t.moves.map fun m => (m.clu, m.src, m.dst)) == [(0, some 0, none)]) && wentTo (u 0 4 9 (modNetq 9 (fun v => { v with part := some 0 }) s)) (fun t => (netqOf t 9).unbind.isSome) &&
    wentTo (u 0 2 0 s) (fun t => (part t 0).hbmNext == []) && wentTo (u 0 2 1 { mcmd 4 [] s with parts := [(0, { part s 0 with hbm := [{}, {}], hbmNext := [{}, {}] })] }) (fun t => (part t 0).hbmNext == [{}]) &&
    ok (u 0 5 3 (modPart 0 (fun q => { q with shares := [(6, 3)] }) s)) (fun t => (part t 0).shares == []) && ended (u 1 0 0 s) 1 0x0C_0001 (fun t => t.parts == s.parts) = true := by decide +kernel

/-- Hypotheses of PartitionsRebind, the rest: a joined move and an idle queue end their commands; a drain limit; scrubs; a release of one master and of one that is not frozen. -/
theorem test_rebind :
    let m : Move := { mbx := 16, cmd := { op := 3, seq := 2, tag := 6 }, clu := 0, dst := some 0, joined := true }
    let s : State := { mcmd 3 [] base with mem := [(2 ^ 50, 5), (2 ^ 50 + 256, 6)] }
    let open' : State := { s with mbx := [(16, { cmds := [{ op := 3, seq := 2, tag := 6, started := true }] })] }
    let f : State := modPart 0 (fun q => { q with frozen := [3], violValid := true }) base
    ended (exec (.cmdBind 16) { open' with moves := [m] }) 0 0 (fun t => t.moves == []) &&
    ended (exec (.cmdBind 16) { open' with netq := [(9, { part := some 0, unbind := some (16, { op := 3, seq := 2, tag := 6 }) })] }) 0 0 (fun t => (netqOf t 9).part == none) &&
    isNext (exec (.clusterDrainLimit 0) s) s && wentTo (exec (.clusterDrainLimit 0) { atWord 0 0 [] with moves := [{ m with joined := false }] }) (fun t => mget .unsent (taskOf t 0).st 0 == .stopped && dreg t Reg.PMAP_MOVES == 2 ^ 32) &&
    ended (exec (.cmdScrub 16) { mcmd 0x0C [0, 256, 256] base with mem := [(2 ^ 50, 5), (2 ^ 50 + 256, 6)] }) 0 0 (fun t => t.mem == [(2 ^ 50, 5)]) &&
    ended (exec (.cmdScrub 16) { mcmd 0x0C [4 * 16, 1 * 16 + 2 ^ 32, 0] base with mem := [(2 ^ 50, 5), (2 ^ 50 + 2 ^ 31, 6)] }) 0 0 (fun t => t.mem == [(2 ^ 50, 5)] && (t.due.map Due.rlen) == [64]) &&
    ended (exec (.cmdFreezeRelease 16) (mcmd 0x0F [3 * 2 ^ 16] f)) 0 0 (fun t => (part t 0).frozen == [] && !(part t 0).violValid) && ended (exec (.cmdFreezeRelease 16) (mcmd 0x0F [4 * 2 ^ 16] f)) 1 0x0C_0008 (fun t => (part t 0).frozen == [3]) &&
    ended (exec (.cmdFreezeRelease 16) (mcmd 0x0F [16] f)) 0 0 (fun t => (part t 0).frozen == []) = true := by decide +kernel

/-- Hypotheses of ResetsClear: canonical maps; a cell outside and within a reset; the conditions of the others, and the ones that end or do nothing. -/
theorem test_resets :
    let s := atWord 0 0 [(1, 5)]
    let rst := modPart 0 (fun q => { q with st := .resetting }) s
    mwf {} s.cells && mwf {} s.tasks && mwf {} s.clus && mwf {} s.parts && mwf {} s.banks && !inReset s 0 && inReset rst 0 && resetEnds rst 0 && !resetEnds s 0 && !moveLate s 0 && s.pwr == 2 && !mbxEnabled s 0 &&
    wentTo (exec (.cellReset 0 0) s) (fun t => ctxOf t 0 0 0 == {} && mget false (cellOf t 0 0).pmw 0) && wentTo (exec (.cellReset 0 0) rst) (fun t => (dreg t Reg.PMAP_ERR) == 4 && stands 0 t) &&
    wentTo (exec (.clusterReset 0) rst) (fun t => dreg t Reg.PMAP_ERR == 4) && isNext (exec (.partitionReset 1 false) s) s && wentTo (exec (.partitionReset 0 false) rst) (fun t => dreg t Reg.PMAP_ERR == 4) &&
    isNext (exec (.partitionReset 0 true) s) s && wentTo (exec (.partitionReset 0 true) rst) (fun t => (part t 0).st == .active) && isNext (exec (.deviceReset false) { s with pwr := 1 }) { s with pwr := 1 } &&
    wentTo (exec (.deviceReset true) base) (fun t => t.stage == 0 && t.warm && (part t 0).st == .resetting && t.banks == []) = true := by decide +kernel

/-- Port 0 is up and queue 0 of partition 0 runs in a mode, with a window or buffer of 16 KiB at the start of the partition's HBM, key 7, reads, writes and notices permitted. -/
def nstate (mode : Nat) (f : NetQ → NetQ) (g : State → State) : State :=
  g { base with
    dregs := [(netReg 0 Reg.NET_CTRL, 1), (netReg 0 Reg.NET_STATUS, 1)]
    netq := [(0, f { part := some 0, mode := mode, ctx := [(5, 2 ^ 44), (6, 2 ^ 14 + 7 * 2 ^ 40), (7, 7), (8, 2 ^ 44 + 2 ^ 16)] })] }

/-- Hypotheses of NetworkQueues, RDMA: in the window's last bytes, past its end, with another key, with a notice; a queue of another mode, one unbound, a port that is down. -/
theorem test_rdma :
    let s := nstate 1 id id
    let k := 2 ^ 50
    let ans (o : Out) (c : Nat) : Bool := wentTo o fun t => t.ans.1 == c && t.mem == []
    let down := nstate 1 id fun s => { s with dregs := [] }
    portUp s 0 && netTakes s 0 && cleanB s (.netq 0) 0 none (2 ^ 44) 2 [k, k + 1] && wentTo (exec (.rdmaWrite 0 7 (2 ^ 44 + 16382) [1, 2]) s) (fun t => t.ans.1 == 0 && t.mem == [(k + 16382, 1), (k + 16383, 2)]) &&
    ans (exec (.rdmaWrite 0 7 (2 ^ 44 + 16383) [1, 2]) s) 1 && ans (exec (.rdmaWrite 0 8 (2 ^ 44) [1, 2]) s) 1 && wentTo (exec (.rdmaRead 0 7 (2 ^ 44) 2) { s with mem := [(k + 1, 9)] }) (fun t => t.ans == (0, [0, 9])) &&
    wentTo (exec (.rdmaWriteImmediate 0 7 (2 ^ 44) 5 [1]) s) (fun t => t.mem == [(k, 1), (k + 2 ^ 16, 5), (k + 2 ^ 16 + 4, 1)] && (netqOf t 0).notices == 1) &&
    ans (exec (.roceSend 0 [1]) s) 2 && ans (exec (.rdmaRead 0 7 (2 ^ 44) 2) (nstate 3 id id)) 4 && ans (exec (.rdmaRead 0 7 (2 ^ 44) 2) (nstate 1 (fun v => { v with part := none }) id)) 2 &&
    isNext (exec (.rdmaWrite 0 7 (2 ^ 44) [1]) down) down = true := by decide +kernel

/-- Hypotheses of NetworkQueues, updates: a SEND of one batch and a datagram, without room, repeated; the acknowledgement; a timeout that sends again and that gives up; CNP, ECN within 50 us and after;
PFC; the port; contexts. -/
theorem test_update_queues :
    let body : List Byte := wordsBytes [1, 32 * 2 ^ 32, 5, 0]
    let dg (sq : Nat) : List Byte := leBytes 8 (0x4158 + sq * 2 ^ 32) ++ body
    let b : Batch := { part := 0, kind := 1, item := 0, peer := 3, tag := 5, n := 1, outc := [(0, 1)] }
    let cfg (v : NetQ) : NetQ := { v with ctx := (0, 0) :: v.ctx }
    let ack (s : State) : State := { s with acks := [(b, 0, 0)] }
    let un (l : List (List Nat)) (n : Nat) : State := nstate 2 (fun v => { v with unacked := l, tries := n, ctx := (1, 2 * 2 ^ 48) :: v.ctx }) id
    let s := nstate 2 id id
    let pfc := nstate 1 id fun s => { s with dregs := [(netReg 0 Reg.NET_CTRL, 1), (netReg 0 Reg.NET_STATUS, 1), (netReg 0 Reg.NET_CFG, 2 ^ 23)] }
    let now (v : Option Nat) (n : Nat) : State := nstate 2 (fun q => { q with cnpAt := v }) fun s => { s with now := n }
    ingestOk s 0 (netqOf s 0) && wentTo (exec (.roceSend 0 body) s) (fun t => t.ans.1 == 0 && (clu t 0).bq == [0] && (netqOf t 0).used == 32 && (t.mem.map fun x => x.1 - 2 ^ 50) == [0, 12, 16]) &&
    wentTo (exec (.roceSend 0 body) (nstate 2 (fun v => { v with used := 16353 }) id)) (fun t => t.ans.1 == 3 && (netqOf t 0).rnr) && wentTo (exec (.udpDatagram 0 3 (dg 8)) (nstate 3 cfg id)) (fun t => t.ans.1 == 4 && (netqOf t 0).seqs == [8] && (batchOf t 0).peer == 3) &&
    wentTo (exec (.udpDatagram 0 3 (dg 8)) (nstate 3 (fun v => { v with seqs := [8] }) id)) (fun t => t.acks.length == 1 && t.mem == []) && wentTo (exec (.udpDatagram 0 3 [1]) (nstate 3 id id)) (fun t => bits (dreg t (netReg 0 Reg.NET_DROPS)) 31 0 == 1) &&
    wentTo (exec (.batchAcknowledgement 0) (nstate 2 id ack)) (fun t => t.acks == [] && (t.sent.map fun x => (x.1, x.2.take 3, x.2.length)) == [(5, [0, 3, 2], 42)] && (netqOf t 0).unacked.length == 1) &&
    wentTo (exec (.roceAckTimeout 0 0) (un [[7]] 1)) (fun t => t.sent == [(5, [0, 0, 7])] && (netqOf t 0).tries == 2) && wentTo (exec (.roceAckTimeout 0 0) (un [[7]] 2)) (fun t => (netqOf t 0).unacked == []) && wentTo (exec (.roceAckTimeout 0 1) (un [[7]] 1)) (fun t => (netqOf t 0).unacked == []) &&
    wentTo (exec (.cnpReceive 0) s) (fun t => (netqOf t 0).cut == some (sendRate s 0 / 2, 0)) && isNext (exec (.ecnCeReceive 0) (now (some 0) 1249)) (now (some 0) 1249) && wentTo (exec (.ecnCeReceive 0) (now (some 0) 1250)) (fun t => t.sent == [(9, [0])]) &&
    wentTo (exec (.pfcPauseReceive 0 7 true) pfc) (fun t => mget 0 t.paused 0 == 128) && wentTo (exec (.ethernetLinkDown 0 2) s) (fun t => dreg t (netReg 0 Reg.NET_STATUS) == 0 && t.dueErr.length == 1) && wentTo (exec (.netPortEnable 3 true) s) (fun t => dreg t (netReg 3 Reg.NET_CTRL) == 1) &&
    wentTo (exec (.queueEnable 1) (nstate 0 id id)) (fun t => (netqOf t 0).mode == 1) && wentTo (exec (.queueEnable 4) (nstate 0 id id)) (fun t => (netqOf t 0).mode == 0 && (dreg t (netReg 0 Reg.NET_ERR)).testBit 0) && wentTo (exec (.queueEnable 1) s) (fun t => dreg t Reg.PMAP_ERR == 2) = true := by decide +kernel

/-! ### Bring-up, repair, firmware, pins (chapters 14, 15 and 16) -/

/-- Stage i runs; f sets the rest. -/
def stg (i : Nat) (f : State → State) : State := f { stage := i }

/-- Hypotheses of BringUp, stages: an active image that passes, only the other one, none; a network that failed; stepped mode; each later stage, run and not running. -/
theorem test_stages :
    let s (i : Nat) := stg i id
    let st (i : Nat) := stg i fun s => { s with stepped := true }
    (s 0).rpt.length == 48 && stageRuns (s 0) 0 && isNext (exec (.stageMgmt 1 true false) (s 1)) (s 1) && isNext (exec (.stageClocknet [] none false) (s 0)) (s 0) &&
    isNext (exec (.stageMemory [] [] 0 false) (s 0)) (s 0) && isNext (exec (.stageLinks 0 0 0 0 0 0 0 false) (s 0)) (s 0) && isNext (exec (.stageCompute [] false) (s 0)) (s 0) &&
    wentTo (exec (.stageMgmt 1 true false) (s 0)) (fun t => t.stage == 1 && t.staging && resultOf t 0 == 0 && t.slotAct == 0) && wentTo (exec (.stageMgmt 2 true false) (s 0)) (fun t => t.slotAct == 1 && resultOf t 0 == 1) &&
    wentTo (exec (.stageMgmt 0 true false) (s 0)) (fun t => t.recovery && t.outcome == 3 && t.stage == 0 && !t.staging) && wentTo (exec (.stageMgmt 1 true false) (st 0)) (fun t => t.halted && t.stage == 0 && !t.staging) &&
    wentTo (exec (.stageClocknet [{ kind := 1, cause := 1, island := 5 }] none false) (s 1)) (fun t => t.stage == 2 && unitBad t 1 5 0) && wentTo (exec (.stageClocknet [] (some 0x0FC0) false) (s 1)) (fun t => t.netBad && resultOf t 1 == 2) = true := by decide +kernel

/-- Hypotheses of BringUp, links and compute: settled links, a port that trained, no lane listed; the map restored with each outcome. -/
theorem test_late_stages :
    let l := stg 3 id
    linksSettled l && laneFindings l == [] && stageRuns l 3 && wentTo (exec (.stageLinks 1 1 1 1 0 1 1 false) l) (fun t => t.stage == 4 && dreg t (netReg 0 Reg.NET_STATUS) == 3 && dreg t (netReg 1 Reg.NET_STATUS) == 0) &&
    stageRuns (stg 4 id) 4 && mwf {} (stg 4 id).parts && mwf {} base.parts = true := by decide +kernel

/-- Hypotheses of BringUp, CMD_CONTINUE and CMD_REPAIR_RESET: not halted, another stage, a reserved action, ending, repeating, going on from stage 1 and from stage 4 (stages not run: degraded); a wrong key, all
entries, one of two. -/
theorem test_continue :
    let h (i : Nat) : State := mcmd 0x0D [] { stage := i, staging := false, stepped := true, halted := true }
    let go (i a : Nat) : Out := exec (.cmdContinue 16) (mcmd 0x0D [a] (h i))
    let d : State := mcmd 0x0E [] { base with dfl := [(1 + 5 * 2 ^ 16, 0), (2 + 48 * 2 ^ 16, 0)] }
    let rr (a b : Nat) : Out := exec (.cmdRepairReset 16) (mcmd 0x0E [a, b] d)
    (nextCmd (mcmd 0x0D [1] (h 1)) 16 0x0D).isSome && (nextCmd (mcmd 0x0E [0] d) 16 0x0E).isSome && ended (exec (.cmdContinue 16) (mcmd 0x0D [0] base)) 1 0x0E_0001 (fun t => t.outcome == 1) &&
    ended (go 1 2) 1 0x0E_0002 (fun t => t.halted) && ended (go 1 0x31) 1 0x0B_0004 (fun t => t.halted) && ended (go 1 0x21) 0 0 (fun t => t.outcome == 3 && t.stage == 5 && !t.halted) &&
    ended (go 1 0x11) 0 0 (fun t => t.stage == 1 && t.staging) && ended (go 1 1) 0 0 (fun t => t.stage == 2 && t.staging && !t.halted) && ended (go 4 4) 0 0 (fun t => t.outcome == 2 && t.reported) &&
    ended (rr 0 0) 1 0x0E_0003 (fun t => t.dfl.length == 2) && ended (rr (0x5A5A * 2 ^ 48 + 1) 0) 0 0 (fun t => t.dfl == [] && (t.due.map Due.rlen) == [2]) && ended (rr (0x5A5A * 2 ^ 48) (1 + 5 * 2 ^ 16)) 0 0 (fun t => t.dfl == [(2 + 48 * 2 ^ 16, 0)]) = true := by decide +kernel

/-- ERR_POLICY with AUTO_RETIRE. -/
def auto (s : State) : State := setDreg Reg.ERR_POLICY 1 s

/-- Hypotheses of UnitsRetire, cells and banks: not due; due without AUTO_RETIRE; asked, and due, with the eft 32; no eft, due and asked; a bank that moves, one that stands. -/
theorem test_cell_retirement :
    let a := auto base
    let run (seen : Bool) (s : State) : Out := exec (.cellRetirement 0 0 seen) s
    let noEft (s : State) : State := { s with dfl := [(1 + 32 * 2 ^ 16, 0), (1 + 33 * 2 ^ 16, 0)] }
    let ask (s : State) : State := { s with repair := some (1, 1, 0, 0) }
    served a && (clu a 0).ncell == 32 && !(clu a 0).vacant && cellIsland a 0 0 == 0 && freeCellSlot a 0 == some 32 && freeCellSlot (noEft a) 0 == none && (bankOf a 0 64).staged.isEmpty &&
    isNext (run false a) a && wentTo (run true (setDreg Reg.ERR_POLICY 0 base)) (fun t => t.dueErr.map (·.detail) == [0x0F_0015] && cellSlotOf t 0 0 == 0) &&
    wentTo (run true a) (fun t => cellSlotOf t 0 0 == 32 && cellSlotOf t 0 1 == 1 && inDfl t 1 0 0 && (t.dueErr.any fun e => e.detail == 0x0F_0012) && t.repair == none) &&
    wentTo (run false (ask a)) (fun t => cellSlotOf t 0 0 == 32 && dreg t Reg.ERR_REPAIR_STATUS == 2) && wentTo (run true (noEft a)) (fun t => t.cluTrig == [0] && cellSlotOf t 0 0 == 0) &&
    wentTo (run false (ask (noEft a))) (fun t => dreg t Reg.ERR_REPAIR_STATUS == 10 && t.repair == none) && isNext (exec (.bankMove 0 64) a) a &&
    wentTo (exec (.bankMove 0 64) { a with bankMoves := [64, 65] }) (fun t => t.bankMoves == [65]) && isNext (exec (.bankMove 0 64) { modBank 0 64 (fun v => { v with code := 5 }) a with bankMoves := [64] }) { modBank 0 64 (fun v => { v with code := 5 }) a with bankMoves := [64] } = true := by decide +kernel

/-- Hypotheses of UnitsRetire, clusters: not due; due without AUTO_RETIRE; the eft 12 free, and all that an eft's statement asks; no eft (a short slot list), due. -/
theorem test_cluster_retirement :
    let a := auto base
    let noEft : State := { a with dfl := [(2 + (12 * 64 + 0x30) * 2 ^ 16, 0)] }
    served a && freeCluSlot a 0 == some 12 && (clu a 0).pw == .on && cmpIsland a 0 == 0x30 && freeCluSlot noEft 0 == none && a.moves == [] && isNext (exec (.clusterRetirement 0 false) a) a &&
    wentTo (exec (.clusterRetirement 0 true) (setDreg Reg.ERR_POLICY 0 base)) (fun t => t.dueErr.map (·.detail) == [0x0F_0015] && t.cluTrig == []) = true := by decide +kernel

/-- Hypotheses of UnitsRetire, channels: not due; asked with an eft and without one; a copy that ends; a channel that is copied already. -/
theorem test_channel_retirement :
    let isl := hbmIsland base 0
    let ask (s : State) : State := { s with repair := some (1, 5, isl, 0) }
    let noEft (s : State) : State := { s with dfl := [(5 + isl * 2 ^ 16 + 32 * 2 ^ 32, 0), (5 + isl * 2 ^ 16 + 33 * 2 ^ 32, 0)] }
    let copy : State := ask { base with hbmCopy := [(1, 33), (0, 32)] }
    freeChan base 0 == some 32 && freeChan (noEft base) 0 == none && isNext (exec (.hbmChannelRetirement 0) base) base && isNext (exec (.hbmChannelRetirement 0) (ask base)) { ask base with hbmCopy := [(0, 32)] } &&
    wentTo (exec (.hbmChannelRetirement 0) (noEft (ask base))) (fun t => dreg t Reg.ERR_REPAIR_STATUS == 10 + isl * 2 ^ 16) && isNext (exec (.hbmChannelRetirement 0) copy) copy && isNext (exec (.hbmMoveStep 2) copy) copy &&
    usersOf copy 0 == [0] && wentTo (exec (.hbmMoveStep 0) copy) (fun t => chanSlotOf t 0 == 32 && t.hbmCopy == [(1, 33)] && dreg t Reg.ERR_REPAIR_STATUS == 2 + isl * 2 ^ 16 && bitAt (preg t 0 Reg.ERR_PFLAGS) 0) = true := by decide +kernel

/-- Hypotheses of UnitsRetire, readmission: none asked; a self-test that fails; a cell that becomes an eft, one that takes back its number under RESTORE; a cluster with no vacant number,
and one; a channel. -/
theorem test_readmission :
    let at' (kind isl : Nat) (s : State) : State := { s with repair := some (2, kind, isl, 3) }
    let ok (s : State) (f : State → Bool) : Bool := wentTo (exec (.unitReadmit true) s) fun t => t.repair == none && (t.dueErr.any fun e => e.detail == 0x0F_0013) && f t
    let moved := modClu 0 (fun q => { q with cellSlot := [(0, 33)] }) base
    isNext (exec (.unitReadmit true) base) base && wentTo (exec (.unitReadmit false) (at' 5 (hbmIsland base 0) base)) (fun t => dreg t Reg.ERR_REPAIR_STATUS == 20 + hbmIsland base 0 * 2 ^ 16 && inDfl t 5 (hbmIsland base 0) 3) &&
    ok (at' 1 0 moved) (fun t => cellIsland t 0 0 == 32) && ok (at' 1 0 (setDreg Reg.ERR_POLICY 2 moved)) (fun t => cellIsland t 0 0 == 0) && ok (at' 2 (12 * 64 + 0x30) base) (fun t => !(clu t 3).vacant) &&
    ok (at' 2 (12 * 64 + 0x30) (modClu 3 (fun q => { q with vacant := true }) base)) (fun t => !(clu t 3).vacant && sluSlot t 3 == 12) && ok (at' 5 (hbmIsland base 0) base) (fun t => t.clus == base.clus) = true := by decide +kernel

/-- Hypotheses of UnitsRetire, requests: a cell in use, with and without GO, and while an operation runs; one that is listed; the readmission of one in use. -/
theorem test_repair_requests :
    let go (off v : Nat) (s : State) : Out := exec (.registerWrite 16 off 8 v) s
    let cell := 2 ^ 16 + 2 ^ 63
    let stat (o : Out) (n : Nat) (r : Option (Nat × Nat × Nat × Nat)) : Bool := wentTo o fun t => dreg t Reg.ERR_REPAIR_STATUS == n && t.repair == r
    mgmtOk base 0 && mgmtEnded base && mgmtPage base Reg.ERR_RETIRE && mgmtPage base Reg.ERR_READMIT && unitInUse base 1 0 0 &&
    stat (go Reg.ERR_RETIRE cell base) 3 (some (1, 1, 0, 0)) && wentTo (go Reg.ERR_RETIRE 2 base) (fun t => dreg t Reg.ERR_RETIRE == 2 && t.repair == none) &&
    stat (go Reg.ERR_RETIRE cell { base with repair := some (2, 1, 7, 0) }) 0 (some (2, 1, 7, 0)) &&
    stat (go Reg.ERR_READMIT (cell + 32) { base with dfl := [(1 + 32 * 2 ^ 16, 0)] }) (4 + 3 * 8 + 32 * 2 ^ 16) none &&
    stat (go Reg.ERR_READMIT cell base) (4 + 4 * 8) none = true := by decide +kernel

/-- Hypotheses of FirmwareServes, roles: a heartbeat, and none under an injection; 250 ms without one, and a tick less; a planned takeover; its end with an open update; a standby that boots
and one that fails; a core's restart with a started command. -/
theorem test_takeover :
    let r := setDreg Reg.ERR_MGMT 2 base
    let late (n : Nat) : State := { r with now := n }
    let tk := setDreg Reg.ERR_MGMT 6 base
    isNext (exec .heartbeat { base with now := 9 }) { base with now := 9, beatAt := 9 } && isNext (exec .heartbeat { base with now := 9, beatStop := true }) { base with now := 9, beatStop := true } && served r && standbyReady r &&
    isNext (exec (.takeover false) (late 6249999)) (late 6249999) && wentTo (exec (.takeover false) (late 6250000)) takingOver && wentTo (exec (.plannedTakeover false) r) takingOver && isNext (exec (.takeover true) r) r && takingOver tk &&
    wentTo (exec (.takeover true) tk) (fun t => !takingOver t && !standbyReady t && (t.dueErr.map (·.detail)) == [0x0F_0010, 0x0F_0011]) &&
    isNext (exec (.plannedTakeover false) tk) tk && wentTo (exec (.standbyBoot true) { base with stbyOk := true }) standbyReady && isNext (exec (.standbyBoot false) { base with stbyOk := true }) { base with stbyOk := false } && base.stbyOk == (exec (.standbyBoot true) base |> nxt |> standbyReady) &&
    wentTo (exec (.coreRestart 0) { base with mbx := [(0, { cmds := [{ op := 2, seq := 2, tag := 6, started := true }] })] }) (fun t => (t.due.map fun d => (d.tag, d.status, d.detail)) == [(6, 1, 0x0F_0001)] && t.dueErr.any fun e => e.detail == 0x0F_0001) = true := by decide +kernel

/-- Hypotheses of FirmwareServes, updates: busy by another function, by PLDM, without a standby; an image one byte too long; an update that is open for its command. -/
theorem test_update :
    let r := setDreg Reg.ERR_MGMT 2 base
    let u (s : State) (n a : Nat) : State := mcmd 0x10 [2 ^ 47, n, a] s
    let go (s : State) : Out := exec (.cmdFwUpdate 16 true true) s
    let opn : State := { r with fwUpd := some (16, { op := 0x10, seq := 2, tag := 6 }, 0x102), mbx := [(16, { cmds := [{ op := 0x10, seq := 2, tag := 6, started := true }] })] }
    (nextCmd (u r 1 0) 16 0x10).isSome && ended (go (u { r with fwUpd := some (17, {}, 0) } 1 0)) 1 0x0F_0004 (fun t => t.fwUpd.isSome) && ended (go (u { r with pldm := 1 } 1 0)) 1 0x0F_0004 (fun t => t.pldm == 1) &&
    ended (go (u base 1 0)) 1 0x0F_0004 (fun t => t.fwUpd.isNone) && ended (go (u r (2 ^ 26 + 1) 0)) 1 0x0B_0004 (fun t => t.slotAct == 0) && isOpen opn 16 2 && !takingOver opn &&
    ended (exec (.cmdFwUpdate 16 false true) opn) 1 0x0F_0005 (fun t => t.fwUpd.isNone && t.slotAct == 0) = true := by decide +kernel

/-- Hypotheses of FirmwareServes, injections: an address in a bank and in HBM, and one in neither; a link; the heartbeat; nothing while the module does not serve. -/
theorem test_injections :
    let aim (a : Nat) : State := setDreg Reg.ERR_INJECT_ADDR a base
    let off : State := {}
    wentTo (exec (.injectBankError true) (aim (2 ^ 29))) (fun t => dreg t Reg.ERR_INJECT == 2) && wentTo (exec (.injectHbmError false) (aim (2 ^ 44))) (fun t => dreg t Reg.ERR_INJECT == 3 && mget 0 t.inj (wordKey (2 ^ 50)) == 1) &&
    wentTo (exec (.injectHbmError false) (aim 0)) (fun t => dreg t Reg.ERR_INJECT == 3 && t.inj == []) && regionOf (2 ^ 44) == some 1 && chk (aim (2 ^ 44)) .fw 0 none (2 ^ 44) == .ok (2 ^ 50) &&
    wentTo (exec (.injectCrcFailure 15) base) (fun t => (linkOf t 15).inj && !(linkOf t 14).inj && dreg t Reg.ERR_INJECT == 5 + 16 * 15) && wentTo (exec .injectHeartbeatStop base) State.beatStop && !served off && isNext (exec .injectHeartbeatStop off) off = true := by decide +kernel

/-- Hypotheses of PinsAndSideband, rails: STANDBY and the input, PWR_EN, the losses from ON, those while off; a dip; a reset with HBM held and without, from the pin and the sideband. -/
theorem test_rails :
    let sb : State := { base with pwr := 1, pwrEn := false }
    let on (o : Out) : Bool := wentTo o fun t => t.pwr == 2 && t.stage == 0 && t.staging
    let offs (o : Out) (cause left : Nat) : Bool := wentTo o fun t => t.pwr == left && t.stage == 0 && t.outcome == 0 && dreg t Reg.PWR_MERR == cause * 2 ^ 16 && t.banks == []
    on (exec .pwrEnAssert sb) && on (exec .standbyRailUp { sb with pwr := 0, pwrEn := true }) && isNext (exec .standbyRailUp base) base && isNext (exec .standbyRailUp { sb with pwr := 0 }) sb && isNext (exec .pwrEnAssert { sb with trip := true }) { sb with trip := true, pwrEn := true } &&
    offs (exec .pwrEnDeassert base) 0 1 && offs (exec .overvoltage base) 2 1 && offs (exec (.undervoltage true) base) 1 0 && offs (exec (.undervoltage false) base) 1 1 && offs (exec .railFault base) 3 1 && offs (exec (.thermtrip 4) base) 4 1 &&
    offs (exec (.thermtrip 7) base) 7 1 && wentTo (exec .inputDip base) (fun t => dreg t Reg.PWR_MERR == 1) && wentTo (exec (.devrst true) base) (fun t => t.stage == 0 && t.warm) && wentTo (exec (.sidebandDeviceReset false) base) (fun t => t.stage == 0 && !t.warm && t.session) &&
    isNext (exec .railFault sb) sb && isNext (exec (.thermtrip 4) sb) sb && isNext (exec (.sidebandDeviceReset true) { sb with pwr := 0 }) { sb with pwr := 0 } && wentTo (exec (.sidebandDeviceReset true) sb) (fun t => t.pwr == 1 && t.session) = true := by decide +kernel

/-- Hypotheses of PinsAndSideband, sensors: each kind, at its threshold and past it; a sensor that does not answer; one that is not read in STANDBY. -/
theorem test_sensors :
    let rd (n : Nat) (v : Option Nat) (f : State → Bool) : Bool := wentTo (exec (.sensorRead n v) base) f
    rd 0 (some 12000) (fun t => dreg t Reg.PWR_VIN == 12000) && rd 1 (some 5) (fun t => dreg t Reg.PWR_INPUT == 5) && rd 2 (some 45) (fun t => !t.warned.testBit 1) && rd 2 (some 46) (fun t => t.warned.testBit 1 && (t.dueErr.map (·.sev)) == [6]) &&
    rd 3 (some 61) (fun t => t.warned.testBit 2) && rd 3 (some 255) (fun t => !t.warned.testBit 2) && rd 4 (some 449) (fun t => t.flowLow == some 0 && !t.warned.testBit 3) && rd 4 (some 450) (fun t => t.flowLow == none) &&
    wentTo (exec (.sensorRead 4 (some 449)) { base with now := 25000000, flowLow := some 0 }) (fun t => t.warned.testBit 3) && rd 16 (some (tHard base).toNat) (fun t => (clu t 0).hot && !(clu t 1).hot) &&
    wentTo (exec (.sensorRead 111 (some 40)) (modClu 95 (fun q => { q with hot := true }) base)) (fun t => !(clu t 95).hot && dreg t (Reg.PWR_TEMP + 8 * 95) == 40) && rd 16 none (fun t => t.warned.testBit 24 && dreg t Reg.PWR_TEMP == 256) &&
    isNext (exec (.sensorRead 16 none) { base with pwr := 1 }) { base with pwr := 1 } && isNext (exec (.sensorRead 0 none) { base with pwr := 0 }) { base with pwr := 0 } = true := by decide +kernel

/-- Hypotheses of PinsAndSideband, the sideband: messages before and after stage MGMT has ended; an update of each step; commands permitted, refused, garbled; a register written, read, misaligned; a
session that ends at 60 s. -/
theorem test_sideband :
    let sent (o : Out) (l : List (Nat × List Nat)) : Bool := wentTo o fun t => t.sent == l
    let early : State := {}
    let cmd (op : Nat) : Out := exec (.sidebandCommand (entry op 5)) base
    let o : State := { base with session := true, now := 1500000000 }
    mgmtEnded base && !mgmtEnded early && sent (exec (.pldmMessage 2 2 []) early) [(13, [2])] && sent (exec (.pldmMessage 2 1 []) base) [(12, [2, 1, 0, 1])] && sent (exec (.pldmMessage 5 0 []) early) [(13, [5])] && sent (exec (.pldmMessage 5 0 []) base) [(12, [5, 0])] && sent (exec (.pldmMessage 5 1 []) base) [(12, [5, 1])] &&
    sent (exec (.pldmMessage 5 2 []) { base with pldm := 1 }) [(12, [5, 0])] && isNext (exec (.pldmMessage 3 0 []) base) base && isNext (exec (.activateFirmware true true) base) base && sent (exec (.activateFirmware true true) { base with pldm := 2 }) [(12, [5, 1])] &&
    wentTo (exec (.activateFirmware true true) { early with pldm := 2, recovery := true, staging := false, outcome := 3 }) (fun t => t.slotAct == 1 && t.pldm == 0 && t.staging) &&
    wentTo (cmd 0) (fun t => t.session && ((mbxOf t 20).cmds.map Cmd.op) == [0] && t.due == []) && wentTo (cmd 1) (fun t => (t.due.map fun d => (d.mbx, d.seq, d.status, d.detail)) == [(20, 5, 1, 0x0B_0003)]) &&
    wentTo (exec (.sidebandCommand [5 * 2 ^ 32]) base) (fun t => (t.due.map fun d => (d.mbx, d.seq, d.status, d.detail)) == [(20, 5, 0x0D, 0x0B_0001)]) && sent (exec (.sidebandCommand []) early) [(13, [1])] &&
    wentTo (exec (.managementAccess Reg.BRG_CFG true 7) base) (fun t => dreg t Reg.BRG_CFG == 3 && t.sent == [(14, [0])]) && sent (exec (.managementAccess Reg.DEV_EXPERT false 0) base) [(14, [dreg base Reg.DEV_EXPERT])] && sent (exec (.managementAccess 4 false 0) base) [(14, [0])] &&
    wentTo (exec (.sidebandSessionTimeout false) o) (fun t => !t.session) && isNext (exec (.sidebandSessionTimeout false) { o with sessAt := 1 }) { o with sessAt := 1 } && wentTo (exec (.sidebandSessionTimeout true) { o with sessAt := 1 }) (fun t => !t.session) = true := by decide +kernel

/-- Islands of the variants (R19, R20, Table 1.6): stack 11 of AXV2-12/4 is on LUT die 7 alone, stack 7 of AXV2-8/2 on die 7, stack 15 of the reference variant second on die 7; Ethernet port 3 and link 15
of a variant with two I/O dies are on die 1; a stack that the variant lacks has no slots, and a core that it lacks is not restarted. -/
theorem test_variants :
    let v (x : Variant) : State := { base with variant := x }
    hbmIsland (v .v12x4) (32 * 11) = 0x7FC1 ∧ hbmIsland (v .v8x2) (32 * 7) = 0x7FC1 ∧ hbmIsland base (32 * 15) = 0x7FC2 ∧ portIsland (v .v16x2) 0x20 3 = 0x9021 ∧ portIsland base 0x20 3 = 0xB020 ∧
      linkIsland (v .v8x2) 15 = 0x9047 ∧ linkIsland base 15 = 0xB043 ∧ stackSlots (v .v8x2) 8 = none ∧ (stackSlots (v .v8x2) 7).isSome = true ∧ isNext (exec (.coreRestart 2) (v .v16x2)) (v .v16x2) = true := by decide +kernel

/-- Hypotheses of StepRunsFront and WellFormedCompletes: a step of a waiting command leaves the queue's rest; a well-formed command and one that names no unit of the module. -/
theorem test_step :
    isNext (step { base with pending := [.heartbeat, .inputDip] }) { base with pending := [.inputDip] } && isNext (step base) { base with now := 1 } && Instr.wellFormed (.bankMove 95 575) && illFormed (.bankMove 96 0) && illFormed (.bankMove 0 576) = true := by decide +kernel

/-- Hypotheses of StepKeepsInvariant, ElementArithmetic (a NaN) and FloatWordsRoundTrip (the largest number of FP32, negative zero of an FP8 format, the least number of FP16). -/
theorem test_words :
    Memory.wf base.mem ∧ Memory.wf [(3, 7), (4, 1)] ∧ ¬ Memory.wf [(4, 1), (3, 7)] ∧ fdec .fp32 0x7FC0_0000 = .nan ∧ fdec .fp32 0xFF7F_FFFF ≠ .nan ∧ fdec .f8a 0x80 ≠ .nan ∧ fdec .fp16 1 ≠ .nan ∧
      fenc .fp32 (fdec .fp32 0xFF7F_FFFF) = 0xFF7F_FFFF ∧ fenc .f8a (fdec .f8a 0x80) = 0 ∧ fenc .fp16 (fdec .fp16 1) = 1 := by decide +kernel

/-- Weight codes (R38, R42): the largest exponent of L4 is 6, of value 64, with either sign. The CRC-32 of IEEE 802.3 has its known check value. -/
theorem test_codes : codeInt .l4 6 = 64 ∧ codeInt .l4 14 = -64 ∧ codeInt .l4 7 = 0 ∧ isEsc .l4 15 = true ∧ isEsc .l4 7 = false ∧ codeInt .b1 1 = -1 ∧ crc32 [0x31, 0x32, 0x33, 0x34, 0x35, 0x36, 0x37, 0x38, 0x39] = 0xCBF4_3926 := by decide +kernel
end Sys2Proof.Tests
end

section
/-!
SUPPORT. Maps changed entry by entry, single bits, register reads after writes, what differs in one cluster or one partition
only, and what a host's write or read at expert level answers.
-/
namespace Sys2Proof.Machine

/-! ### Sparse maps -/

/-- An entry of a map whose values were changed is the change of an entry of the map. -/
theorem exists_mem_of_mem_mmap {α : Type} [DecidableEq α] {d : α} {f : Nat → α → α} {m : SMap α} {n : Nat} {v : α}
    (h : (n, v) ∈ mmap d f m) : ∃ u, (n, u) ∈ m ∧ v = f n u := by
  unfold mmap at h
  obtain ⟨⟨i, u⟩, hu, e⟩ := List.mem_map.1 (List.mem_filter.1 h).1
  obtain ⟨rfl, rfl⟩ := Prod.mk.inj e
  exact ⟨u, hu, rfl⟩

/-- Dropping named keys of a map: those named read as the default, the others as before. -/
theorem mget_foldl_mset_default {α : Type} [DecidableEq α] (d : α) (b : Nat → Bool) (l : List Nat) (m : SMap α) (k : Nat) :
    mget d (l.foldl (fun m i => if b i then mset d m i d else m) m) k = if k ∈ l ∧ b k = true then d else mget d m k := by
  induction l generalizing m with
  | nil => simp
  | cons i r ih =>
    simp only [List.foldl_cons, ih, List.mem_cons]
    by_cases hk : k = i
    · subst hk
      cases hb : b k <;> simp
    · have : mget d (if b i then mset d m i d else m) k = mget d m k := by
        split
        · exact mget_mset_ne d m d hk
        · rfl
      simp [this, hk]

/-! ### Bits and registers -/

theorem bitAt_eq_testBit (w n : Nat) : bitAt w n = w.testBit n := by
  rw [bitAt, Nat.testBit_eq_decide_div_mod_eq, Nat.shiftRight_eq_div_pow]

theorem testBit_orBit (w b i : Nat) : (orBit w b).testBit i = (w.testBit i || i == b) := by
  unfold orBit
  rw [bitAt_eq_testBit]
  split
  · next h =>
    by_cases e : i = b
    · subst e; simp [h]
    · simp [e]
  · next h =>
    rcases Nat.lt_trichotomy i b with e | rfl | e
    · rw [Nat.add_comm, Nat.testBit_two_pow_add_gt e, beq_false_of_ne (by omega), Bool.or_false]
    · rw [Nat.add_comm, Nat.testBit_two_pow_add_eq]
      simp [h]
    · -- the addition does not carry out of bit b
      have hc : (w + 2 ^ b) / 2 ^ (b + 1) = w / 2 ^ (b + 1) := by
        rw [Nat.testBit_eq_decide_div_mod_eq, decide_eq_true_eq] at h
        have h1 : w / 2 ^ b % 2 = 0 := by omega
        rw [Nat.pow_succ, ← Nat.div_div_eq_div_mul, ← Nat.div_div_eq_div_mul, Nat.add_div_right _ (Nat.two_pow_pos b)]
        omega
      obtain ⟨j, rfl⟩ := Nat.exists_eq_add_of_lt e
      rw [beq_false_of_ne (by omega), Bool.or_false, show b + j + 1 = j + (b + 1) by omega, ← Nat.testBit_div_two_pow, hc,
        Nat.testBit_div_two_pow]

theorem creg_setCreg (c o v n : Nat) (s : State) : creg (setCreg c o v s) c n = if n = o then v else creg s c n := by
  split
  · next h => subst h; exact creg_setCreg_same c n v s
  · next h => exact creg_setCreg_ne v s h

theorem testBit_creg_flagC (c e b o i : Nat) (s : State) :
    (creg (flagC c e b s) c o).testBit i = ((creg s c o).testBit i || (o == e && i == b)) := by
  rw [flagC, creg_setCreg]
  split
  · next h => subst h; simp [testBit_orBit]
  · next h => simp [h]

theorem preg_setPreg (p o v n : Nat) (s : State) : preg (setPreg p o v s) p n = if n = o then v else preg s p n := by
  split
  · next h => subst h; exact preg_setPreg_same p n v s
  · next h => exact preg_setPreg_ne v s h

theorem creg_modClu (c : Nat) (f : Cluster → Cluster) (s : State) (h : (f (clu s c)).regs = (clu s c).regs) (o : Nat) :
    creg (modClu c f s) c o = creg s c o := by
  unfold creg
  rw [clu_modClu_same, h]

/-- Clearing a list of registers. -/
theorem creg_foldl_setCreg_zero (c o : Nat) (l : List Nat) (s : State) :
    creg (l.foldl (fun s i => setCreg c i 0 s) s) c o = if o ∈ l then 0 else creg s c o := by
  induction l generalizing s with
  | nil => simp
  | cons i r ih =>
    rw [List.foldl_cons, ih, creg_setCreg]
    by_cases ho : o = i <;> simp [ho]

theorem preg_foldl_setPreg_zero (p o : Nat) (g : Nat → Nat) (l : List Nat) (s : State) :
    preg (l.foldl (fun s i => setPreg p (g i) 0 s) s) p o = if ∃ i ∈ l, o = g i then 0 else preg s p o := by
  induction l generalizing s with
  | nil => simp
  | cons i r ih =>
    rw [List.foldl_cons, ih, preg_setPreg]
    by_cases ho : o = g i <;> simp [ho]

/-! ### Frames -/

/-- Nothing differs but cluster c, and of it only what f blanks. -/
def OnlyCluster (c : Nat) (f : Cluster → Cluster) (s t : State) : Prop :=
  t = { s with clus := t.clus } ∧ (∀ d, d ≠ c → clu t d = clu s d) ∧ f (clu t c) = f (clu s c)

theorem onlyCluster_refl (c : Nat) (f : Cluster → Cluster) (s : State) : OnlyCluster c f s s := ⟨rfl, fun _ _ => rfl, rfl⟩

theorem OnlyCluster.trans {c : Nat} {f : Cluster → Cluster} {s t u : State} (h : OnlyCluster c f s t) (g : OnlyCluster c f t u) :
    OnlyCluster c f s u := by
  obtain ⟨hs, hd, hc⟩ := h
  obtain ⟨gs, gd, gc⟩ := g
  refine ⟨?_, fun d e => (gd d e).trans (hd d e), gc.trans hc⟩
  rw [gs, hs]

theorem onlyCluster_modClu {c : Nat} {f g : Cluster → Cluster} {s : State} (h : f (g (clu s c)) = f (clu s c)) :
    OnlyCluster c f s (modClu c g s) :=
  ⟨rfl, fun _ hd => clu_modClu_ne g s hd, by rw [clu_modClu_same, h]⟩

theorem onlyCluster_setCreg {c : Nat} {f : Cluster → Cluster} (hf : ∀ q r, f { q with regs := r } = f q) (o v : Nat) (s : State) :
    OnlyCluster c f s (setCreg c o v s) :=
  onlyCluster_modClu (hf _ _)

theorem onlyCluster_foldl {c : Nat} {f : Cluster → Cluster} {α : Type} {g : State → α → State}
    (h : ∀ s x, OnlyCluster c f s (g s x)) (l : List α) (s : State) : OnlyCluster c f s (l.foldl g s) := by
  induction l generalizing s with
  | nil => exact onlyCluster_refl c f s
  | cons x r ih => exact (h s x).trans (ih _)

theorem OnlyCluster.of_id {c : Nat} {s t : State} (h : OnlyCluster c id s t) (f : Cluster → Cluster) : OnlyCluster c f s t := by
  obtain ⟨hs, hd, hc⟩ := h
  exact ⟨hs, hd, congrArg f hc⟩

theorem OnlyCluster.creg_eq {c : Nat} {s t : State} (h : OnlyCluster c id s t) (o : Nat) : creg t c o = creg s c o := by
  obtain ⟨-, -, hc⟩ := h
  exact congrArg (fun q : Cluster => mget (cluReset o) q.regs o) hc

/-- The cluster without its registers. -/
def Cluster.noRegs (q : Cluster) : Cluster := { q with regs := [] }

theorem onlyCluster_noRegs_setCreg (c o v : Nat) (s : State) : OnlyCluster c Cluster.noRegs s (setCreg c o v s) :=
  onlyCluster_setCreg (fun _ _ => rfl) o v s

/-- Nothing differs but partition p, and of it only what f blanks. -/
def OnlyPartition (p : Nat) (f : Part → Part) (s t : State) : Prop :=
  t = { s with parts := t.parts } ∧ (∀ d, d ≠ p → part t d = part s d) ∧ f (part t p) = f (part s p)

theorem onlyPartition_refl (p : Nat) (f : Part → Part) (s : State) : OnlyPartition p f s s := ⟨rfl, fun _ _ => rfl, rfl⟩

theorem OnlyPartition.trans {p : Nat} {f : Part → Part} {s t u : State} (h : OnlyPartition p f s t) (g : OnlyPartition p f t u) :
    OnlyPartition p f s u := by
  obtain ⟨hs, hd, hp⟩ := h
  obtain ⟨gs, gd, gp⟩ := g
  refine ⟨?_, fun d e => (gd d e).trans (hd d e), gp.trans hp⟩
  rw [gs, hs]

theorem onlyPartition_setPreg {p : Nat} {f : Part → Part} (hf : ∀ q r, f { q with regs := r } = f q) (o v : Nat) (s : State) :
    OnlyPartition p f s (setPreg p o v s) :=
  ⟨rfl, fun _ hd => part_modPart_ne _ s hd, by rw [setPreg, part_modPart_same, hf]⟩

theorem onlyPartition_foldl {p : Nat} {f : Part → Part} {α : Type} {g : State → α → State}
    (h : ∀ s x, OnlyPartition p f s (g s x)) (l : List α) (s : State) : OnlyPartition p f s (l.foldl g s) := by
  induction l generalizing s with
  | nil => exact onlyPartition_refl p f s
  | cons x r ih => exact (h s x).trans (ih _)

/-! ### Writes and reads of a host -/

theorem hostReg_hostWrites {s : State} {p : Nat} (h : HostWrites s p) (off : Nat) (f : State → WRes) :
    hostReg p off f s = .next (takeWrite p off (f s) s) := by
  obtain ⟨hp, hx, he, hf⟩ := h
  simp [hostReg, hostWrite, bitAt_eq_testBit, Nat.not_le.2 hp, hx, he, hf]

theorem hostRead_hostWrites {s : State} {p : Nat} (h : HostWrites s p) (f : State → Nat × State) :
    hostRead p f s = .next { (f s).2 with ans := (0, leBytes 8 (f s).1) } := by
  obtain ⟨hp, hx, he, hf⟩ := h
  simp [hostRead, bitAt_eq_testBit, Nat.not_le.2 hp, hx, he]

theorem hostReg_inst_none {s : State} {p n : Nat} (h : HostWrites s p) (hi : instOf s p n = none) (off : Nat)
    (f : State → Nat → WRes) : hostReg p off (fun s => forInst s p n (f s)) s = .next s := by
  simp only [hostReg_hostWrites h, forInst, hi, takeWrite]

theorem hostReg_inst_took {s t : State} {p n c : Nat} (h : HostWrites s p) (hi : instOf s p n = some c) {f : State → Nat → WRes}
    (hf : f s c = .took t) (off : Nat) : hostReg p off (fun s => forInst s p n (f s)) s = .next t := by
  simp only [hostReg_hostWrites h, forInst, hi, hf, takeWrite]

end Sys2Proof.Machine
end

section
/-!
PROOFS. A step with no command waiting is a tick (O2).
-/
namespace Sys2Proof.Machine

@[simp] theorem addCnt_ctx (i n : Nat) (v : Cell) : (addCnt i n v).ctx = v.ctx := by
  unfold addCnt; split <;> rfl

theorem addCnt_blank (i n : Nat) (v : Cell) : { addCnt i n v with cnt := [], ctx := [] } = { v with cnt := [], ctx := [] } := by
  unfold addCnt; split <;> rfl

theorem cellTick_blank (n : Nat) (idle : Bool) (v : Cell) :
    { cellTick n idle v with cnt := [], ctx := [] } = { v with cnt := [], ctx := [] } := by
  unfold cellTick
  simp only [addCnt_blank]

theorem cellTick_ctx (n : Nat) (idle : Bool) (v : Cell) : (cellTick n idle v).ctx = mmap {} (fun _ x => x.land) v.ctx := by
  simp [cellTick]

/-- A cell's part of a tick: its counters and its contexts' results on their way change, and nothing else of it. -/
def Ticked (u v : Cell) : Prop :=
  { v with cnt := [], ctx := [] } = { u with cnt := [], ctx := [] } ∧
    ∀ x q, (x, q) ∈ v.ctx → ∃ r, (x, r) ∈ u.ctx ∧ (q = r ∨ q = r.land)

theorem ticked_refl (v : Cell) : Ticked v v := ⟨rfl, fun _ q h => ⟨q, h, .inl rfl⟩⟩

theorem ticked_cellTick (n : Nat) (idle : Bool) (v : Cell) : Ticked v (cellTick n idle v) := by
  refine ⟨cellTick_blank n idle v, fun x q h => ?_⟩
  rw [cellTick_ctx] at h
  obtain ⟨r, hr, e⟩ := exists_mem_of_mem_mmap h
  exact ⟨r, hr, .inr e⟩

/-- Each cell listed after a tick is a listed cell that ticked. -/
theorem ticked_of_mem_tick {s : State} {n : Nat} {v : Cell} (h : (n, v) ∈ (tick s).cells) :
    ∃ u, (n, u) ∈ s.cells ∧ Ticked u v := by
  simp only [tick] at h
  obtain ⟨u, hu, rfl⟩ := exists_mem_of_mem_mmap h
  refine ⟨u, hu, ?_⟩
  split
  · exact ticked_cellTick _ _ u
  · exact ticked_refl u

theorem step_nil {s : State} (h : s.pending = []) : step s = .next (tick s) := by
  simp only [step, h]

/-- Settles O2: an empty queue's step is `tick`, which changes the listed cells each on its own: an awake one by `cellTick`, another not at all. -/
theorem idleStepIsTick : Obligations.IdleStepIsTick :=
  fun s h => ⟨tick s, step_nil h, rfl, fun _ _ hv => ticked_of_mem_tick hv⟩

end Sys2Proof.Machine
end

section
/-!
PROOFS. The quantizer's registers (O34).
-/
namespace Sys2Proof.Machine

/-! ### Writes of a quantizer's registers -/

section
variable (c v : Nat) (s : State)

theorem qntWrite_ctrl : qntWrite c 0 v s = .took (setCreg c Reg.QNT_CTRL (v % 2) s) := rfl

theorem qntWrite_jobAddr : qntWrite c 0x10 v s = .took (pushJob c v (setCreg c Reg.QNT_JOB_ADDR (v % 2 ^ 48) s)) := rfl

theorem qntWrite_cstData : qntWrite c 0x28 v s = .took (pushScale c v s) := rfl

theorem qntWrite_statClr : qntWrite c 0x38 (v % 256) s = .took (clearStats c (v % 256) s) := by
  have h : bitAt (v % 256) 8 = false := by
    rw [bitAt_eq_testBit, show 256 = 2 ^ 8 from rfl, Nat.testBit_mod_two_pow]; rfl
  simp [qntWrite, h]

theorem qntWrite_cntClr : qntWrite c 0x38 256 s = .took (clearQntCounts c (clearStats c 256 s)) := rfl

end

/-! ### The quantizer's queue and shadows -/

theorem qq_setCreg (c o v : Nat) (s : State) : (clu (setCreg c o v s) c).qq = (clu s c).qq := by
  rw [setCreg, clu_modClu_same]

theorem pushJob_room {c : Nat} {s : State} (v : Nat) (h : (clu s c).qq.length < 8) :
    pushJob c v s = modClu c (fun q => { q with qq := q.qq ++ [{ addr := v % 2 ^ 48 }] }) s := by
  rw [pushJob, if_neg (by omega)]
  rfl

theorem pushJob_full {c : Nat} {s : State} (v : Nat) (h : 8 ≤ (clu s c).qq.length) : pushJob c v s = flagC c Reg.QNT_ERR 0 s :=
  if_pos h

theorem creg_pushJob_jobAddr (c v : Nat) (s : State) : creg (pushJob c v s) c Reg.QNT_JOB_ADDR = creg s c Reg.QNT_JOB_ADDR := by
  rcases Nat.lt_or_ge (clu s c).qq.length 8 with h | h
  · rw [pushJob_room v h, creg_modClu _ _ _ rfl]
  · rw [pushJob_full v h, flagC, creg_setCreg_ne _ _ (by decide)]

theorem onlyCluster_pushScale (c v : Nat) (s : State) : OnlyCluster c (fun q => { q with regs := [], cstSh := [] }) s (pushScale c v s) :=
  (onlyCluster_modClu rfl).trans (onlyCluster_setCreg (fun _ _ => rfl) _ _ _)

theorem cstSh_pushScale (c v k : Nat) (s : State) :
    mget none (clu (pushScale c v s) c).cstSh k =
      if k = creg s c Reg.QNT_CST_INDEX then some (v % 2 ^ 32) else mget none (clu s c).cstSh k := by
  simp [pushScale, setCreg, mget_mset]

theorem creg_pushScale (c v o : Nat) (s : State) :
    creg (pushScale c v s) c o = if o = Reg.QNT_CST_INDEX then (creg s c o + 1) % 16384 else creg s c o := by
  rw [pushScale, creg_setCreg, creg_modClu _ _ _ rfl]
  split
  · next h => subst h; rfl
  · rfl

/-! ### The quantizer's statistics and counts -/

theorem rowsAhead_of_phase {q : Cluster} (h : ∃ r, q.qrun = some r ∧ r.phase ≠ 0) : rowsAhead q = true := by
  obtain ⟨r, hr, hp⟩ := h
  simp [rowsAhead, hr, hp]

theorem not_rowsAhead_of_phase {q : Cluster} (h : ∀ r, q.qrun = some r → r.phase = 0) : rowsAhead q = false := by
  unfold rowsAhead
  split
  · next r hr => simp [h r hr]
  · rfl

theorem clearStats_ahead {c : Nat} {s : State} (v : Nat) (h : rowsAhead (clu s c) = true) :
    clearStats c v s = modClu c (fun q => { q with statClr := Nat.lor q.statClr (v % 256) }) s := if_pos h

theorem clearStats_now {c : Nat} {s : State} (v : Nat) (h : rowsAhead (clu s c) = false) :
    clearStats c v s = clearSlots c v s := if_neg (by simp [h])

theorem testBit_mod_256 (v b : Nat) : (v % 256).testBit b = (decide (b < 8) && v.testBit b) := Nat.testBit_mod_two_pow v 8 b

theorem testBit_statClr_clearStats {c : Nat} {s : State} (v b : Nat) (h : rowsAhead (clu s c) = true) :
    (clu (clearStats c v s) c).statClr.testBit b = ((clu s c).statClr.testBit b || (decide (b < 8) && v.testBit b)) := by
  rw [clearStats_ahead v h, clu_modClu_same, ← testBit_mod_256]
  exact Nat.testBit_or _ _ _

theorem onlyCluster_clearStats_ahead {c : Nat} {s : State} (v : Nat) (h : rowsAhead (clu s c) = true) :
    OnlyCluster c (fun q => { q with statClr := 0 }) s (clearStats c v s) := by
  rw [clearStats_ahead v h]
  exact onlyCluster_modClu (f := fun q => { q with statClr := 0 }) rfl

theorem onlyCluster_clearSlots (c v : Nat) (s : State) : OnlyCluster c (fun q => { q with stats := [] }) s (clearSlots c v s) :=
  onlyCluster_modClu (f := fun q => { q with stats := [] }) rfl

theorem stats_clearSlots (c v k : Nat) (s : State) :
    mget {} (clu (clearSlots c v s) c).stats k = if k < 8 ∧ v.testBit k = true then {} else mget {} (clu s c).stats k := by
  rw [clearSlots, clu_modClu_same, mget_foldl_mset_default]
  simp [upto, bitAt_eq_testBit]

/-- Bit 8 of QNT_CLEAR names no slot: a write of it alone clears none, now or later. -/
theorem onlyCluster_clearStats_256 (c : Nat) (s : State) : OnlyCluster c id s (clearStats c 256 s) := by
  cases h : rowsAhead (clu s c) with
  | true =>
    have hor : Nat.lor (clu s c).statClr (256 % 256) = (clu s c).statClr := Nat.or_zero _
    rw [clearStats_ahead _ h]
    exact onlyCluster_modClu (by rw [hor])
  | false => rw [clearStats_now _ h]; exact onlyCluster_modClu rfl

theorem creg_clearQntCounts (c o : Nat) (s : State) :
    creg (clearQntCounts c s) c o =
      if o ∈ [Reg.QNT_CB_MAXERR, Reg.QNT_ROW_ESC, Reg.QNT_SR_NAN, Reg.QNT_OA_CLAMP] then 0 else creg s c o :=
  creg_foldl_setCreg_zero c o _ s

theorem onlyCluster_clearQntCounts (c : Nat) (s : State) : OnlyCluster c Cluster.noRegs s (clearQntCounts c s) :=
  onlyCluster_foldl (fun s o => onlyCluster_noRegs_setCreg c o 0 s) _ s

theorem qntRead_statSum (c i : Nat) (s : State) : qntRead c (0x100 + 0x20 * i) s = statSumRead c i s := by
  have hsum : (0x100 + 0x20 * i) % 32 = 0 := by omega
  simp [qntRead, hsum]

theorem onlyPartition_clearRm (p : Nat) (s : State) : OnlyPartition p (fun q => { q with regs := [] }) s (clearRm p s) :=
  onlyPartition_foldl (fun s i => onlyPartition_setPreg (fun _ _ => rfl) (Reg.QNT_RM_COUNT + 8 * i) 0 s) _ s

theorem preg_clearRm (p o : Nat) (s : State) :
    preg (clearRm p s) p o =
      if Reg.QNT_RM_COUNT ≤ o ∧ o < Reg.QNT_RM_COUNT + 512 ∧ o % 8 = 0 then 0 else preg s p o := by
  have h : (∃ i ∈ upto 64, o = Reg.QNT_RM_COUNT + 8 * i) ↔
      Reg.QNT_RM_COUNT ≤ o ∧ o < Reg.QNT_RM_COUNT + 512 ∧ o % 8 = 0 := by
    simp only [upto, List.mem_range, Reg.QNT_RM_COUNT]
    exact ⟨fun ⟨i, hi, ho⟩ => by omega, fun ⟨h1, h2, h3⟩ => ⟨(o - 0x7C000) / 8, by omega, by omega⟩⟩
  rw [clearRm, preg_foldl_setPreg_zero]
  simp only [h]

theorem onlyCluster_statSumRead (c i : Nat) (s : State) :
    OnlyCluster c (fun q => { q with snap := [] }) s (statSumRead c i s).2 :=
  onlyCluster_modClu (f := fun q => { q with snap := [] }) (g := fun q => { q with snap := mset {} q.snap i _ }) rfl

theorem snap_statSumRead (c i k : Nat) (s : State) :
    mget {} (clu (statSumRead c i s).2 c).snap k = mget {} (if k = i then (clu s c).stats else (clu s c).snap) k := by
  rw [statSumRead, clu_modClu_same, mget_mset]
  split
  · next h => rw [h]
  · rfl

/-! ### The commands -/

section
variable {s : State} {p n c : Nat} (hw : HostWrites s p)

include hw in
theorem exec_qntRmClear (v : Nat) : exec (.qntRmClear p v) s = .next (if v.testBit 0 then clearRm p s else s) := by
  rw [← bitAt_eq_testBit]
  exact hostReg_hostWrites hw _ _

variable (hi : instOf s p n = some c)
include hw hi

theorem exec_qntJobAddrWrite (v : Nat) :
    exec (.qntJobAddrWrite p n v) s = .next (pushJob c v (setCreg c Reg.QNT_JOB_ADDR (v % 2 ^ 48) s)) :=
  hostReg_inst_took hw hi (f := fun s c => qntWrite c 0x10 v s) (qntWrite_jobAddr c v s) _

theorem exec_qntCstDataWrite (v : Nat) : exec (.qntCstDataWrite p n v) s = .next (pushScale c v s) :=
  hostReg_inst_took hw hi (f := fun s c => qntWrite c 0x28 v s) (qntWrite_cstData c v s) _

theorem exec_qntStatClear (v : Nat) : exec (.qntStatClear p n v) s = .next (clearStats c (v % 256) s) :=
  hostReg_inst_took hw hi (f := fun s c => qntWrite c 0x38 (v % 256) s) (qntWrite_statClr c v s) _

theorem exec_qntCountClear : exec (.qntCountClear p n) s = .next (clearQntCounts c (clearStats c 256 s)) :=
  hostReg_inst_took hw hi (f := fun s c => qntWrite c 0x38 256 s) (qntWrite_cntClr c s) _

theorem exec_qntHalt (v : Nat) : exec (.qntHalt p n v) s = .next (setCreg c Reg.QNT_CTRL (v % 2) s) :=
  hostReg_inst_took hw hi (f := fun s c => qntWrite c 0 v s) (qntWrite_ctrl c v s) _

theorem exec_qntStatSumRead {i : Nat} (h : i < 8) :
    exec (.qntStatSumRead p n i) s =
      .next { (statSumRead c i s).2 with ans := (0, leBytes 8 (mget {} (clu s c).stats i).sum) } := by
  show execQntStatSumRead p n i s = _
  rw [execQntStatSumRead, if_neg (Nat.not_le.2 h), hostRead_hostWrites hw]
  simp only [hi, qntRead_statSum]
  rfl

end

/-- Settles O34: each command takes the model's register operation, whose frame and effect are lemmas above. -/
theorem quantizerRegisters : Obligations.QuantizerRegisters := by
  intro s p n c v i hw
  refine ⟨fun hi => ?noInst, fun hi => ⟨fun hq => ?room, fun hq => ?full, ?addr, ?scale, fun hr => ?ahead, fun hr => ?now, ?counts,
    ?halt, fun h8 => ?sum⟩, ?rm⟩
  case noInst =>
    exact ⟨hostReg_inst_none hw hi _ fun s c => qntWrite c 0x10 v s, hostReg_inst_none hw hi _ fun s c => qntWrite c 0x28 v s,
      hostReg_inst_none hw hi _ fun s c => qntWrite c 0x38 (v % 256) s, hostReg_inst_none hw hi _ fun s c => qntWrite c 0x38 256 s,
      hostReg_inst_none hw hi _ fun s c => qntWrite c 0 v s⟩
  case room => rw [exec_qntJobAddrWrite hw hi, pushJob_room v (by rwa [qq_setCreg])]
  case full =>
    refine ⟨_, exec_qntJobAddrWrite hw hi v, ?_⟩
    rw [pushJob_full v (by rwa [qq_setCreg])]
    refine ⟨(onlyCluster_noRegs_setCreg c _ _ s).trans (onlyCluster_noRegs_setCreg c _ _ _), fun o ho b => ?_⟩
    rw [testBit_creg_flagC, creg_setCreg_ne _ _ ho]
  case addr => exact ⟨_, exec_qntJobAddrWrite hw hi v, (creg_pushJob_jobAddr c v _).trans (creg_setCreg_same c _ _ s)⟩
  case scale =>
    exact ⟨_, exec_qntCstDataWrite hw hi v, onlyCluster_pushScale c v s, fun k => cstSh_pushScale c v k s,
      fun o => creg_pushScale c v o s⟩
  case ahead =>
    have ha := rowsAhead_of_phase hr
    refine ⟨_, exec_qntStatClear hw hi v, onlyCluster_clearStats_ahead _ ha, fun b => ?_⟩
    rw [testBit_statClr_clearStats _ _ ha, testBit_mod_256, ← Bool.and_assoc, Bool.and_self]
  case now =>
    refine ⟨_, exec_qntStatClear hw hi v, ?_⟩
    rw [clearStats_now _ (not_rowsAhead_of_phase hr)]
    exact ⟨onlyCluster_clearSlots c _ s, fun k => stats_clearSlots c _ k s⟩
  case counts =>
    have h0 := onlyCluster_clearStats_256 c s
    refine ⟨_, exec_qntCountClear hw hi, (h0.of_id _).trans (onlyCluster_clearQntCounts c _), fun o => ?_⟩
    rw [creg_clearQntCounts, h0.creg_eq]
  case halt => exact ⟨_, exec_qntHalt hw hi v, onlyCluster_noRegs_setCreg c _ _ s, fun o => creg_setCreg c _ _ o s⟩
  case sum => exact ⟨_, exec_qntStatSumRead hw hi h8, onlyCluster_statSumRead c i s, rfl, fun k => snap_statSumRead c i k s⟩
  case rm =>
    refine ⟨_, exec_qntRmClear hw v, ?_⟩
    by_cases hv : v.testBit 0 = true
    · obtain ⟨hs, hd, hp⟩ := onlyPartition_clearRm p s
      simpa only [hv, if_true, true_and] using ⟨hs, hd, hp, fun o => preg_clearRm p o s⟩
    · simp [hv]

end Sys2Proof.Machine
end

section
/-!
PROOFS. The values of weight codes (O60), and words of the float formats read and written back (O29).
-/
namespace Sys2Proof.Machine

/-! ### Weight codes -/

theorem isEsc_b1 (c : Nat) : isEsc .b1 c = false := rfl

theorem codeInt_l4 : ∀ s < 2, ∀ e < 7, codeInt .l4 (8 * s + e) = (-1) ^ s * 2 ^ e := by decide

theorem isEsc_l4_iff (c : Nat) : isEsc .l4 c = true ↔ c = 15 :=
  (beq_iff_eq (a := some 15)).trans (Option.some_inj.trans eq_comm)

/-- Settles O60, code by code: B1 has two codes, L4 sixteen. -/
theorem weightCodeValues : Obligations.WeightCodeValues :=
  ⟨⟨rfl, rfl, by decide, isEsc_b1⟩, fun s e hs he => codeInt_l4 s hs e he, rfl, fun c _ => isEsc_l4_iff c⟩

/-! ### Words of the float formats -/

/-- The magnitude bits of a format's words, below the sign bit. -/
abbrev FSpec.magBits (f : FSpec) : Nat := f.ebits + f.mbits

/-- A word is its sign bit and its magnitude. -/
theorem signBit_add_mod (f : FSpec) {w : Nat} (h : w < 2 ^ (f.magBits + 1)) :
    signBit f (bitAt w f.magBits) + w % 2 ^ f.magBits = w := by
  generalize hn : f.magBits = n at *
  have hd : w / 2 ^ n < 2 := Nat.div_lt_of_lt_mul (by rwa [← Nat.pow_succ])
  have hm := Nat.div_add_mod w (2 ^ n)
  rw [signBit, show f.ebits + f.mbits = n from hn, bitAt_eq_testBit, Nat.testBit_eq_decide_div_mod_eq]
  rcases Nat.le_one_iff_eq_zero_or_eq_one.1 (Nat.le_of_lt_succ hd) with h0 | h0 <;> rw [h0] at hm ⊢ <;> simpa using hm

/-- A magnitude that stands at its own quantum is not rounded. -/
theorem magWord_eq (f : FSpec) {m : Nat} {e : Int} (hm : m ≠ 0) (hq : quantum f m e = e) :
    magWord f m e = (e - qmin f).toNat * 2 ^ f.mbits + m := by
  simp [magWord, hm, hq]

/-- A subnormal magnitude is its own word. -/
theorem magWord_subnormal (f : FSpec) {m : Nat} (h : m < 2 ^ f.mbits) : magWord f m (qmin f) = m := by
  by_cases hm : m = 0
  · rw [hm, magWord, if_pos rfl]
  · have hl : Nat.log2 m < f.mbits := (Nat.log2_lt hm).2 h
    rw [magWord_eq f hm (by rw [quantum]; omega), Int.sub_self, Int.toNat_zero, Nat.zero_mul, Nat.zero_add]

/-- The magnitude of a normal word with exponent field x. -/
theorem magWord_normal (f : FSpec) {m x : Nat} (h : m < 2 ^ f.mbits) (hx : x ≠ 0) :
    magWord f (2 ^ f.mbits + m) (qmin f + x - 1) = 2 ^ f.mbits * x + m := by
  have h0 : 2 ^ f.mbits + m ≠ 0 := by omega
  have hl : Nat.log2 (2 ^ f.mbits + m) = f.mbits := (Nat.log2_eq_iff h0).2 ⟨by omega, by rw [Nat.pow_succ]; omega⟩
  obtain ⟨x, rfl⟩ := Nat.exists_eq_add_one_of_ne_zero hx
  rw [magWord_eq f h0 (by rw [quantum, hl]; omega), show (qmin f + ↑(x + 1) - 1 - qmin f).toNat = x by omega,
    Nat.mul_add, Nat.mul_one, Nat.mul_comm x, Nat.add_assoc]

/-- What a word can decode to (R47): a finite value whose magnitude has the word's own magnitude bits, an infinity, or NaN. -/
theorem fdec_cases (fm : Fmt) (w : Nat) :
    (w % 2 ^ (fspec fm).magBits ≤ (fspec fm).maxFin ∧ ∃ m e, fdec fm w = .fin (bitAt w (fspec fm).magBits) m e ∧
      magWord (fspec fm) m e = w % 2 ^ (fspec fm).magBits) ∨
    ((fspec fm).hasInf = true ∧ w % 2 ^ (fspec fm).magBits = (fspec fm).maxFin + 1 ∧
      fdec fm w = .inf (bitAt w (fspec fm).magBits)) ∨
    fdec fm w = .nan := by
  unfold fdec
  generalize fspec fm = f
  dsimp only
  generalize hmag : w % 2 ^ f.magBits = mag
  have hlt : mag % 2 ^ f.mbits < 2 ^ f.mbits := Nat.mod_lt _ (Nat.two_pow_pos _)
  have hdm := Nat.div_add_mod mag (2 ^ f.mbits)
  split
  · next hle =>
    refine .inl ⟨hle, ?_⟩
    split
    · next hx =>
      rw [hx, Nat.mul_zero, Nat.zero_add] at hdm
      exact ⟨_, _, rfl, (magWord_subnormal f hlt).trans hdm⟩
    · next hx => exact ⟨_, _, rfl, (magWord_normal f hlt hx).trans hdm⟩
  · split
    · next hinf => exact .inr (.inl ⟨hinf.1, hinf.2, rfl⟩)
    · exact .inr (.inr rfl)

theorem fenc_fin (fm : Fmt) (neg : Bool) {m : Nat} {e : Int} (h : magWord (fspec fm) m e ≤ (fspec fm).maxFin) :
    fenc fm (.fin neg m e) = if (fm = .f8a ∨ fm = .f8b) ∧ magWord (fspec fm) m e = 0 then 0
      else signBit (fspec fm) neg + magWord (fspec fm) m e := by
  simp [fenc, h, and_comm]

theorem fenc_inf (fm : Fmt) (neg : Bool) (h : (fspec fm).hasInf = true) :
    fenc fm (.inf neg) = signBit (fspec fm) neg + ((fspec fm).maxFin + 1) := by
  simp [fenc, h, Nat.add_assoc]

/-- A word of its format that is no NaN encodes as itself, but an FP8 zero as positive (R47, R48, R63). -/
theorem fenc_fdec (fm : Fmt) {w : Nat} (hw : w < 2 ^ ((fspec fm).magBits + 1)) (hn : fdec fm w ≠ .nan) :
    fenc fm (fdec fm w) = if (fm = .f8a ∨ fm = .f8b) ∧ w % 2 ^ (fspec fm).magBits = 0 then 0 else w := by
  have hs := signBit_add_mod (fspec fm) hw
  obtain ⟨hle, m, e, hd, hm⟩ | ⟨hinf, hmax, hd⟩ | hd := fdec_cases fm w
  · rw [hd, fenc_fin fm _ (by rwa [hm]), hm, hs]
  · rw [hd, fenc_inf fm _ hinf, ← hmax, hs, if_neg (by omega)]
  · exact absurd hd hn

/-- Of the words of n + 1 bits, 0 and the sign bit alone have no magnitude. -/
theorem mod_two_pow_eq_zero_iff {n w : Nat} (h : w < 2 ^ (n + 1)) : w % 2 ^ n = 0 ↔ w = 0 ∨ w = 2 ^ n := by
  rw [Nat.pow_succ] at h
  constructor
  · intro hm
    rcases Nat.lt_or_ge w (2 ^ n) with hlt | hge
    · exact .inl (Nat.mod_eq_of_lt hlt ▸ hm)
    · rw [Nat.mod_eq_sub_mod hge, Nat.mod_eq_of_lt (by omega)] at hm
      omega
  · rintro (rfl | rfl) <;> simp

theorem fmtBits_eq_magBits {f : Fmt} (h : f ∈ [Fmt.bf16, .fp16, .fp32, .f8a, .f8b]) : fmtBits f = (fspec f).magBits + 1 := by
  revert f; decide

/-- Settles O29, by the three kinds of words that `fdec` tells apart. -/
theorem floatWordsRoundTrip : Obligations.FloatWordsRoundTrip := by
  intro f w hf hw hn
  rw [fmtBits_eq_magBits hf] at hw ⊢
  simp only [fenc_fdec f hw hn, mod_two_pow_eq_zero_iff hw, Nat.add_sub_cancel]
  by_cases h0 : w = 0
  · simp [h0]
  · simp only [h0, false_or]

end Sys2Proof.Machine
end

section
/-!
PROOFS. A quantizer job that runs to its end adds its last row to its statistic slot, whose counts saturate (O30).
-/
namespace Sys2Proof.Machine

/-! ### What a job that runs to its end has done last -/

/-- Two operations, one behind the other, that end well each end well. -/
theorem bind_ok {α β : Type} {m : EM α} {f : α → EM β} {s t : State} {b : β} (h : (m >>= f) s = .ok b t) :
    ∃ a u, m s = .ok a u ∧ f a u = .ok b t := by
  change EStateM.bind m f s = .ok b t at h
  unfold EStateM.bind at h
  split at h
  · next a u hm => exact ⟨a, u, hm, h⟩
  · cases h

theorem ok_of_runEM {α : Type} {m : EM α} {s t : State} {a : α} (h : runEM m s = .good a t) : m s = .ok a t := by
  unfold runEM at h
  split at h
  · next e => cases h; exact e
  · cases h

/-- A row's pass ends by adding the row to its statistic slot and noting the running counts. -/
theorem pass2Row_ok {c p r sideN clamped : Nat} {q : QSet} {f : Fmt} {cb offs : List Nat} {er : Int} {s t : State} {n : Nat × Nat}
    (h : pass2Row c p q f cb r er offs sideN clamped s = .ok n t) : ∃ a u i j, t = noteRun c i j (addStat c q a u) := by
  obtain ⟨xs, s1, -, h⟩ := bind_ok h
  obtain ⟨a, s2, -, h⟩ := bind_ok h
  obtain ⟨-, s3, -, h⟩ := bind_ok h
  obtain ⟨-, s4, -, h⟩ := bind_ok h
  obtain ⟨-, s5, -, h⟩ := bind_ok h
  cases h
  exact ⟨a, s5, _, _, rfl⟩

theorem bothPasses_ok {c p n : Nat} {q : QSet} {cb : List Nat} {s t : State} {k : Nat × Nat} (hn : n ≠ 0)
    (h : bothPasses c p q cb n s = .ok k t) : ∃ a u i j, t = noteRun c i j (addStat c q a u) := by
  obtain ⟨n, rfl⟩ := Nat.exists_eq_succ_of_ne_zero hn
  obtain ⟨a, s1, -, h⟩ := bind_ok h
  obtain ⟨xs, s2, -, h⟩ := bind_ok h
  exact pass2Row_ok h

/-- A job without range monitor ends by adding its last row to its statistic slot. -/
theorem runQuant_ok {c p : Nat} {r r' : QRun} {s t : State} (hrm : (qsetOf fun i => r.w.getD i 0).rmEn = false)
    (hrows : (qsetOf fun i => r.w.getD i 0).rows ≠ 0) (h : runQuant c p r s = .ok r' t) :
    ∃ a u i j, t = noteRun c i j (addStat c (qsetOf fun i => r.w.getD i 0) a u) := by
  obtain ⟨s0, s1, -, h⟩ := bind_ok h
  dsimp only at h
  cases hf : qsetFault (fun i => r.w.getD i 0) (clustersOf s0 p).length with
  | some f => rw [hf] at h; cases h
  | none =>
    rw [hf] at h
    obtain ⟨cb, s2, -, h⟩ := bind_ok h
    rw [hrm] at h
    obtain ⟨n, s3, hb, h⟩ := bind_ok h
    cases h
    exact bothPasses_ok hrows hb

/-- The count of escapes that a row leaves in its slot is of 32 bits: `satAdd` saturates the old count too. -/
theorem esc_addStat_lt (c : Nat) (q : QSet) (a : QAcc) (s : State) :
    (mget {} (clu (addStat c q a s) c).stats q.stat).esc < 2 ^ 32 := by
  rw [addStat, clu_modClu_same, mget_mset_eq]
  exact Nat.lt_of_le_pred (by decide) (Nat.min_le_left _ _)

@[simp] theorem stats_noteRun (c i j : Nat) (s : State) : (clu (noteRun c i j s) c).stats = (clu s c).stats := by
  rw [noteRun, modRun, clu_modClu_same]

/-! ### QUANT_JOB_START of a job that runs to its end -/

/-- The job at the front of the queue has begun: it runs, and the rest of the queue is left. -/
def takeQuant (c : Nat) (j : QJob) (rest : List QJob) (s : State) : State :=
  modClu c (fun v => { v with qq := rest, qrun := some { job := j } }) s

/-- The running job has its descriptor words. -/
def describeQuant (c : Nat) (w : List Nat) (s : State) : State :=
  modRun c (fun r => { r with w := w, atag := bits (w.getD 0 0) 7 4 }) s

/-- A job that can begin, is read and runs to its end: QUANT_JOB_START leaves what its passes leave, with its results noted. -/
theorem exec_quantJobStart_good {c : Nat} {j : QJob} {rest : List QJob} {s u t : State} {w : List Nat} {r : QRun} (hc : c < 96)
    (hq : (clu s c).qq = j :: rest)
    (hi : ((clu s c).qrun.isSome || bitAt (creg s c Reg.QNT_CTRL) 0 || !awake s c || isFrozen s (cluPart s c) (.vec c)) = false)
    (hw : runEM (readQuant c (cluPart s c) j.addr) (takeQuant c j rest s) = .good w u)
    (hr : runEM (runQuant c (cluPart s c) (((clu (describeQuant c w u) c).qrun).getD {})) (describeQuant c w u) = .good r t) :
    exec (.quantJobStart c) s = .next (modClu c (fun v => { v with qrun := some r }) t) := by
  show execQuantJobStart c s = _
  unfold takeQuant at hw
  unfold describeQuant at hr
  simp only [execQuantJobStart, if_neg (Nat.not_le.2 hc), hq, hi, Bool.false_eq_true, if_false, hw, hr]

/-! ### A statistic slot whose count of escapes passes 32 bits -/

/-- The operation ends well with a result and a state that are known. -/
def Res.gives {α : Type} [DecidableEq α] (x : Res α) (a : α) (s : State) : Bool :=
  match x with
  | .good b t => b == a && t == s
  | .stop _ _ => false

theorem Res.eq_of_gives {α : Type} [DecidableEq α] {x : Res α} {a : α} {s : State} (h : x.gives a s = true) : x = .good a s := by
  cases x with
  | good b t => simpa [gives] using h
  | stop e t => cases h

/-- The operation ends well. -/
def Res.isGood {α : Type} (x : Res α) : Bool :=
  match x with
  | .good _ _ => true
  | .stop _ _ => false

theorem Res.exists_of_isGood {α : Type} {x : Res α} (h : x.isGood = true) : ∃ a s, x = .good a s := by
  cases x with
  | good a s => exact ⟨a, s, rfl⟩
  | stop e s => cases h

/-- Words 0 to 7 of the job: one row of one FP32 element at 0x100 to I8 at 0x110, scales at 0x118, statistic slot 0 (Table 4.1). -/
def manyEscJob : List Nat := [0xFFFF_FF83_0000_007C, 0x100, 0x110, 0x118, 0, 0, 0, 0x100_0002_0001]

/-- Cluster 0 is about to start that job on the element 0.0. Its statistic slot 0 counts 2^32 escapes, one more than the 32 bits of the
count can say (R121). -/
def manyEsc : State :=
  { mem := ((manyEscJob.flatMap (leBytes 8)).zipIdx.map fun x => (x.2, x.1)).filter fun x => x.2 != 0
    clus := [(0, { part := some 0, qq := [{}], stats := [(0, { esc := 2 ^ 32 })] })]
    banks := [(0, { code := 4, codeN := 0xFFFB })] }

theorem clean_manyEsc {a n : Nat} {ks : List Nat}
    (h : (runEM (keysOf (.vec 0) 0 none a n) manyEsc).gives ks manyEsc = true ∧
      ∀ q ∈ ks, q < 2 ^ 52 ∧ (bankOf manyEsc (bankOfKey q).1 (bankOfKey q).2).staged = []) :
    Clean manyEsc (.vec 0) 0 none a n ks := by
  obtain ⟨hkeys, hbank⟩ := h
  refine ⟨by simp, Res.eq_of_gives hkeys, fun q hq => ?_⟩
  obtain ⟨hlt, hstaged⟩ := hbank q hq
  exact ⟨hlt, rfl, rfl, hstaged⟩

theorem words_manyEsc :
    ((List.range 8).map fun i => leNat ((((List.range 64).drop (8 * i)).take 8).map (peek manyEsc))) = manyEscJob := by
  decide +kernel

/-- The job runs to its end, and the count is then of 32 bits. -/
theorem manyEsc_start : ∃ t, exec (.quantJobStart 0) manyEsc = .next t ∧ (mget {} (clu t 0).stats 0).esc < 2 ^ 32 := by
  have hw : runEM (readQuant 0 0 0) (takeQuant 0 {} [] manyEsc) = .good manyEscJob (takeQuant 0 {} [] manyEsc) :=
    Res.eq_of_gives (by decide +kernel)
  obtain ⟨r, t, hr⟩ := Res.exists_of_isGood (x := runEM (runQuant 0 0 { w := manyEscJob, atag := 7 })
    (describeQuant 0 manyEscJob (takeQuant 0 {} [] manyEsc))) (by decide +kernel)
  refine ⟨_, exec_quantJobStart_good (j := {}) (rest := []) (by decide) rfl rfl hw hr, ?_⟩
  obtain ⟨a, u, i, j, rfl⟩ := runQuant_ok rfl (by decide) (ok_of_runEM hr)
  rw [clu_modClu_same, stats_noteRun]
  exact esc_addStat_lt 0 _ a u

/-- Refutes O30: QUANT_JOB_START adds a row to its statistic slot with counts that saturate at 2^32 - 1, so that a slot whose count of
escapes is 2^32, which the statement's states do not exclude, does not keep that count. -/
theorem not_quantJobStarts : ¬ Obligations.QuantJobStarts := by
  intro h
  obtain ⟨-, hrun⟩ := h manyEsc 0 0 {} [] (List.range 64) [0x100, 0x101, 0x102, 0x103] [0x118, 0x119, 0x11A, 0x11B, 0x11C]
    [0x110] false 0 (-149) 0 (by decide)
  rw [words_manyEsc] at hrun
  obtain ⟨-, hgood⟩ := hrun rfl rfl rfl rfl rfl rfl (clean_manyEsc (by decide +kernel))
  obtain ⟨t, ht, -, -, -, -, -, ⟨u, hstat⟩, -⟩ := hgood rfl rfl rfl rfl rfl rfl rfl rfl
    (clean_manyEsc (by decide +kernel)) (by decide +kernel) (clean_manyEsc (by decide +kernel))
    (clean_manyEsc (by decide +kernel)) (by decide) (by decide) (absurd rfl) (fun _ => rfl)
  obtain ⟨t', ht', hlt⟩ := manyEsc_start
  rw [ht] at ht'
  cases ht'
  have hesc : (mget {} (clu t 0).stats 0).esc = 2 ^ 32 := congrArg Stat.esc hstat
  omega

end Sys2Proof.Machine
end
